-- ==== Sys2Proof/Word.lean ====
section
/-! DEFINITION. The word types of the LZ-940 (R14, R39, R57, R98). -/

namespace Sys2Proof

/-- A register or memory word of 32 bits. -/
abbrev Word := BitVec 32

/-- One byte of memory. -/
abbrev Byte := BitVec 8

/-- One granule of code (R14). -/
abbrev Granule := BitVec 32

/-- A set of lanes of one crew: bit `l` names lane `l` (W = 64, R1). -/
abbrev Mask := BitVec 64

/-- A 9-bit register operand code: bit 8 is FILE (1: s file), bits 7..0 the index (R20). -/
abbrev RegCode := BitVec 9

/-- A predicate index p0 to p63. -/
abbrev PIdx := BitVec 6

end Sys2Proof
end

