-- ==== Sys2Proof/Config.lean ====
section
/-! DEFINITION. What one ICV-LZ940-A fixes (R1, R56) and the values the spec leaves open. -/

namespace Sys2Proof.Config

/-- Lanes per core, W (R1). -/
def lanes : Nat := 64
/-- Dies per package, cores per die, cores per quad (R1). -/
def dies : Nat := 4
def coresPerDie : Nat := 64
def coresPerQuad : Nat := 4
def quadsPerDie : Nat := 16
/-- All cores and all quads of the package. -/
def cores : Nat := 256
def quads : Nat := 64
/-- Crew slots of a core and registers per lane (R56). -/
def slots : Nat := 16
def laneRegs : Nat := 1024
/-- Scratchpad: banks of a core and rows of a bank (R1). -/
def banks : Nat := 64
def rows : Nat := 384
/-- Ticket slots, deferred queue and per-thread queue of a copy unit (R197). -/
def ticketSlots : Nat := 64
def deferredMax : Nat := 1024
def perThreadMax : Nat := 2048
/-- Reservation table of a quad (R223), open coalescer records (R316), mailbox (R196). -/
def matrixTable : Nat := 16
def coalescerMax : Nat := 8
def mailboxMax : Nat := 16
/-- PC table of a core (R63), stops of a token ring (R178). -/
def pcEntries : Nat := 64
def ringStops : Nat := 65
/-- Task bins of a die (R82), its on-chip queue, its join counters (R56). -/
def taskBins : Nat := 32
def joinCounters : Nat := 4096
/-- Loop-buffer capacity in instructions (R72). -/
def loopBuffer : Nat := 256
/-- Queue window (R334). -/
def window : Nat := 64

/-- The functions whose bits R54 leaves open within a bound. -/
inductive ApproxFn where
  | rcp | rsq | exp2 | log2 | tanh
  deriving DecidableEq, Repr

/-- FREE VALUE (log 3): the bits an implementation would return for an approximated function.
They are used only where they meet the bound of R54. -/
opaque approx : ApproxFn → Word → Word

/-- FREE VALUE (log 3): time by which the copy unit's estimate passes the TICK of issue
(R211, R212); applied to the state's counter of free values. -/
opaque estimateDelay : Nat → Nat

/-- FREE VALUE (log 3): the SHA-384 digest of a start stage's code (R340), by image and stage. -/
opaque stageDigest : Nat → Nat → Nat

/-- FREE VALUE (log 3): the bytes of a saved crew's record whose places within their section the save layout does not
give (R320), by offset. -/
opaque recordByte : Nat → BitVec 8

end Sys2Proof.Config
end

