-- ==== Sys2Proof/Syntax.lean ====
section
/-! DEFINITION. The instruction words and the events of the LZ-940: one constructor of `Instr` per
row of the opcode table. Instruction rows carry the header of granule 1 and the operand fields of
their description; event rows carry which unit acts and the choices the spec leaves to the
implementation, to system software or to the outside. -/

namespace Sys2Proof

/-- Granule 1 beside LEN, OPC and X0 (R15). -/
structure Hdr where
  stall : BitVec 4
  yld : Bool
  ge : Bool
  gn : Bool
  gp : PIdx
  deriving DecidableEq, Repr

/-- The three-operand G2 layout (R23) with FN's modifier. -/
structure Op3 where
  d : RegCode
  a : RegCode
  b : RegCode
  mod : BitVec 3
  ext : BitVec 2
  deriving DecidableEq, Repr

/-- The G3 immediate layout (R23). -/
structure OpI where
  d : RegCode
  a : RegCode
  imm : Word
  mod : BitVec 3
  ext : BitVec 2
  deriving DecidableEq, Repr

/-- LOOP (R91). -/
structure LoopOp where
  lc : BitVec 2
  cs : Bool
  endOff : BitVec 12
  count : BitVec 24
  c : RegCode
  deriving DecidableEq, Repr

/-- SEL (R109). -/
structure SelOp where
  bi : Bool
  pn : Bool
  d : RegCode
  a : RegCode
  p : PIdx
  b : RegCode
  imm : Word
  deriving DecidableEq, Repr

/-- CVT (R114). -/
structure CvtOp where
  d : RegCode
  a : RegCode
  tgt : BitVec 4
  src : BitVec 4
  sat : Bool
  ext : BitVec 2
  deriving DecidableEq, Repr

/-- UNPK (R115). -/
structure UnpkOp where
  d : RegCode
  a : RegCode
  width : BitVec 2
  sx : Bool
  idx : BitVec 3
  deriving DecidableEq, Repr

/-- Member mask and registers of a cross-lane instruction (R119). -/
structure LaneOp where
  m : RegCode
  d : RegCode
  a : RegCode
  b : RegCode
  deriving DecidableEq, Repr

/-- SHFR's offset (R122): absolute K, or a width-relative W >> j with a sign. -/
structure ShfrCtl where
  rel : Bool
  k : BitVec 7
  j : BitVec 3
  neg : Bool
  wrap : Bool
  deriving DecidableEq, Repr

/-- PLOP (R117). -/
structure PlopOp where
  lut : BitVec 8
  d : PIdx
  a : PIdx
  b : PIdx
  c : PIdx
  e : PIdx
  lut2 : BitVec 8
  ev : Bool
  deriving DecidableEq, Repr

/-- LDT, STT, LDV, STV, LDX, TFILL (R141). -/
structure AccOp where
  n : BitVec 8
  c : RegCode
  v : RegCode
  vn : BitVec 2
  all : Bool
  b : RegCode
  deriving DecidableEq, Repr

/-- ALLOC and MAPG (R147, R149). -/
structure AllocOp where
  own : Bool
  p : PIdx
  n : BitVec 8
  s : RegCode
  deriving DecidableEq, Repr

/-- WAITCAP (R168). -/
structure WaitcapOp where
  nd : Bool
  rank : BitVec 3
  p : PIdx
  nb : BitVec 7
  d : RegCode
  deriving DecidableEq, Repr

/-- RERANK (R169). -/
structure RerankOp where
  rs : Bool
  rimm : BitVec 3
  p : PIdx
  n : BitVec 8
  a : RegCode
  deriving DecidableEq, Repr

/-- ACPY and ASTO (R201). -/
structure CpyOp where
  nr : Bool
  tag : BitVec 3
  dn : BitVec 8
  dc : RegCode
  p : PIdx
  sn : BitVec 8
  sc : RegCode
  nimm : BitVec 6
  nreg : RegCode
  deriving DecidableEq, Repr

/-- BCPY (R208): `t` the ticket register, `c` the source coordinate. -/
structure BcpyOp where
  setf : Bool
  dn : BitVec 8
  t : RegCode
  sn : BitVec 8
  c : RegCode
  deriving DecidableEq, Repr

/-- BPUT (R208): `c` the destination coordinate. -/
structure BputOp where
  dn : BitVec 8
  c : RegCode
  p : PIdx
  sn : BitVec 8
  t : RegCode
  deriving DecidableEq, Repr

/-- MIGR (R219). -/
structure MigrOp where
  home : BitVec 3
  p : PIdx
  t : RegCode
  n : BitVec 8
  c : RegCode
  deriving DecidableEq, Repr

/-- MMA (R245); `prec` is the field PREC − 1. -/
structure MmaOp where
  fa : BitVec 4
  fb : BitVec 4
  bt : Bool
  p : PIdx
  t : RegCode
  ps : Bool
  prec : BitVec 4
  kb : Bool
  an : BitVec 8
  ac : RegCode
  bn : BitVec 8
  bc : RegCode
  deriving DecidableEq, Repr

/-- MMAS (R245). -/
structure MmasOp where
  fa : BitVec 4
  fb : BitVec 4
  p : PIdx
  t : RegCode
  ps : Bool
  prec : BitVec 4
  an : BitVec 8
  ac : RegCode
  o : RegCode
  val : BitVec 8
  idx : BitVec 8
  ptr : BitVec 8
  deriving DecidableEq, Repr

/-- MSCA (R245). -/
structure MscaOp where
  p : PIdx
  t : RegCode
  ps : Bool
  tile : BitVec 2
  sn : BitVec 8
  sc : RegCode
  deriving DecidableEq, Repr

/-- MZERO, MLDA, MDRN, MDRA (R245); `cv` and `rel` are used by the drains, `n` and `c` by all but MZERO. -/
structure TileOp where
  tile : BitVec 3
  cv : BitVec 2
  rel : Bool
  p : PIdx
  t : RegCode
  n : BitVec 8
  c : RegCode
  deriving DecidableEq, Repr

/-- BAR, BARA, BARW, PHASE (R265). -/
structure BarOp where
  bid : BitVec 4
  lvl : BitVec 3
  cm : Bool
  deriving DecidableEq, Repr

/-- ATOM, ATOMS, ATRED (R267). -/
structure AtomOp where
  op : BitVec 4
  ty : BitVec 2
  d : RegCode
  a : RegCode
  b : RegCode
  n : BitVec 8
  c : RegCode
  rel : Bool
  deriving DecidableEq, Repr

/-- SPAWN (R94). -/
structure SpawnOp where
  cf : Bool
  cx : Bool
  p : PIdx
  f : RegCode
  j : RegCode
  off : BitVec 24
  a : RegCode
  in0 : BitVec 8
  in1 : BitVec 8
  oute : BitVec 8
  v : BitVec 3
  deriving DecidableEq, Repr

/-- JOIN (R95): `arm` is OP 01. -/
structure JoinOp where
  arm : Bool
  self : Bool
  a : RegCode
  b : RegCode
  deriving DecidableEq, Repr

/-- LAUNCH (R97). -/
structure LaunchOp where
  dep : Bool
  q : RegCode
  n : BitVec 8
  c : RegCode
  deriving DecidableEq, Repr

/-- TRAP (R326). -/
structure TrapOp where
  code : BitVec 16
  a : RegCode
  av : Bool
  deriving DecidableEq, Repr

/-- SETH (R324). -/
structure SethOp where
  cls : BitVec 4
  src : BitVec 2
  off : BitVec 24
  a : RegCode
  deriving DecidableEq, Repr

/-- TMASK (R325). -/
structure TmaskOp where
  op : BitVec 2
  wd : Bool
  d : RegCode
  mask : BitVec 10
  deriving DecidableEq, Repr

/-- Why a crew is killed (R34, R313): the fatal traps carry their class number. -/
inductive Cause where
  | fetch | entry | granule | cross | malcont | opc | fn | len | priv | rsvd | sreg | vreg | kind
  | nested | rett
  | fatal (cls : BitVec 4)
  deriving DecidableEq, Repr

/-! Events. Cores, quads and dies are numbered through the package: core `c` of die `d` is
`64 d + c`, quad `c / 4`. -/

/-- One crew slot of the package. -/
structure SlotRef where
  core : Nat
  slot : Nat
  deriving DecidableEq, Repr

/-- Placement of one block (R59): the choices the spec leaves open are the cores and the crew numbers. -/
structure PlaceEv where
  launch : Nat
  block : Nat
  cores : List Nat
  crewIds : List (BitVec 16)
  deriving DecidableEq, Repr

/-- A task bin of a die forms a crew on a core (R82); the core is open where HANY is 1. -/
structure TaskEv where
  die : Nat
  bin : Nat
  core : Nat
  crewId : BitVec 16
  deriving DecidableEq, Repr

/-- One request of a core's copy unit, named by its serial number. -/
structure ReqRef where
  core : Nat
  req : Nat
  deriving DecidableEq, Repr

/-- A write of CAPCTL (R153): fields left `none` keep their value; `debug` marks a debug write. -/
structure CapctlEv where
  core : Nat
  target : Option Nat
  pinQuota : Option Nat
  force : Option Bool
  debug : Bool
  deriving DecidableEq, Repr

/-- The 64 KiB page of a global allocation of a context (R199). -/
structure PageRef where
  ctx : Nat
  handle : BitVec 64
  page : Nat
  deriving DecidableEq, Repr

/-- The writable fields of a context control block (R330). -/
inductive CcbField where
  | fqBase | fqHead | fqLog | priv | replay | ckpti | quant | plock | wdlog | qtBase | nq
  deriving DecidableEq, Repr

/-- A field of a queue descriptor that software writes (R331). -/
inductive QueueField where
  | base | slog | ranged | devfed
  deriving DecidableEq, Repr

/-- The control registers that REGISTER_WRITE reaches (R179, R186). -/
inductive CtrlReg where
  | ringctlInj (die : Nat)
  | wavectl (quad : Nat)
  | queueField (ctx queue : Nat) (f : QueueField)
  deriving DecidableEq, Repr

/-- One write of the power microcontroller's control loop (R190). -/
inductive LoopWrite where
  | point (quad : Nat) (op : Nat)
  | target (core : Nat) (v : Nat)
  | inj (die : Nat) (v : Nat)
  deriving DecidableEq, Repr

/-- What a request of an operating point names (R189): a voltage in mV and a frequency in MHz. -/
structure PointEv where
  quad : Nat
  mV : Nat
  freq : Nat
  deriving DecidableEq, Repr

/-- Pre-emption of a core for an incoming context (R317). -/
structure PreemptEv where
  core : Nat
  ctx : Nat
  slots : Nat
  regs : Nat
  deriving DecidableEq, Repr

/-- Restore of the `idx`-th saved crew of a context into a slot of its core (R317, R318). -/
structure RestoreEv where
  ctx : Nat
  idx : Nat
  slot : Nat
  deriving DecidableEq, Repr

/-- A queue of a context. -/
structure QueueRef where
  ctx : Nat
  queue : Nat
  deriving DecidableEq, Repr

/-- One record of a queue's window, counted from the oldest. -/
structure RecRef where
  ctx : Nat
  queue : Nat
  idx : Nat
  deriving DecidableEq, Repr

/-- A firmware image offered to the standby complex (R339, R340): the two signature checks are
results of the outside's cryptography. -/
structure ImageEv where
  image : Nat
  version : Nat
  digest : Nat
  makerSig : Bool
  ownerSig : Bool
  deriving DecidableEq, Repr

/-- The steps of a live update (R339). -/
inductive UpdateStep where
  | boot | exportState | takeOver (forced : Bool) | serve | fail
  deriving DecidableEq, Repr

/-- Start stages (R341). -/
inductive Stage where
  | safe | bringup | ready
  deriving DecidableEq, Repr

/-- Power states (R342). -/
inductive Power where
  | active | idle | nap | doze
  deriving DecidableEq, Repr

/-- Operand forms of nupdb's `print` (R349, R352, R356, R357). `lanes` none: every lane; `sel` empty: the whole entry,
else a range in each coordinate, slowest first. -/
inductive PrintForm where
  | v (n : BitVec 8) (lanes : Option (Nat × Nat))
  | p (n : PIdx) (lane : Option Nat)
  | s (n : BitVec 8)
  | sPair (n : BitVec 8)
  | special (code : BitVec 8)
  | capq (st : Bool)
  | entry (lt : BitVec 8) (sel : List (Nat × Nat))
  | image (handle : BitVec 64) (width : Nat) (lo hi : Nat)
  | barrier (b : BitVec 4)
  | ticket (s : BitVec 8)
  | ltState (lt : BitVec 8)
  deriving DecidableEq, Repr

/-- A data image that nupdb places (R11, R353): the even s register of its handle's parameter, the handle, its bytes, and
the launch-time entries that carry the handle. -/
structure RunImage where
  sreg : Nat
  handle : BitVec 64
  bytes : List Byte
  entries : List Nat
  deriving DecidableEq, Repr

/-- nupdb's `run kernel name=value …` (R346, R353): the queue, the kernel's code with the addresses of its labels, the
record that nupas built, parameter words by s register, `fpctl=`, and the data images. -/
structure RunEv where
  ctx : Nat
  queue : Nat
  code : List Byte
  labels : List Word
  record : List Byte
  params : List (Nat × Word)
  fpctl : BitVec 18
  images : List RunImage
  deriving DecidableEq, Repr

/-- A write delivered over Ettil (R329): bytes at an offset of an allocation. -/
structure EttilEv where
  node : Nat
  ctx : Nat
  handle : BitVec 64
  offset : Nat
  bytes : List Byte
  deriving DecidableEq, Repr

/-- The instructions and events of spec/opcode_table.json, in its order. -/
inductive Instr where
  -- control (R85 to R93)
  | nop (h : Hdr)
  | nopG3 (h : Hdr)
  | nopG4 (h : Hdr)
  | bra (h : Hdr) (off : BitVec 24)
  | brx (h : Hdr) (a : RegCode)
  | call (h : Hdr) (d : RegCode) (off : BitVec 20)
  | callx (h : Hdr) (d a : RegCode)
  | ret (h : Hdr) (a : RegCode)
  | exit (h : Hdr)
  | lbrk (h : Hdr)
  | yield (h : Hdr)
  | bkpt (h : Hdr) (code : BitVec 16)
  | sleept (h : Hdr) (a : RegCode)
  | loop (h : Hdr) (o : LoopOp)
  -- integer (R106 to R109)
  | iadd (h : Hdr) (o : Op3)
  | isub (h : Hdr) (o : Op3)
  | imul (h : Hdr) (o : Op3)
  | imulh (h : Hdr) (o : Op3)
  | imad (h : Hdr) (o : Op3)
  | imin (h : Hdr) (o : Op3)
  | imax (h : Hdr) (o : Op3)
  | iabs (h : Hdr) (o : Op3)
  | and (h : Hdr) (o : Op3)
  | or (h : Hdr) (o : Op3)
  | xor (h : Hdr) (o : Op3)
  | andn (h : Hdr) (o : Op3)
  | shl (h : Hdr) (o : Op3)
  | shr (h : Hdr) (o : Op3)
  | sar (h : Hdr) (o : Op3)
  | bfx (h : Hdr) (o : Op3)
  | bfi (h : Hdr) (o : Op3)
  | popc (h : Hdr) (o : Op3)
  | clz (h : Hdr) (o : Op3)
  | brev (h : Hdr) (o : Op3)
  | iset (h : Hdr) (o : Op3)
  | mov (h : Hdr) (o : Op3)
  | iaddImm (h : Hdr) (o : OpI)
  | isubImm (h : Hdr) (o : OpI)
  | imulImm (h : Hdr) (o : OpI)
  | imulhImm (h : Hdr) (o : OpI)
  | imadImm (h : Hdr) (o : OpI)
  | iminImm (h : Hdr) (o : OpI)
  | imaxImm (h : Hdr) (o : OpI)
  | iabsImm (h : Hdr) (o : OpI)
  | andImm (h : Hdr) (o : OpI)
  | orImm (h : Hdr) (o : OpI)
  | xorImm (h : Hdr) (o : OpI)
  | andnImm (h : Hdr) (o : OpI)
  | shlImm (h : Hdr) (o : OpI)
  | shrImm (h : Hdr) (o : OpI)
  | sarImm (h : Hdr) (o : OpI)
  | isetImm (h : Hdr) (o : OpI)
  | movi (h : Hdr) (o : OpI)
  | sel (h : Hdr) (o : SelOp)
  -- FP32 (R110)
  | fadd (h : Hdr) (o : Op3)
  | fsub (h : Hdr) (o : Op3)
  | fmul (h : Hdr) (o : Op3)
  | ffma (h : Hdr) (o : Op3)
  | fmin (h : Hdr) (o : Op3)
  | fmax (h : Hdr) (o : Op3)
  | fneg (h : Hdr) (o : Op3)
  | fabs (h : Hdr) (o : Op3)
  | fset (h : Hdr) (o : Op3)
  | fclass (h : Hdr) (o : Op3)
  | frcp (h : Hdr) (o : Op3)
  | frsq (h : Hdr) (o : Op3)
  | fexp2 (h : Hdr) (o : Op3)
  | flog2 (h : Hdr) (o : Op3)
  | ftanh (h : Hdr) (o : Op3)
  | fscaleb (h : Hdr) (o : Op3)
  | faddImm (h : Hdr) (o : OpI)
  | fsubImm (h : Hdr) (o : OpI)
  | fmulImm (h : Hdr) (o : OpI)
  | ffmaImm (h : Hdr) (o : OpI)
  | fminImm (h : Hdr) (o : OpI)
  | fmaxImm (h : Hdr) (o : OpI)
  | fsetImm (h : Hdr) (o : OpI)
  | fscalebImm (h : Hdr) (o : OpI)
  -- packed, convert, quantize (R113 to R116)
  | padd2 (h : Hdr) (o : Op3)
  | pmul2 (h : Hdr) (o : Op3)
  | pfma2 (h : Hdr) (o : Op3)
  | pmax2 (h : Hdr) (o : Op3)
  | pmin2 (h : Hdr) (o : Op3)
  | cvt (h : Hdr) (o : CvtOp)
  | pack (h : Hdr) (o : Op3)
  | unpk (h : Hdr) (o : UnpkOp)
  | qnt (h : Hdr) (o : Op3)
  -- cross-lane (R119 to R126)
  | shfl (h : Hdr) (o : LaneOp)
  | shfr (h : Hdr) (o : LaneOp) (c : ShfrCtl)
  | shfx (h : Hdr) (o : LaneOp) (x : BitVec 6)
  | red (h : Hdr) (o : LaneOp) (op : BitVec 4)
  | scan (h : Hdr) (o : LaneOp) (op : BitVec 4) (exc rev : Bool)
  | vote (h : Hdr) (o : LaneOp) (mode : BitVec 2)
  | bcast (h : Hdr) (o : LaneOp) (l : BitVec 7)
  | matchLanes (h : Hdr) (o : LaneOp)
  -- predicates and special registers (R105, R117, R118)
  | pmov (h : Hdr) (dir half : Bool) (r : RegCode)
  | srd (h : Hdr) (d : RegCode) (sc : BitVec 8)
  | swr (h : Hdr) (sc : BitVec 8) (a : RegCode)
  | plop (h : Hdr) (o : PlopOp)
  -- scratchpad access (R141 to R146)
  | ldt (h : Hdr) (o : AccOp)
  | stt (h : Hdr) (o : AccOp)
  | ldv (h : Hdr) (o : AccOp)
  | stv (h : Hdr) (o : AccOp)
  | ldx (h : Hdr) (o : AccOp)
  | tfill (h : Hdr) (o : AccOp)
  | mark (h : Hdr) (set : Bool) (n : BitVec 8)
  | waitf (h : Hdr) (n : BitVec 8)
  -- layout and capacity (R147 to R151, R167 to R171)
  | alloc (h : Hdr) (o : AllocOp)
  | free (h : Hdr) (p : PIdx) (n : BitVec 8)
  | mapg (h : Hdr) (o : AllocOp)
  | ltq (h : Hdr) (d : RegCode) (n : BitVec 8)
  | revive (h : Hdr) (p : PIdx) (n : BitVec 8)
  | waitcap (h : Hdr) (o : WaitcapOp)
  | rerank (h : Hdr) (o : RerankOp)
  | capq (h : Hdr) (st : Bool) (d : RegCode)
  -- copies (R201 to R219)
  | acpy (h : Hdr) (o : CpyOp)
  | asto (h : Hdr) (o : CpyOp)
  | twait (h : Hdr) (old : Bool) (tag : BitVec 3)
  | tcnt (h : Hdr) (out clr : Bool) (d : RegCode)
  | bcpy (h : Hdr) (o : BcpyOp)
  | bput (h : Hdr) (o : BputOp)
  | cwait (h : Hdr) (p : PIdx) (a : RegCode)
  | cqry (h : Hdr) (est : Bool) (d a : RegCode)
  | migr (h : Hdr) (o : MigrOp)
  -- matrix (R229 to R246)
  | mma (h : Hdr) (o : MmaOp)
  | mmas (h : Hdr) (o : MmasOp)
  | msca (h : Hdr) (o : MscaOp)
  | mzero (h : Hdr) (o : TileOp)
  | mlda (h : Hdr) (o : TileOp)
  | mdrn (h : Hdr) (o : TileOp)
  | mdra (h : Hdr) (o : TileOp)
  | mwait (h : Hdr) (p : PIdx) (a : RegCode)
  -- barriers and atomics (R265 to R273)
  | bar (h : Hdr) (o : BarOp)
  | bara (h : Hdr) (o : BarOp)
  | barw (h : Hdr) (o : BarOp)
  | phase (h : Hdr) (o : BarOp)
  | atom (h : Hdr) (o : AtomOp)
  | atoms (h : Hdr) (o : AtomOp)
  | atred (h : Hdr) (o : AtomOp)
  -- tokens (R191 to R196)
  | tokq (h : Hdr) (sp : Bool) (d : RegCode)
  | priceq (h : Hdr) (d a : RegCode)
  | tickr (h : Hdr) (d a : RegCode)
  | cntr (h : Hdr) (idx : BitVec 6) (d : RegCode)
  | phint (h : Hdr) (kind : BitVec 3) (a : RegCode)
  -- tasks (R94 to R97)
  | spawn (h : Hdr) (o : SpawnOp)
  | join (h : Hdr) (o : JoinOp)
  | park (h : Hdr) (j : Bool) (a : RegCode)
  | launch (h : Hdr) (o : LaunchOp)
  -- traps (R311, R324 to R327)
  | trap (h : Hdr) (o : TrapOp)
  | rett (h : Hdr) (form : BitVec 3)
  | seth (h : Hdr) (o : SethOp)
  | tmask (h : Hdr) (o : TmaskOp)
  | ckpt (h : Hdr) (mark : Bool) (a : RegCode)
  -- symmetry (R304, R305)
  | symq (h : Hdr) (sel : BitVec 3) (el : BitVec 4) (d : RegCode)
  | imgw (h : Hdr) (p : PIdx)
  -- events of crews, blocks and launches
  | loopEnd (r : SlotRef)
  | threadPromotion (r : SlotRef) (lane : Nat)
  | blockPlacement (e : PlaceEv)
  | prologueBinding (block : Nat)
  | crewStart (block : Nat)
  | taskCrewForm (e : TaskEv)
  | taskBinTimeout (e : TaskEv)
  | crewRelease (r : SlotRef)
  | blockComplete (block : Nat)
  | launchComplete (launch : Nat)
  | timeSliceEviction (block : Nat)
  | watchdog (r : SlotRef)
  | sleepWake (r : SlotRef)
  -- events of tokens
  | tokenInjection (die : Nat)
  | tokenTake (core : Nat)
  | ringClaim (core : Nat)
  | partyHungry (core : Nat)
  -- events of the matrix engine
  | bTileLoad (quad : Nat)
  | mmasGather (quad : Nat)
  | matrixGrant (quad : Nat)
  | matrixOpComplete (quad : Nat) (port : Bool)
  | bankSpill (quad bank : Nat)
  | bankFill (quad bank : Nat)
  -- events of the copy unit
  | copyStart (r : ReqRef)
  | copyLanding (r : ReqRef)
  | copyChunk (r : ReqRef) (unit : Nat)
  | bulkCopyComplete (r : ReqRef)
  | pageFault (r : ReqRef)
  | pageResume (p : PageRef)
  | pageFail (p : PageRef)
  | copyUnitReset (core : Nat) (ctx : Option Nat)
  | engineReset (quad : Nat) (ctx : Option Nat)
  | publishRequestLanding (core : Nat)
  | generationOpen (key : Nat)
  | waveRelease (r : SlotRef)
  | atredUpdate (r : ReqRef)
  | migrCommit (r : ReqRef)
  -- events of capacity
  | capctlWrite (e : CapctlEv)
  | kaleDoom (core : Nat)
  | darkInstant (core : Nat)
  | engineReadCancel (r : ReqRef)
  | bankWake (core bank : Nat)
  | waitcapDeadline (r : SlotRef)
  | waitcapWake (r : SlotRef)
  | claimExpiry (r : SlotRef)
  -- events of system software and the host
  | tkcapWrite (core v : Nat)
  | ltdatWrite (core : Nat)
  | cerrClear (ctx : Nat)
  | controlBlockWrite (ctx : Nat) (f : CcbField) (v : Nat)
  | registerWrite (r : CtrlReg) (v : Nat)
  | coalescerWrite (core : Nat)
  | operatingPointChange (e : PointEv)
  | controlLoop (ws : List LoopWrite)
  | stallCounterSnapshot (quad : Nat)
  | preemption (e : PreemptEv)
  | crewSave (r : SlotRef)
  | crewRestore (e : RestoreEv)
  | checkpoint (ctx : Nat)
  | replay (ctx : Nat) (crew : BitVec 16) (target : Nat)
  | tailWrite (q : QueueRef) (tail : BitVec 16)
  | launchRelease (r : RecRef)
  | cond (r : RecRef)
  | signal (r : RecRef)
  | wait (r : RecRef)
  | liveUpdate (step : UpdateStep)
  | imageVerify (e : ImageEv)
  | ownershipTransfer
  | packageReset (stage : Stage) (testOk : Bool)
  | linkTraining (link : Nat) (bothEttil : Bool) (testsOk : Bool)
  | linkRetrain (link : Nat)
  | powerStateEntry (p : Power)
  | powerStateExit (testOk : Bool)
  -- events of the debugger
  | run (kernel : Option RunEv)
  | breakAt (pc : Word)
  | step (n : Nat)
  | tags
  | tokens
  | banks
  | print (f : PrintForm)
  | whereCmd
  | holdCopy
  | releaseCopy
  | cap (n : Nat) (after : Option Nat)
  | capAuto
  | focus (bx bz : Nat)
  | atomUpdate (r : ReqRef)
  | contextKill (ctx : Nat)
  | rstep (ctx : Nat)
  | ownerKeyEnrollment (key : Nat)
  | queueStopClear (q : QueueRef)
  | ettilWrite (e : EttilEv)
  deriving DecidableEq, Repr

end Sys2Proof
end

