-- ==== Sys2Proof/WellFormed.lean ====
section
/-! DEFINITION. Which instruction terms the encodings admit: the reserved-value checks (RSVD), the
operand-kind checks (KIND) and the index checks (SREG) of R34, per instruction. VREG depends on the
launch's VALLOT and is judged at issue. -/

namespace Sys2Proof

/-- FILE = 1 (R20). -/
def RegCode.isS (c : RegCode) : Bool := decide (256 ≤ c.toNat)

/-- INDEX (R20). -/
def RegCode.idx (c : RegCode) : Nat := c.toNat % 256

/-- Bits [8:6] of a predicate code are 0 (R20). -/
def RegCode.isPred (c : RegCode) : Bool := decide (c.toNat < 64)

/-- A pair names its even register (R20). -/
def RegCode.isEven (c : RegCode) : Bool := decide (c.toNat % 2 = 0)

/-- GN and GP are 0 in an unguarded instruction (R15). -/
def Hdr.ok (h : Hdr) : Bool := h.ge || (!h.gn && decide (h.gp = 0))

/-- Element format codes are 0x0 to 0x9 (R114). -/
def fmtCodeOk (f : BitVec 4) : Bool := decide (f.toNat ≤ 9)

/-- Codes 0 to 4 are the floating formats (R114). -/
def fmtIsFloat (f : BitVec 4) : Bool := decide (f.toNat ≤ 4)

/-- The pairs of operand formats a matrix pass accepts (R230). -/
def matPairOk (fa fb : BitVec 4) : Bool :=
  (decide (fa.toNat = 3 ∨ fa.toNat = 4) && decide (fb.toNat = 3 ∨ fb.toNat = 4))
    || (decide (fa = fb) && decide (fa.toNat = 1 ∨ fa.toNat = 2 ∨ fa.toNat = 7 ∨ fa.toNat = 9))

/-- Special registers assigned a code (R101). -/
def specialAssigned (sc : BitVec 8) : Bool :=
  let n := sc.toNat
  decide (n ≤ 0x0E) || decide (n ∈ [0x10, 0x12, 0x14, 0x15, 0x16, 0x17, 0x18, 0x19, 0x1A, 0x1B,
    0x1C, 0x1E, 0x20, 0x21, 0x22, 0x24, 0x25, 0x26, 0x30, 0x31])

/-- The 64-bit special registers (R101). -/
def specialWide (sc : BitVec 8) : Bool := decide (sc.toNat ∈ [0x10, 0x12, 0x1C, 0x1E])

/-- The special registers that SWR may name (R101): FPCTL, LTSEL, LTDAT. -/
def specialWritable (sc : BitVec 8) : Bool := decide (sc.toNat ∈ [0x14, 0x30, 0x31])

/-- MOD and EXT of an integer function: `u` and `sat` where its row gives them a meaning (R106). -/
def intModOk (u sat : Bool) (mod : BitVec 3) (ext : BitVec 2) : Bool :=
  decide (mod.toNat < 4) && (u || decide (mod.toNat % 2 = 0)) && (sat || decide (mod.toNat < 2))
    && decide (ext = 0)

/-- MOD and EXT of ISET (R106), and its predicate destination (R20). -/
def isetOk (d : RegCode) (mod : BitVec 3) (ext : BitVec 2) : Bool :=
  d.isPred && decide (mod.toNat ≤ 5) && decide (ext.toNat ≤ 1)

/-- FSET (R110). -/
def fsetOk (d : RegCode) (mod : BitVec 3) (ext : BitVec 2) : Bool :=
  d.isPred && decide (mod.toNat ≤ 5) && decide (ext = 0)

/-- CVT (R114). -/
def CvtOp.ok (o : CvtOp) : Bool :=
  fmtCodeOk o.tgt && fmtCodeOk o.src && decide (o.tgt ≠ o.src)
    && (if fmtIsFloat o.src && fmtIsFloat o.tgt then true
        else if fmtIsFloat o.src || fmtIsFloat o.tgt then !o.sat
        else decide (o.ext = 0))

/-- PACK (R115): `mod` the width, `ext` the slot. -/
def packOk (mod : BitVec 3) (ext : BitVec 2) : Bool :=
  match mod.toNat with
  | 0 => decide (ext = 0)
  | 1 => decide (ext.toNat ≤ 1)
  | 2 => true
  | _ => false

/-- UNPK (R115). -/
def UnpkOp.ok (o : UnpkOp) : Bool :=
  match o.width.toNat with
  | 0 => decide (o.idx.toNat < 2)
  | 1 => decide (o.idx.toNat < 4)
  | 2 => true
  | _ => false

/-- SHFR (R122). -/
def ShfrCtl.ok (c : ShfrCtl) : Bool :=
  if c.rel then decide (c.k = 0) && decide (1 ≤ c.j.toNat ∧ c.j.toNat ≤ 6)
  else decide (c.j = 0) && !c.neg

/-- OP and TYPE of an atomic (R267). -/
def atomOpOk (o : AtomOp) : Bool :=
  decide (o.op.toNat ≤ 7) && decide (o.ty.toNat ≤ 2)
    && (decide (o.op.toNat < 3) || decide (o.ty = 0))
    && (decide (o.op.toNat = 7) || decide (o.b = 0))

/-- Three-operand functions with every field used but for the given ones (R23, R106, R110). -/
def Op3.okA0 (o : Op3) : Bool := decide (o.a = 0)
def Op3.okB0 (o : Op3) : Bool := decide (o.b = 0)
def Op3.plain (o : Op3) : Bool := decide (o.mod = 0) && decide (o.ext = 0)
def OpI.plain (o : OpI) : Bool := decide (o.mod = 0) && decide (o.ext = 0)

/-- No reserved bit or value is used: the RSVD check over the fields of an instruction (R34, R24). DESIGN CHOICE (log 71):
O of MMAS may be odd; the spec does not say that the pair s[O], s[O + 1] is an even one. -/
def Instr.rsvdOk : Instr → Bool
  | .nop h | .nopG3 h | .nopG4 h | .exit h | .lbrk h | .yield h => h.ok
  | .bra h _ => h.ok
  | .brx h _ | .ret h _ => h.ok
  | .call h _ _ => h.ok
  | .callx h _ _ => h.ok
  | .bkpt h _ => h.ok
  | .sleept h a => h.ok && a.isEven
  | .loop h o => h.ok && decide (o.lc.toNat ≤ 2) && decide (5 ≤ o.endOff.toNat)
      && (if o.cs then decide (o.count = 0) else decide (o.c = 0))
  | .iadd h o | .isub h o => h.ok && intModOk true true o.mod o.ext
  | .imulh h o | .imin h o | .imax h o | .bfx h o => h.ok && intModOk true false o.mod o.ext
  | .imul h o | .imad h o | .and h o | .or h o | .xor h o | .andn h o | .shl h o | .shr h o
  | .sar h o | .bfi h o => h.ok && o.plain
  | .iabs h o | .popc h o | .clz h o | .brev h o | .mov h o => h.ok && o.plain && o.okA0
  | .iset h o => h.ok && isetOk o.d o.mod o.ext
  | .iaddImm h o | .isubImm h o => h.ok && intModOk true true o.mod o.ext
  | .imulhImm h o | .iminImm h o | .imaxImm h o => h.ok && intModOk true false o.mod o.ext
  | .imulImm h o | .imadImm h o | .andImm h o | .orImm h o | .xorImm h o | .andnImm h o
  | .shlImm h o | .shrImm h o | .sarImm h o => h.ok && o.plain
  | .iabsImm h o | .movi h o => h.ok && o.plain && decide (o.a = 0)
  | .isetImm h o => h.ok && isetOk o.d o.mod o.ext
  | .sel h o => h.ok && (if o.bi then decide (o.b = 0) else decide (o.imm = 0))
  | .fadd h o | .fsub h o | .fmul h o | .ffma h o => h.ok && decide (o.mod = 0)
  | .fmin h o | .fmax h o | .fscaleb h o => h.ok && o.plain
  | .fneg h o | .fabs h o | .fclass h o | .frcp h o | .frsq h o | .fexp2 h o | .flog2 h o
  | .ftanh h o => h.ok && o.plain && o.okB0
  | .fset h o => h.ok && fsetOk o.d o.mod o.ext
  | .faddImm h o | .fsubImm h o | .fmulImm h o | .ffmaImm h o => h.ok && decide (o.mod = 0)
  | .fminImm h o | .fmaxImm h o | .fscalebImm h o => h.ok && o.plain
  | .fsetImm h o => h.ok && fsetOk o.d o.mod o.ext
  | .padd2 h o | .pmul2 h o | .pfma2 h o | .pmax2 h o | .pmin2 h o =>
      h.ok && decide (o.mod.toNat ≤ 1) && decide (o.ext = 0)
  | .cvt h o => h.ok && o.ok
  | .pack h o => h.ok && packOk o.mod o.ext
  | .unpk h o => h.ok && o.ok
  | .qnt h o => h.ok && decide (o.mod.toNat ≤ 3)
  | .shfl h o => h.ok && o.m.isEven
  | .shfr h o c => h.ok && o.m.isEven && decide (o.b = 0) && c.ok
  | .shfx h o _ => h.ok && o.m.isEven && decide (o.b = 0)
  | .red h o op => h.ok && o.m.isEven && decide (o.b = 0) && decide (op.toNat ≤ 10)
  | .scan h o op _ _ => h.ok && o.m.isEven && decide (o.b = 0) && decide (op.toNat ≤ 10)
  | .vote h o mode => h.ok && o.m.isEven && decide (o.b = 0) && o.a.isPred
      && decide (mode.toNat ≤ 2)
      && (if mode.toNat = 2 then o.d.isEven else o.d.isPred)
  | .bcast h o _ => h.ok && o.m.isEven && decide (o.b = 0)
  | .matchLanes h o => h.ok && o.m.isEven && decide (o.b = 0) && o.d.isEven
  | .pmov h _ _ _ => h.ok
  | .srd h d sc => h.ok && specialAssigned sc && (!specialWide sc || d.isEven)
  | .swr h sc _ => h.ok && specialAssigned sc
  | .plop h o => h.ok && (o.ev || (decide (o.e = 0) && decide (o.lut2 = 0)))
  | .ldt h o | .stt h o | .ldx h o => h.ok && decide (o.vn = 0) && !o.all && decide (o.b = 0)
  | .ldv h o | .stv h o => h.ok && decide (o.vn.toNat = 1 ∨ o.vn.toNat = 2) && !o.all
      && decide (o.b = 0)
  | .tfill h o => h.ok && decide (o.vn = 0)
      && (!o.all || (decide (o.c = 0) && decide (o.b = 0)))
  | .mark h _ _ => h.ok
  | .waitf h _ => h.ok
  | .alloc h _ | .mapg h _ => h.ok
  | .free h _ _ | .revive h _ _ => h.ok
  | .ltq h _ _ => h.ok
  | .waitcap h o => h.ok && decide (1 ≤ o.nb.toNat ∧ o.nb.toNat ≤ 64)
      && (if o.nd then decide (o.d = 0) else o.d.isEven)
  | .rerank h o => h.ok && (if o.rs then decide (o.rimm = 0) else decide (o.a = 0))
  | .capq h _ _ => h.ok
  | .acpy h o => h.ok && decide (o.p = 0)
      && (if o.nr then decide (o.nimm = 0) else decide (o.nreg = 0) && decide (o.nimm.toNat ≤ 32))
  | .asto h o => h.ok
      && (if o.nr then decide (o.nimm = 0) else decide (o.nreg = 0) && decide (o.nimm.toNat ≤ 32))
  | .twait h old tag => h.ok && (!old || decide (tag = 0))
  | .tcnt h out _ d => h.ok && (out || d.isEven)
  | .bcpy h o => h.ok && decide (o.t.toNat % 4 = 0)
  | .bput h o => h.ok && decide (o.t.toNat % 4 = 0)
  | .cwait h _ _ => h.ok
  | .cqry h est d _ => h.ok && (!est || d.isEven)
  | .migr h o => h.ok && decide (2 ≤ o.home.toNat ∧ o.home.toNat ≤ 4)
  | .mma h o => h.ok && matPairOk o.fa o.fb
  | .mmas h o => h.ok && matPairOk o.fa o.fb
  | .msca h _ => h.ok
  | .mzero h o => h.ok && decide (o.tile.toNat ≤ 5) && decide (o.cv = 0) && !o.rel
      && decide (o.n = 0) && decide (o.c = 0)
  | .mlda h o => h.ok && decide (o.tile.toNat ≤ 3) && decide (o.cv = 0) && !o.rel
  | .mdrn h o => h.ok && decide (o.tile.toNat ≤ 5) && decide (o.cv.toNat ≤ 2)
  | .mdra h o => h.ok && decide (o.tile.toNat ≤ 5) && decide (o.cv = 0)
  | .mwait h _ _ => h.ok
  | .bar h o | .bara h o | .barw h o | .phase h o => h.ok && decide (o.lvl.toNat ≤ 5)
  | .atom h o => h.ok && atomOpOk o
  | .atoms h o => h.ok && atomOpOk o && !o.rel
  | .atred h o => h.ok && atomOpOk o && decide (o.op.toNat ≤ 5) && decide (o.d = 0)
  | .tokq h sp d => h.ok && (!sp || d.isEven)
  | .priceq h _ _ => h.ok
  | .tickr h d _ => h.ok && d.isEven
  | .cntr h i d => h.ok && decide (i.toNat ≤ 7) && d.isEven
  | .phint h k _ => h.ok && decide (k.toNat ≤ 3)
  | .spawn h o => h.ok && (if o.cx then decide (o.off = 0) else decide (o.a = 0))
  | .join h o => h.ok && (!o.self || (!o.arm && decide (o.a = 0))) && (o.arm || decide (o.b = 0))
  | .park h j a => h.ok && (j || decide (a = 0))
  | .launch h _ => h.ok
  | .trap h o => h.ok && (o.av || decide (o.a = 0))
  | .rett h f => h.ok && decide (f.toNat ≤ 3)
  | .seth h o => h.ok && decide (o.cls.toNat ≠ 1 ∧ o.cls.toNat ≤ 9) && decide (o.src.toNat ≤ 2)
      && (decide (o.src.toNat = 0) || decide (o.off = 0))
      && (decide (o.src.toNat = 1) || decide (o.a = 0))
  | .tmask h o => h.ok && (decide (o.op.toNat ≠ 0) || (o.wd && decide (o.mask = 0)))
      && (o.wd || decide (o.d = 0))
  | .ckpt h m a => h.ok && (m || decide (a = 0))
  | .symq h q el d => h.ok && decide (q.toNat ≤ 6)
      && (decide (5 ≤ q.toNat) || decide (el = 0)) && (decide (q.toNat ≠ 5) || d.isEven)
  | .imgw h _ => h.ok
  | _ => true

/-- A run that must be of s registers: where its code is a v code, the code alone is checked, and the instruction is of
a wrong KIND. -/
def sRun (c : RegCode) (n : Nat) : RegCode × Nat := (c, if c.isS then n else 1)

/-- The register runs an instruction names by operand codes: the first code and how many registers
the encoding checks (R20, R94, R147, R208). Predicate codes are not registers. -/
def Instr.runs : Instr → List (RegCode × Nat)
  | .brx _ a | .ret _ a => [(a, 1)]
  | .call _ d _ => [(d, 1)]
  | .callx _ d a => [(d, 1), (a, 1)]
  | .sleept _ a => [sRun a 2]
  | .loop _ o => if o.cs then [(o.c, 1)] else []
  | .iadd _ o | .isub _ o | .imul _ o | .imulh _ o | .imad _ o | .imin _ o | .imax _ o
  | .and _ o | .or _ o | .xor _ o | .andn _ o | .shl _ o | .shr _ o | .sar _ o | .bfx _ o
  | .bfi _ o => [(o.d, 1), (o.a, 1), (o.b, 1)]
  | .iabs _ o | .popc _ o | .clz _ o | .brev _ o | .mov _ o => [(o.d, 1), (o.b, 1)]
  | .iset _ o | .fset _ o => [(o.a, 1), (o.b, 1)]
  | .iaddImm _ o | .isubImm _ o | .imulImm _ o | .imulhImm _ o | .imadImm _ o | .iminImm _ o
  | .imaxImm _ o | .andImm _ o | .orImm _ o | .xorImm _ o | .andnImm _ o | .shlImm _ o
  | .shrImm _ o | .sarImm _ o => [(o.d, 1), (o.a, 1)]
  | .iabsImm _ o | .movi _ o => [(o.d, 1)]
  | .isetImm _ o | .fsetImm _ o => [(o.a, 1)]
  | .sel _ o => if o.bi then [(o.d, 1), (o.a, 1)] else [(o.d, 1), (o.a, 1), (o.b, 1)]
  | .fadd _ o | .fsub _ o | .fmul _ o | .ffma _ o | .fmin _ o | .fmax _ o | .fscaleb _ o
  | .padd2 _ o | .pmul2 _ o | .pfma2 _ o | .pmax2 _ o | .pmin2 _ o | .pack _ o | .qnt _ o =>
      [(o.d, 1), (o.a, 1), (o.b, 1)]
  | .fneg _ o | .fabs _ o | .fclass _ o | .frcp _ o | .frsq _ o | .fexp2 _ o | .flog2 _ o
  | .ftanh _ o => [(o.d, 1), (o.a, 1)]
  | .faddImm _ o | .fsubImm _ o | .fmulImm _ o | .ffmaImm _ o | .fminImm _ o | .fmaxImm _ o
  | .fscalebImm _ o => [(o.d, 1), (o.a, 1)]
  | .cvt _ o => [(o.d, 1), (o.a, 1)]
  | .unpk _ o => [(o.d, 1), (o.a, 1)]
  | .shfl _ o => [sRun o.m 2, (o.d, 1), (o.a, 1), (o.b, 1)]
  | .shfr _ o _ => [sRun o.m 2, (o.d, 1), (o.a, 1)]
  | .shfx _ o _ => [sRun o.m 2, (o.d, 1), (o.a, 1)]
  | .red _ o _ => [sRun o.m 2, (o.d, 1), (o.a, 1)]
  | .scan _ o _ _ _ => [sRun o.m 2, (o.d, 1), (o.a, 1)]
  | .vote _ o mode => if mode.toNat = 2 then [sRun o.m 2, (o.d, 2)] else [sRun o.m 2]
  | .bcast _ o _ => [sRun o.m 2, (o.d, 1), (o.a, 1)]
  | .matchLanes _ o => [sRun o.m 2, (o.d, 2), (o.a, 1)]
  | .pmov _ _ _ r => [(r, 1)]
  | .srd _ d sc => [(d, if specialWide sc then 2 else 1)]
  | .swr _ _ a => [(a, 1)]
  | .ldt _ o | .stt _ o | .ldv _ o | .stv _ o | .ldx _ o => [(o.c, 1), (o.v, 1)]
  | .tfill _ o => if o.all then [(o.v, 1)] else [(o.c, 1), (o.v, 1), (o.b, 1)]
  | .alloc _ o | .mapg _ o => [sRun o.s 8]
  | .ltq _ d _ => [(d, 1)]
  | .waitcap _ o => if o.nd then [] else [sRun o.d 2]
  | .rerank _ o => if o.rs then [(o.a, 1)] else []
  | .capq _ _ d => [(d, 1)]
  | .acpy _ o | .asto _ o =>
      if o.nr then [(o.dc, 1), (o.sc, 1), (o.nreg, 1)] else [(o.dc, 1), (o.sc, 1)]
  | .tcnt _ out _ d => [(d, if out then 1 else 2)]
  | .bcpy _ o => [sRun o.t 4, (o.c, 1)]
  | .bput _ o => [(o.c, 1), sRun o.t 4]
  | .cwait _ _ a => [(a, 1)]
  | .cqry _ est d a => [(d, if est then 2 else 1), (a, 1)]
  | .migr _ o => [(o.t, 1), (o.c, 1)]
  | .mma _ o => [(o.t, 1), (o.ac, 1), (o.bc, 1)]
  | .mmas _ o => [(o.t, 1), (o.ac, 1), sRun o.o 2]
  | .msca _ o => [(o.t, 1), (o.sc, 1)]
  | .mzero _ o => [(o.t, 1)]
  | .mlda _ o | .mdrn _ o | .mdra _ o => [(o.t, 1), (o.c, 1)]
  | .mwait _ _ a => [(a, 1)]
  | .atom _ o | .atoms _ o =>
      if o.op.toNat = 7 then [(o.d, 1), (o.a, 1), (o.b, 1), (o.c, 1)]
      else [(o.d, 1), (o.a, 1), (o.c, 1)]
  | .atred _ o => [(o.a, 1), (o.c, 1)]
  | .tokq _ sp d => [(d, if sp then 2 else 1)]
  | .priceq _ d a => [(d, 1), (a, 1)]
  | .tickr _ d a => [(d, 2), (a, 1)]
  | .cntr _ _ d => [(d, 2)]
  | .phint _ _ a => [(a, 1)]
  | .spawn _ o => if o.cx then [(o.f, 4), (o.j, 1), (o.a, 1)] else [(o.f, 4), (o.j, 1)]
  | .join _ o => if o.self then [] else if o.arm then [(o.a, 1), (o.b, 1)] else [(o.a, 1)]
  | .park _ j a => if j then [(a, 1)] else []
  | .launch _ o => [(o.q, 1), (o.c, 1)]
  | .trap _ o => if o.av then [(o.a, 1)] else []
  | .seth _ o => if o.src.toNat = 1 then [(o.a, 1)] else []
  | .tmask _ o => if o.wd then [(o.d, 1)] else []
  | .ckpt _ m a => if m then [(a, 1)] else []
  | .symq _ q _ d => [(d, if q.toNat = 5 then 2 else 1)]
  | _ => []

/-- SREG: no run passes s191 (R20, R34). -/
def Instr.sregOk (i : Instr) : Bool :=
  i.runs.all fun (c, n) => !c.isS || decide (c.idx + n ≤ 192)

/-- VREG: no run passes v(VALLOT − 1) (R20, R34). -/
def Instr.vregOk (vallot : Nat) (i : Instr) : Bool :=
  i.runs.all fun (c, n) => c.isS || decide (c.idx + n ≤ vallot)

/-- An s destination allows s sources only (R21, R22). -/
def uniformOk (d : RegCode) (srcs : List RegCode) : Bool := !d.isS || srcs.all RegCode.isS

/-- KIND: the operand kinds of R21 and of the descriptions. -/
def Instr.kindOk : Instr → Bool
  | .call _ d _ => !d.isS
  | .callx _ d _ => !d.isS
  | .sleept _ a => a.isS
  | .loop _ o => !o.cs || o.c.isS
  | .iadd _ o | .isub _ o | .imul _ o | .imulh _ o | .imad _ o | .imin _ o | .imax _ o
  | .and _ o | .or _ o | .xor _ o | .andn _ o | .shl _ o | .shr _ o | .sar _ o | .bfx _ o
  | .bfi _ o => uniformOk o.d [o.a, o.b]
  | .iabs _ o | .popc _ o | .clz _ o | .brev _ o | .mov _ o => uniformOk o.d [o.b]
  | .iaddImm _ o | .isubImm _ o | .imulImm _ o | .imulhImm _ o | .imadImm _ o | .iminImm _ o
  | .imaxImm _ o | .andImm _ o | .orImm _ o | .xorImm _ o | .andnImm _ o | .shlImm _ o
  | .shrImm _ o | .sarImm _ o => uniformOk o.d [o.a]
  | .sel _ o => if o.bi then uniformOk o.d [o.a] else uniformOk o.d [o.a, o.b]
  | .fadd _ o | .fsub _ o | .fmul _ o | .ffma _ o | .fmin _ o | .fmax _ o | .fscaleb _ o
  | .fneg _ o | .fabs _ o | .fclass _ o | .frcp _ o | .frsq _ o | .fexp2 _ o | .flog2 _ o
  | .ftanh _ o | .padd2 _ o | .pmul2 _ o | .pfma2 _ o | .pmax2 _ o | .pmin2 _ o | .pack _ o
  | .qnt _ o => !o.d.isS
  | .faddImm _ o | .fsubImm _ o | .fmulImm _ o | .ffmaImm _ o | .fminImm _ o | .fmaxImm _ o
  | .fscalebImm _ o => !o.d.isS
  | .cvt _ o => !o.d.isS
  | .unpk _ o => !o.d.isS
  | .shfl _ o => o.m.isS && !o.d.isS
  | .shfr _ o _ => o.m.isS && !o.d.isS
  | .shfx _ o _ => o.m.isS && !o.d.isS
  | .bcast _ o _ => o.m.isS && !o.d.isS
  | .red _ o _ => o.m.isS
  | .scan _ o _ _ _ => o.m.isS && !o.d.isS
  | .vote _ o _ => o.m.isS
  | .matchLanes _ o => o.m.isS && !o.d.isS
  | .pmov _ dir _ r => dir || !r.isS
  | .srd _ d sc => !(d.isS && decide (sc.toNat = 1))
  | .swr _ sc _ => specialWritable sc
  | .ldt _ o | .ldv _ o | .ldx _ o => !o.v.isS
  | .alloc _ o | .mapg _ o => o.s.isS
  | .waitcap _ o => o.nd || o.d.isS
  | .bcpy _ o => o.t.isS
  | .bput _ o => o.t.isS
  | .cqry _ _ d a => uniformOk d [a]
  | .migr _ o => o.t.isS
  | .mma _ o => o.t.isS && o.ac.isS && o.bc.isS
  | .mmas _ o => o.t.isS && o.ac.isS && o.o.isS
  | .msca _ o => o.t.isS && o.sc.isS
  | .mzero _ o => o.t.isS
  | .mlda _ o | .mdrn _ o | .mdra _ o => o.t.isS && o.c.isS
  | .mwait _ _ a => a.isS
  | .atom _ o | .atoms _ o => !o.d.isS
  | .priceq _ d a => uniformOk d [a]
  | .tickr _ d a => uniformOk d [a]
  | .spawn _ o => decide (o.f.isS = o.cf) && (!o.cf || o.j.isS)
  | .launch _ o => o.q.isS && o.c.isS
  | _ => true

/-- An instruction whose words pass every check of R34 that its words alone decide. -/
def Instr.wellFormed (i : Instr) : Bool := i.rsvdOk && i.sregOk && i.kindOk

end Sys2Proof
end

