-- ==== Sys2Proof/Decode.lean ====
section
/-! DEFINITION. From granules to instructions (R14 to R26, and the encodings of every instruction's
own rule), by name of the cause where they are refused (R34); then the encoder. -/

namespace Sys2Proof

/-- Bits [lo + len − 1 : lo] of a granule, as a number. -/
def rng (g : Granule) (lo len : Nat) : Nat := g.toNat / 2 ^ lo % 2 ^ len

/-- The same bits as a field. -/
def fld (g : Granule) (lo len : Nat) : BitVec len := BitVec.ofNat len (g.toNat / 2 ^ lo)

/-- One bit of a granule. -/
def flag (g : Granule) (i : Nat) : Bool := decide (g.toNat / 2 ^ i % 2 = 1)

/-- Reserved bits are 0 (R24). -/
def rz (g : Granule) (lo len : Nat) : Bool := decide (rng g lo len = 0)

/-- LEN (R15): 1, 2 or 3 for G2, G3 and G4. -/
def lenOf (g : Granule) : Nat := rng g 0 2

/-- OPC and FN (R15). -/
def opcOf (g : Granule) : Nat := rng g 15 8
def fnOf (g : Granule) : Nat := rng g 23 6

/-- The tag of a continuation granule (R16). -/
def isCont (g : Granule) : Bool := decide (rng g 0 3 = 4)

/-- The grouped opcodes (R15). -/
def grouped (opc : Nat) : Bool := decide (opc ∈ [0x01, 0x10, 0x11, 0x20, 0x21, 0x30, 0x40, 0x50])

/-- The functions of a grouped opcode (R25). -/
def fnAssigned (opc fn : Nat) : Bool :=
  match opc with
  | 0x01 => decide (fn ≤ 0x0A)
  | 0x10 => decide (fn ≤ 0x13 ∨ fn = 0x15 ∨ fn = 0x16)
  | 0x11 => decide (fn ≤ 0x0E ∨ fn = 0x15 ∨ fn = 0x16)
  | 0x20 => decide (fn ≤ 0x0F)
  | 0x21 => decide (fn ≤ 0x05 ∨ fn = 0x08 ∨ fn = 0x0F)
  | 0x30 => decide (fn ≤ 0x04 ∨ (0x08 ≤ fn ∧ fn ≤ 0x0B))
  | 0x40 => decide (fn ≤ 0x07)
  | 0x50 => decide (1 ≤ fn ∧ fn ≤ 3)
  | _ => true

/-- LEN of an opcode's format (R25); `none` for the 189 unassigned opcodes. -/
def opcLen (opc : Nat) : Option Nat :=
  if opc ∈ [0x01, 0x10, 0x20, 0x30, 0x50, 0x66, 0x67, 0x70, 0x71, 0x72, 0x73, 0x74, 0x76, 0x77,
      0x82, 0x83, 0x86, 0x87, 0x93, 0x97, 0xA0, 0xA1, 0xA2, 0xA3, 0xB0, 0xB1, 0xB2, 0xB3, 0xB4,
      0xC1, 0xC2, 0xD0, 0xD1, 0xD3, 0xD4, 0xE0, 0xE1] then some 1
  else if opc ∈ [0x02, 0x11, 0x12, 0x21, 0x40, 0x51, 0x60, 0x61, 0x62, 0x63, 0x64, 0x65, 0x75,
      0x88, 0x94, 0x95, 0x96, 0xA5, 0xD2] then some 2
  else if opc ∈ [0x80, 0x81, 0x84, 0x85, 0x90, 0x91, 0x92, 0xA4, 0xA6, 0xC0, 0xC3] then some 3
  else none

/-- Class A (R25, R26). -/
def opcClassA (opc : Nat) : Bool :=
  decide (opc ∈ [0x10, 0x11, 0x12, 0x20, 0x21, 0x30, 0x40, 0x50, 0x51])

/-- A privileged instruction (R27): CKPT, and SRD or SWR of LTSEL or LTDAT (R102). -/
def privWord (g1 g2 : Granule) : Bool :=
  decide (opcOf g1 = 0xD4)
    || (decide (opcOf g1 = 0x50) && decide (fnOf g1 = 2 ∨ fnOf g1 = 3)
        && decide (rng g2 21 8 = 0x30 ∨ rng g2 21 8 = 0x31))

/-- The header of granule 1 (R15). -/
def hdrOf (g : Granule) : Hdr :=
  { stall := fld g 2 4, yld := flag g 6, ge := flag g 7, gn := flag g 8, gp := fld g 9 6 }

/-- The G2 three-operand layout (R23). -/
def op3Of (g1 g2 : Granule) : Op3 :=
  { d := fld g2 3 9, a := fld g2 12 9, b := fld g2 21 9, mod := fld g1 29 3, ext := fld g2 30 2 }

/-- The immediate of the G3 immediate layout and of SEL (R23, R109). -/
def immOf (g1 gk : Granule) : Word := BitVec.ofNat 32 (rng gk 3 29 + 2 ^ 29 * rng g1 29 3)

/-- The G3 immediate layout (R23). -/
def opIOf (g1 g2 g3 : Granule) : OpI :=
  { d := fld g3 3 9, a := fld g3 12 9, imm := immOf g1 g2, mod := fld g3 21 3, ext := fld g3 24 2 }

/-- An instruction, unless a reserved bit is set. -/
def rsv (ok : Bool) (i : Instr) : Option Instr := if ok then some i else none

/-- OPC 0x01 (R85). -/
def decCtl (g1 g2 g3 g4 : Granule) : Option Instr :=
  let h := hdrOf g1
  let m := rz g1 29 3
  match fnOf g1 with
  | 0x00 =>
    if lenOf g1 = 1 then rsv (m && rz g2 3 29) (.nop h)
    else if lenOf g1 = 2 then rsv (m && rz g2 3 29 && rz g3 3 29) (.nopG3 h)
    else rsv (m && rz g2 3 29 && rz g3 3 29 && rz g4 3 29) (.nopG4 h)
  | 0x01 => rsv (m && rz g2 27 5) (.bra h (fld g2 3 24))
  | 0x02 => rsv (m && rz g2 3 9 && rz g2 21 11) (.brx h (fld g2 12 9))
  | 0x03 => rsv m (.call h (fld g2 3 9) (fld g2 12 20))
  | 0x04 => rsv (m && rz g2 21 11) (.callx h (fld g2 3 9) (fld g2 12 9))
  | 0x05 => rsv (m && rz g2 3 9 && rz g2 21 11) (.ret h (fld g2 12 9))
  | 0x06 => rsv (m && rz g2 3 29) (.exit h)
  | 0x07 => rsv (m && rz g2 3 29) (.lbrk h)
  | 0x08 => rsv (m && rz g2 3 29) (.yield h)
  | 0x09 => rsv (m && rz g2 19 13) (.bkpt h (fld g2 3 16))
  | 0x0A => rsv (m && rz g2 3 9 && rz g2 21 11) (.sleept h (fld g2 12 9))
  | _ => none

/-- OPC 0x10 (R106, R107). -/
def decInt (g1 g2 : Granule) : Option Instr :=
  match fnOf g1 with
  | 0x00 => some (.iadd (hdrOf g1) (op3Of g1 g2))
  | 0x01 => some (.isub (hdrOf g1) (op3Of g1 g2))
  | 0x02 => some (.imul (hdrOf g1) (op3Of g1 g2))
  | 0x03 => some (.imulh (hdrOf g1) (op3Of g1 g2))
  | 0x04 => some (.imad (hdrOf g1) (op3Of g1 g2))
  | 0x05 => some (.imin (hdrOf g1) (op3Of g1 g2))
  | 0x06 => some (.imax (hdrOf g1) (op3Of g1 g2))
  | 0x07 => some (.iabs (hdrOf g1) (op3Of g1 g2))
  | 0x08 => some (.and (hdrOf g1) (op3Of g1 g2))
  | 0x09 => some (.or (hdrOf g1) (op3Of g1 g2))
  | 0x0A => some (.xor (hdrOf g1) (op3Of g1 g2))
  | 0x0B => some (.andn (hdrOf g1) (op3Of g1 g2))
  | 0x0C => some (.shl (hdrOf g1) (op3Of g1 g2))
  | 0x0D => some (.shr (hdrOf g1) (op3Of g1 g2))
  | 0x0E => some (.sar (hdrOf g1) (op3Of g1 g2))
  | 0x0F => some (.bfx (hdrOf g1) (op3Of g1 g2))
  | 0x10 => some (.bfi (hdrOf g1) (op3Of g1 g2))
  | 0x11 => some (.popc (hdrOf g1) (op3Of g1 g2))
  | 0x12 => some (.clz (hdrOf g1) (op3Of g1 g2))
  | 0x13 => some (.brev (hdrOf g1) (op3Of g1 g2))
  | 0x15 => some (.iset (hdrOf g1) (op3Of g1 g2))
  | 0x16 => some (.mov (hdrOf g1) (op3Of g1 g2))
  | _ => none

/-- OPC 0x11 (R106, R107). -/
def decIntI (g1 g2 g3 : Granule) : Option Instr :=
  match fnOf g1 with
  | 0x00 => rsv (rz g3 26 6) (.iaddImm (hdrOf g1) (opIOf g1 g2 g3))
  | 0x01 => rsv (rz g3 26 6) (.isubImm (hdrOf g1) (opIOf g1 g2 g3))
  | 0x02 => rsv (rz g3 26 6) (.imulImm (hdrOf g1) (opIOf g1 g2 g3))
  | 0x03 => rsv (rz g3 26 6) (.imulhImm (hdrOf g1) (opIOf g1 g2 g3))
  | 0x04 => rsv (rz g3 26 6) (.imadImm (hdrOf g1) (opIOf g1 g2 g3))
  | 0x05 => rsv (rz g3 26 6) (.iminImm (hdrOf g1) (opIOf g1 g2 g3))
  | 0x06 => rsv (rz g3 26 6) (.imaxImm (hdrOf g1) (opIOf g1 g2 g3))
  | 0x07 => rsv (rz g3 26 6) (.iabsImm (hdrOf g1) (opIOf g1 g2 g3))
  | 0x08 => rsv (rz g3 26 6) (.andImm (hdrOf g1) (opIOf g1 g2 g3))
  | 0x09 => rsv (rz g3 26 6) (.orImm (hdrOf g1) (opIOf g1 g2 g3))
  | 0x0A => rsv (rz g3 26 6) (.xorImm (hdrOf g1) (opIOf g1 g2 g3))
  | 0x0B => rsv (rz g3 26 6) (.andnImm (hdrOf g1) (opIOf g1 g2 g3))
  | 0x0C => rsv (rz g3 26 6) (.shlImm (hdrOf g1) (opIOf g1 g2 g3))
  | 0x0D => rsv (rz g3 26 6) (.shrImm (hdrOf g1) (opIOf g1 g2 g3))
  | 0x0E => rsv (rz g3 26 6) (.sarImm (hdrOf g1) (opIOf g1 g2 g3))
  | 0x15 => rsv (rz g3 26 6) (.isetImm (hdrOf g1) (opIOf g1 g2 g3))
  | 0x16 => rsv (rz g3 26 6) (.movi (hdrOf g1) (opIOf g1 g2 g3))
  | _ => none

/-- OPC 0x20 (R110). -/
def decFp (g1 g2 : Granule) : Option Instr :=
  match fnOf g1 with
  | 0x00 => some (.fadd (hdrOf g1) (op3Of g1 g2))
  | 0x01 => some (.fsub (hdrOf g1) (op3Of g1 g2))
  | 0x02 => some (.fmul (hdrOf g1) (op3Of g1 g2))
  | 0x03 => some (.ffma (hdrOf g1) (op3Of g1 g2))
  | 0x04 => some (.fmin (hdrOf g1) (op3Of g1 g2))
  | 0x05 => some (.fmax (hdrOf g1) (op3Of g1 g2))
  | 0x06 => some (.fneg (hdrOf g1) (op3Of g1 g2))
  | 0x07 => some (.fabs (hdrOf g1) (op3Of g1 g2))
  | 0x08 => some (.fset (hdrOf g1) (op3Of g1 g2))
  | 0x09 => some (.fclass (hdrOf g1) (op3Of g1 g2))
  | 0x0A => some (.frcp (hdrOf g1) (op3Of g1 g2))
  | 0x0B => some (.frsq (hdrOf g1) (op3Of g1 g2))
  | 0x0C => some (.fexp2 (hdrOf g1) (op3Of g1 g2))
  | 0x0D => some (.flog2 (hdrOf g1) (op3Of g1 g2))
  | 0x0E => some (.ftanh (hdrOf g1) (op3Of g1 g2))
  | 0x0F => some (.fscaleb (hdrOf g1) (op3Of g1 g2))
  | _ => none

/-- OPC 0x21 (R110). -/
def decFpI (g1 g2 g3 : Granule) : Option Instr :=
  match fnOf g1 with
  | 0x00 => rsv (rz g3 26 6) (.faddImm (hdrOf g1) (opIOf g1 g2 g3))
  | 0x01 => rsv (rz g3 26 6) (.fsubImm (hdrOf g1) (opIOf g1 g2 g3))
  | 0x02 => rsv (rz g3 26 6) (.fmulImm (hdrOf g1) (opIOf g1 g2 g3))
  | 0x03 => rsv (rz g3 26 6) (.ffmaImm (hdrOf g1) (opIOf g1 g2 g3))
  | 0x04 => rsv (rz g3 26 6) (.fminImm (hdrOf g1) (opIOf g1 g2 g3))
  | 0x05 => rsv (rz g3 26 6) (.fmaxImm (hdrOf g1) (opIOf g1 g2 g3))
  | 0x08 => rsv (rz g3 26 6) (.fsetImm (hdrOf g1) (opIOf g1 g2 g3))
  | 0x0F => rsv (rz g3 26 6) (.fscalebImm (hdrOf g1) (opIOf g1 g2 g3))
  | _ => none

/-- OPC 0x30 (R113 to R116). -/
def decPk (g1 g2 : Granule) : Option Instr :=
  let h := hdrOf g1
  match fnOf g1 with
  | 0x00 => some (.padd2 h (op3Of g1 g2))
  | 0x01 => some (.pmul2 h (op3Of g1 g2))
  | 0x02 => some (.pfma2 h (op3Of g1 g2))
  | 0x03 => some (.pmax2 h (op3Of g1 g2))
  | 0x04 => some (.pmin2 h (op3Of g1 g2))
  | 0x08 => rsv (rz g1 29 3) (.cvt h
      { d := fld g2 3 9, a := fld g2 12 9, tgt := fld g2 21 4, src := fld g2 25 4,
        sat := flag g2 29, ext := fld g2 30 2 })
  | 0x09 => some (.pack h (op3Of g1 g2))
  | 0x0A => rsv (rz g2 24 8) (.unpk h
      { d := fld g2 3 9, a := fld g2 12 9, width := fld g1 29 2, sx := flag g1 31,
        idx := fld g2 21 3 })
  | 0x0B => some (.qnt h (op3Of g1 g2))
  | _ => none

/-- Granule 3 and the mask field of a cross-lane instruction (R119). -/
def laneOf (g2 g3 : Granule) : LaneOp :=
  { m := fld g2 3 9, d := fld g3 3 9, a := fld g3 12 9, b := fld g3 21 9 }

/-- SHFR's CTL (R122). -/
def shfrOf (g2 : Granule) : ShfrCtl :=
  if flag g2 12 then
    { rel := true, k := 0, j := fld g2 13 3, neg := flag g2 16, wrap := flag g2 20 }
  else { rel := false, k := fld g2 13 7, j := 0, neg := false, wrap := flag g2 20 }

/-- OPC 0x40 (R119 to R126). -/
def decLane (g1 g2 g3 : Granule) : Option Instr :=
  let h := hdrOf g1
  let o := laneOf g2 g3
  let m := rz g1 29 3 && rz g3 30 2
  match fnOf g1 with
  | 0x00 => rsv (m && rz g2 12 20) (.shfl h o)
  | 0x01 => rsv (m && rz g2 21 11 && (!flag g2 12 || rz g2 17 3)) (.shfr h o (shfrOf g2))
  | 0x02 => rsv (m && rz g2 18 14) (.shfx h o (fld g2 12 6))
  | 0x03 => rsv (m && rz g2 16 16) (.red h o (fld g2 12 4))
  | 0x04 => rsv (m && rz g2 18 14) (.scan h o (fld g2 12 4) (flag g2 16) (flag g2 17))
  | 0x05 => rsv (m && rz g2 14 18) (.vote h o (fld g2 12 2))
  | 0x06 => rsv (m && rz g2 19 13) (.bcast h o (fld g2 12 7))
  | 0x07 => rsv (m && rz g2 12 20) (.matchLanes h o)
  | _ => none

/-- OPC 0x50 (R105, R118). -/
def decPred (g1 g2 : Granule) : Option Instr :=
  let h := hdrOf g1
  match fnOf g1 with
  | 0x01 =>
    if flag g1 29 then
      rsv (rz g1 30 2 && rz g2 3 9 && rz g2 21 9 && rz g2 31 1)
        (.pmov h true (flag g2 30) (fld g2 12 9))
    else rsv (rz g1 30 2 && rz g2 12 18 && rz g2 31 1) (.pmov h false (flag g2 30) (fld g2 3 9))
  | 0x02 => rsv (rz g1 29 3 && rz g2 12 9 && rz g2 29 3) (.srd h (fld g2 3 9) (fld g2 21 8))
  | 0x03 => rsv (rz g1 29 3 && rz g2 3 9 && rz g2 29 3) (.swr h (fld g2 21 8) (fld g2 12 9))
  | _ => none

/-- The scratchpad access layout (R141). -/
def accOf (g1 g2 g3 : Granule) : AccOp :=
  { n := fld g2 3 8, c := fld g2 11 9, v := fld g2 20 9, vn := fld g1 23 2, all := flag g1 25,
    b := fld g3 3 9 }

/-- Its reserved bits. -/
def accRz (g1 g2 g3 : Granule) : Bool := rz g1 26 6 && rz g2 29 3 && rz g3 12 20

/-- ALLOC and MAPG (R147, R149). -/
def allocOf (g1 g2 : Granule) : AllocOp :=
  { own := flag g1 23, p := fld g2 3 6, n := fld g2 9 8, s := fld g2 17 9 }

/-- ACPY and ASTO (R201). -/
def cpyOf (g1 g2 g3 g4 : Granule) : CpyOp :=
  let nr := flag g1 23
  { nr := nr, tag := fld g1 24 3, dn := fld g2 3 8, dc := fld g2 11 9, p := fld g2 20 6,
    sn := fld g3 3 8, sc := fld g3 11 9, nimm := if nr then 0 else fld g4 3 6,
    nreg := if nr then fld g4 3 9 else 0 }

/-- Its reserved bits. -/
def cpyRz (g1 g2 g3 g4 : Granule) : Bool :=
  rz g1 27 5 && rz g2 26 6 && rz g3 20 12 && (if flag g1 23 then rz g4 12 20 else rz g4 9 23)

/-- MZERO, MLDA, MDRN and MDRA (R245). -/
def tileOf (g1 g2 g3 : Granule) : TileOp :=
  { tile := fld g1 23 3, cv := fld g1 26 2, rel := flag g1 28, p := fld g2 3 6, t := fld g2 9 9,
    n := fld g3 3 8, c := fld g3 11 9 }

/-- The barrier instructions (R265). -/
def barOf (g1 : Granule) : BarOp := { bid := fld g1 23 4, lvl := fld g1 27 3, cm := flag g1 30 }

/-- The atomics (R267). -/
def atomOf (g1 g2 g3 g4 : Granule) : AtomOp :=
  { op := fld g1 23 4, ty := fld g1 27 2, d := fld g2 3 9, a := fld g2 12 9, b := fld g2 21 9,
    n := fld g3 3 8, c := fld g3 11 9, rel := flag g4 3 }

/-- Their reserved bits. -/
def atomRz (g1 g2 g3 g4 : Granule) : Bool :=
  rz g1 29 3 && rz g2 30 2 && rz g3 20 12 && rz g4 4 28

/-- Opcodes 0x60 to 0x88: scratchpad, layout, capacity and copy. -/
def decMem (g1 g2 g3 g4 : Granule) : Option Instr :=
  let h := hdrOf g1
  match opcOf g1 with
  | 0x60 => rsv (accRz g1 g2 g3) (.ldt h (accOf g1 g2 g3))
  | 0x61 => rsv (accRz g1 g2 g3) (.stt h (accOf g1 g2 g3))
  | 0x62 => rsv (accRz g1 g2 g3) (.ldv h (accOf g1 g2 g3))
  | 0x63 => rsv (accRz g1 g2 g3) (.stv h (accOf g1 g2 g3))
  | 0x64 => rsv (accRz g1 g2 g3) (.ldx h (accOf g1 g2 g3))
  | 0x65 => rsv (accRz g1 g2 g3) (.tfill h (accOf g1 g2 g3))
  | 0x66 => rsv (rz g1 24 8 && rz g2 11 21) (.mark h (flag g1 23) (fld g2 3 8))
  | 0x67 => rsv (rz g1 23 9 && rz g2 11 21) (.waitf h (fld g2 3 8))
  | 0x70 => rsv (rz g1 24 8 && rz g2 26 6) (.alloc h (allocOf g1 g2))
  | 0x71 => rsv (rz g1 23 9 && rz g2 17 15) (.free h (fld g2 3 6) (fld g2 9 8))
  | 0x72 => rsv (rz g1 24 8 && rz g2 26 6) (.mapg h (allocOf g1 g2))
  | 0x73 => rsv (rz g1 23 9 && rz g2 20 12) (.ltq h (fld g2 3 9) (fld g2 12 8))
  | 0x74 => rsv (rz g1 23 9 && rz g2 17 15) (.revive h (fld g2 3 6) (fld g2 9 8))
  | 0x75 => rsv (rz g1 27 5 && rz g2 16 16 && rz g3 12 20) (.waitcap h
      { nd := flag g1 23, rank := fld g1 24 3, p := fld g2 3 6, nb := fld g2 9 7, d := fld g3 3 9 })
  | 0x76 => rsv (rz g1 27 5 && rz g2 26 6) (.rerank h
      { rs := flag g1 23, rimm := fld g1 24 3, p := fld g2 3 6, n := fld g2 9 8, a := fld g2 17 9 })
  | 0x77 => rsv (rz g1 24 8 && rz g2 12 20) (.capq h (flag g1 23) (fld g2 3 9))
  | 0x80 => rsv (cpyRz g1 g2 g3 g4) (.acpy h (cpyOf g1 g2 g3 g4))
  | 0x81 => rsv (cpyRz g1 g2 g3 g4) (.asto h (cpyOf g1 g2 g3 g4))
  | 0x82 => rsv (rz g1 27 5 && rz g2 3 29) (.twait h (flag g1 23) (fld g1 24 3))
  | 0x83 => rsv (rz g1 25 7 && rz g2 12 20) (.tcnt h (flag g1 23) (flag g1 24) (fld g2 3 9))
  | 0x84 => rsv (rz g1 24 8 && rz g2 20 12 && rz g3 20 12 && rz g4 3 29) (.bcpy h
      { setf := flag g1 23, dn := fld g2 3 8, t := fld g2 11 9, sn := fld g3 3 8, c := fld g3 11 9 })
  | 0x85 => rsv (rz g1 23 9 && rz g2 26 6 && rz g3 20 12 && rz g4 3 29) (.bput h
      { dn := fld g2 3 8, c := fld g2 11 9, p := fld g2 20 6, sn := fld g3 3 8, t := fld g3 11 9 })
  | 0x86 => rsv (rz g1 23 9 && rz g2 9 3 && rz g2 21 11) (.cwait h (fld g2 3 6) (fld g2 12 9))
  | 0x87 => rsv (rz g1 24 8 && rz g2 21 11) (.cqry h (flag g1 23) (fld g2 3 9) (fld g2 12 9))
  | 0x88 => rsv (rz g1 26 6 && rz g2 18 14 && rz g3 20 12) (.migr h
      { home := fld g1 23 3, p := fld g2 3 6, t := fld g2 9 9, n := fld g3 3 8, c := fld g3 11 9 })
  | _ => none

/-- Opcodes 0x90 to 0xE1: matrix, synchronisation, tokens, tasks, traps and symmetry. -/
def decEng (g1 g2 g3 g4 : Granule) : Option Instr :=
  let h := hdrOf g1
  match opcOf g1 with
  | 0x90 => rsv (rz g2 24 8 && rz g3 20 12 && rz g4 20 12) (.mma h
      { fa := fld g1 23 4, fb := fld g1 27 4, bt := flag g1 31, p := fld g2 3 6, t := fld g2 9 9,
        ps := flag g2 18, prec := fld g2 19 4, kb := flag g2 23, an := fld g3 3 8,
        ac := fld g3 11 9, bn := fld g4 3 8, bc := fld g4 11 9 })
  | 0x91 => rsv (rz g1 31 1 && rz g2 23 9 && rz g3 29 3 && rz g4 27 5) (.mmas h
      { fa := fld g1 23 4, fb := fld g1 27 4, p := fld g2 3 6, t := fld g2 9 9, ps := flag g2 18,
        prec := fld g2 19 4, an := fld g3 3 8, ac := fld g3 11 9, o := fld g3 20 9,
        val := fld g4 3 8, idx := fld g4 11 8, ptr := fld g4 19 8 })
  | 0x92 => rsv (rz g1 23 9 && rz g2 21 11 && rz g3 20 12 && rz g4 3 29) (.msca h
      { p := fld g2 3 6, t := fld g2 9 9, ps := flag g2 18, tile := fld g2 19 2, sn := fld g3 3 8,
        sc := fld g3 11 9 })
  | 0x93 => rsv (rz g1 26 6 && rz g2 18 14) (.mzero h
      { tile := fld g1 23 3, cv := 0, rel := false, p := fld g2 3 6, t := fld g2 9 9, n := 0, c := 0 })
  | 0x94 => rsv (rz g1 26 6 && rz g2 18 14 && rz g3 20 12) (.mlda h
      { tileOf g1 g2 g3 with cv := 0, rel := false })
  | 0x95 => rsv (rz g1 29 3 && rz g2 18 14 && rz g3 20 12) (.mdrn h (tileOf g1 g2 g3))
  | 0x96 => rsv (rz g1 29 3 && rz g2 18 14 && rz g3 20 12) (.mdra h (tileOf g1 g2 g3))
  | 0x97 => rsv (rz g1 23 9 && rz g2 9 3 && rz g2 21 11) (.mwait h (fld g2 3 6) (fld g2 12 9))
  | 0xA0 => rsv (rz g1 31 1 && rz g2 3 29) (.bar h (barOf g1))
  | 0xA1 => rsv (rz g1 31 1 && rz g2 3 29) (.bara h (barOf g1))
  | 0xA2 => rsv (rz g1 31 1 && rz g2 3 29) (.barw h (barOf g1))
  | 0xA3 => rsv (rz g1 31 1 && rz g2 3 29) (.phase h (barOf g1))
  | 0xA4 => rsv (atomRz g1 g2 g3 g4) (.atom h (atomOf g1 g2 g3 g4))
  | 0xA5 => rsv (rz g1 29 3 && rz g2 30 2 && rz g3 20 12) (.atoms h
      { atomOf g1 g2 g3 g4 with rel := false })
  | 0xA6 => rsv (atomRz g1 g2 g3 g4) (.atred h (atomOf g1 g2 g3 g4))
  | 0xB0 => rsv (rz g1 24 8 && rz g2 12 20) (.tokq h (flag g1 23) (fld g2 3 9))
  | 0xB1 => rsv (rz g1 23 9 && rz g2 21 11) (.priceq h (fld g2 3 9) (fld g2 12 9))
  | 0xB2 => rsv (rz g1 23 9 && rz g2 21 11) (.tickr h (fld g2 3 9) (fld g2 12 9))
  | 0xB3 => rsv (rz g1 29 3 && rz g2 12 20) (.cntr h (fld g1 23 6) (fld g2 3 9))
  | 0xB4 => rsv (rz g1 26 6 && rz g2 3 9 && rz g2 21 11) (.phint h (fld g1 23 3) (fld g2 12 9))
  | 0xC0 =>
    let cx := flag g1 24
    rsv (rz g1 25 7 && rz g2 27 5 && (if cx then rz g3 12 20 else rz g3 27 5) && rz g4 30 2) (.spawn h
      { cf := flag g1 23, cx := cx, p := fld g2 3 6, f := fld g2 9 9, j := fld g2 18 9,
        off := if cx then 0 else fld g3 3 24, a := if cx then fld g3 3 9 else 0,
        in0 := fld g4 3 8, in1 := fld g4 11 8, oute := fld g4 19 8, v := fld g4 27 3 })
  | 0xC1 => rsv (rz g1 24 1 && rz g1 26 6 && rz g2 3 9 && rz g2 30 2) (.join h
      { arm := flag g1 23, self := flag g1 25, a := fld g2 12 9, b := fld g2 21 9 })
  | 0xC2 => rsv (rz g1 24 8 && rz g2 3 9 && rz g2 21 11) (.park h (flag g1 23) (fld g2 12 9))
  | 0xC3 => rsv (rz g1 24 8 && rz g2 12 20 && rz g3 11 21 && rz g4 12 20) (.launch h
      { dep := flag g1 23, q := fld g2 3 9, n := fld g3 3 8, c := fld g4 3 9 })
  | 0xD0 => rsv (rz g1 23 9 && rz g2 29 3) (.trap h
      { code := fld g2 3 16, a := fld g2 19 9, av := flag g2 28 })
  | 0xD1 => rsv (rz g1 26 6 && rz g2 3 29) (.rett h (fld g1 23 3))
  | 0xD2 => rsv (rz g1 29 3 && rz g2 27 5 && rz g3 12 20) (.seth h
      { cls := fld g1 23 4, src := fld g1 27 2, off := fld g2 3 24, a := fld g3 3 9 })
  | 0xD3 => rsv (rz g1 26 6 && rz g2 22 10) (.tmask h
      { op := fld g1 23 2, wd := flag g1 25, d := fld g2 3 9, mask := fld g2 12 10 })
  | 0xD4 => rsv (rz g1 24 8 && rz g2 3 9 && rz g2 21 11) (.ckpt h (flag g1 23) (fld g2 12 9))
  | 0xE0 => rsv (rz g1 30 2 && rz g2 12 20) (.symq h (fld g1 23 3) (fld g1 26 4) (fld g2 3 9))
  | 0xE1 => rsv (rz g1 23 9 && rz g2 9 23) (.imgw h (fld g2 3 6))
  | _ => none

/-- The fields of an instruction of any opcode; `none` where a reserved bit is set. -/
def decFields (g1 g2 g3 g4 : Granule) : Option Instr :=
  match opcOf g1 with
  | 0x01 => decCtl g1 g2 g3 g4
  | 0x02 =>
    let cs := flag g1 25
    rsv (rz g1 26 6 && rz g2 15 17 && (if cs then rz g3 12 20 else rz g3 27 5)) (.loop (hdrOf g1)
      { lc := fld g1 23 2, cs := cs, endOff := fld g2 3 12, count := if cs then 0 else fld g3 3 24,
        c := if cs then fld g3 3 9 else 0 })
  | 0x10 => decInt g1 g2
  | 0x11 => decIntI g1 g2 g3
  | 0x12 =>
    let bi := flag g1 23
    rsv (rz g1 25 4 && rz g2 27 5 && (bi || (rz g1 29 3 && rz g3 12 20))) (.sel (hdrOf g1)
      { bi := bi, pn := flag g1 24, d := fld g2 3 9, a := fld g2 12 9, p := fld g2 21 6,
        b := if bi then 0 else fld g3 3 9, imm := if bi then immOf g1 g3 else 0 })
  | 0x20 => decFp g1 g2
  | 0x21 => decFpI g1 g2 g3
  | 0x30 => decPk g1 g2
  | 0x40 => decLane g1 g2 g3
  | 0x50 => decPred g1 g2
  | 0x51 => rsv (rz g1 31 1 && rz g2 27 5 && rz g3 18 14) (.plop (hdrOf g1)
      { lut := fld g1 23 8, d := fld g2 3 6, a := fld g2 9 6, b := fld g2 15 6, c := fld g2 21 6,
        e := fld g3 3 6, lut2 := fld g3 9 8, ev := flag g3 17 })
  | opc => if opc < 0x90 then decMem g1 g2 g3 g4 else decEng g1 g2 g3 g4

/-- Register operand codes of a word with a reserved bit set, by the layout of its opcode; none of an instruction
that is never regrouped (R36, R64). -/
def rawCodes (g1 g2 g3 g4 : Granule) : Option (List RegCode) :=
  let acc := accOf g1 g2 g3
  let cpy := cpyOf g1 g2 g3 g4
  match opcOf g1 with
  | 0x11 | 0x21 => some [fld g3 3 9, fld g3 12 9]
  | 0x12 => some ([fld g2 3 9, fld g2 12 9] ++ if flag g1 23 then [] else [fld g3 3 9])
  | 0x20 | 0x30 => some [fld g2 3 9, fld g2 12 9]
  | 0x50 => some [if (fnOf g1 = 1 ∧ flag g1 29) ∨ fnOf g1 = 3 then fld g2 12 9 else fld g2 3 9]
  | 0x51 => some []
  | 0x60 | 0x61 | 0x62 | 0x63 => some [acc.c, acc.v]
  | 0x80 | 0x81 => some ([cpy.dc, cpy.sc] ++ if cpy.nr then [cpy.nreg] else [])
  | _ => none

/-- LEN is the instruction's format; NOP has three (R25, R34). -/
def lenMatches (g1 : Granule) : Bool :=
  decide (opcLen (opcOf g1) = some (lenOf g1)) || (decide (opcOf g1 = 0x01) && decide (fnOf g1 = 0))

/-- The checks MALCONT to RSVD of R34 in the order of its table, on the LEN + 1 granules of an
instruction that passed the checks of its start (R17). `priv`: the context runs privileged. -/
def decode (priv : Bool) (gs : List Granule) : Except Cause Instr :=
  match gs with
  | [] => .error .fetch
  | g1 :: rest =>
    let g2 := rest.getD 0 4
    let g3 := rest.getD 1 4
    let g4 := rest.getD 2 4
    if !rest.all isCont then .error .malcont
    else if opcLen (opcOf g1) = none then .error .opc
    else if !fnAssigned (opcOf g1) (fnOf g1) then .error .fn
    else if !lenMatches g1 then .error .len
    else if !priv && privWord g1 g2 then .error .priv
    else match decFields g1 g2 g3 g4 with
      | none => .error .rsvd
      | some i => if i.rsvdOk then .ok i else .error .rsvd

/-- SREG, VREG and KIND (R34), in that order, for an instruction that decodes. -/
def kindCheck (vallot : Nat) (i : Instr) : Option Cause :=
  if !i.sregOk then some .sreg
  else if !i.vregOk vallot then some .vreg
  else if !i.kindOk then some .kind
  else none

/-- The granules of an instruction of the opcode table's numbering: bit 0 is the least significant
bit of the first granule; only the `lenOf + 1` granules of the instruction are taken. -/
def tableGranules (nbits w : Nat) : List Granule :=
  let v := w % 2 ^ nbits
  let g := fun k => BitVec.ofNat 32 (v / 2 ^ (32 * k))
  ((List.range 4).map g).take (lenOf (g 0) + 1)

/-- The instruction the decoder reads from a word of the opcode table. -/
def decodeTableWord (nbits w : Nat) : Option Instr :=
  let gs := tableGranules nbits w
  match gs with
  | [] => none
  | g1 :: _ => if rng g1 0 2 = 0 then none else
    match decode true gs with
    | .ok i => some i
    | .error _ => none

/-! The encoder, from the same tables. -/

/-- Granule 1 (R15). -/
def encHdr (len opc x0 : Nat) (h : Hdr) : Granule :=
  BitVec.ofNat 32 (len + 4 * h.stall.toNat + 64 * h.yld.toNat + 128 * h.ge.toNat + 256 * h.gn.toNat
    + 512 * h.gp.toNat + 2 ^ 15 * opc + 2 ^ 23 * x0)

/-- A continuation granule from the value of its bits [31:3] (R16). -/
def encCont (x : Nat) : Granule := BitVec.ofNat 32 (4 + 8 * x)

/-- The G2 three-operand layout (R23). -/
def encOp3 (opc fn : Nat) (h : Hdr) (o : Op3) : List Granule :=
  [encHdr 1 opc (fn + 64 * o.mod.toNat) h,
   encCont (o.d.toNat + 2 ^ 9 * o.a.toNat + 2 ^ 18 * o.b.toNat + 2 ^ 27 * o.ext.toNat)]

/-- The G3 immediate layout (R23). -/
def encOpI (opc fn : Nat) (h : Hdr) (o : OpI) : List Granule :=
  [encHdr 2 opc (fn + 64 * (o.imm.toNat / 2 ^ 29)) h,
   encCont (o.imm.toNat % 2 ^ 29),
   encCont (o.d.toNat + 2 ^ 9 * o.a.toNat + 2 ^ 18 * o.mod.toNat + 2 ^ 21 * o.ext.toNat)]

/-- A cross-lane instruction (R119): `ctl` is its CTL field. -/
def encLane (fn ctl : Nat) (h : Hdr) (o : LaneOp) : List Granule :=
  [encHdr 2 0x40 fn h, encCont (o.m.toNat + 2 ^ 9 * ctl),
   encCont (o.d.toNat + 2 ^ 9 * o.a.toNat + 2 ^ 18 * o.b.toNat)]

/-- SHFR's CTL (R122). -/
def encShfr (c : ShfrCtl) : Nat :=
  if c.rel then 1 + 2 * c.j.toNat + 2 ^ 4 * c.neg.toNat + 2 ^ 8 * c.wrap.toNat
  else 2 * c.k.toNat + 2 ^ 8 * c.wrap.toNat

/-- The scratchpad access layout (R141). -/
def encAcc (opc : Nat) (h : Hdr) (o : AccOp) : List Granule :=
  [encHdr 2 opc (o.vn.toNat + 4 * o.all.toNat) h,
   encCont (o.n.toNat + 2 ^ 8 * o.c.toNat + 2 ^ 17 * o.v.toNat), encCont o.b.toNat]

/-- ALLOC and MAPG (R147, R149). -/
def encAlloc (opc : Nat) (h : Hdr) (o : AllocOp) : List Granule :=
  [encHdr 1 opc o.own.toNat h, encCont (o.p.toNat + 2 ^ 6 * o.n.toNat + 2 ^ 14 * o.s.toNat)]

/-- ACPY and ASTO (R201). -/
def encCpy (opc : Nat) (h : Hdr) (o : CpyOp) : List Granule :=
  [encHdr 3 opc (o.nr.toNat + 2 * o.tag.toNat) h,
   encCont (o.dn.toNat + 2 ^ 8 * o.dc.toNat + 2 ^ 17 * o.p.toNat),
   encCont (o.sn.toNat + 2 ^ 8 * o.sc.toNat),
   encCont (if o.nr then o.nreg.toNat else o.nimm.toNat)]

/-- P and T of a matrix instruction, with the rest of granule 2 above (R245). -/
def encPT (p : PIdx) (t : RegCode) (rest : Nat) : Granule :=
  encCont (p.toNat + 2 ^ 6 * t.toNat + 2 ^ 15 * rest)

/-- MLDA, MDRN and MDRA (R245). -/
def encTile (opc : Nat) (h : Hdr) (o : TileOp) : List Granule :=
  [encHdr 2 opc (o.tile.toNat + 8 * o.cv.toNat + 32 * o.rel.toNat) h, encPT o.p o.t 0,
   encCont (o.n.toNat + 2 ^ 8 * o.c.toNat)]

/-- The barrier instructions (R265). -/
def encBar (opc : Nat) (h : Hdr) (o : BarOp) : List Granule :=
  [encHdr 1 opc (o.bid.toNat + 16 * o.lvl.toNat + 128 * o.cm.toNat) h, encCont 0]

/-- The first three granules of an atomic (R267). -/
def encAtom (len opc : Nat) (h : Hdr) (o : AtomOp) : List Granule :=
  [encHdr len opc (o.op.toNat + 16 * o.ty.toNat) h,
   encCont (o.d.toNat + 2 ^ 9 * o.a.toNat + 2 ^ 18 * o.b.toNat),
   encCont (o.n.toNat + 2 ^ 8 * o.c.toNat)]

/-- The granules of an instruction; events have none. -/
def encode : Instr → List Granule
  | .nop h => [encHdr 1 0x01 0x00 h, encCont 0]
  | .nopG3 h => [encHdr 2 0x01 0x00 h, encCont 0, encCont 0]
  | .nopG4 h => [encHdr 3 0x01 0x00 h, encCont 0, encCont 0, encCont 0]
  | .bra h off => [encHdr 1 0x01 0x01 h, encCont off.toNat]
  | .brx h a => [encHdr 1 0x01 0x02 h, encCont (2 ^ 9 * a.toNat)]
  | .call h d off => [encHdr 1 0x01 0x03 h, encCont (d.toNat + 2 ^ 9 * off.toNat)]
  | .callx h d a => [encHdr 1 0x01 0x04 h, encCont (d.toNat + 2 ^ 9 * a.toNat)]
  | .ret h a => [encHdr 1 0x01 0x05 h, encCont (2 ^ 9 * a.toNat)]
  | .exit h => [encHdr 1 0x01 0x06 h, encCont 0]
  | .lbrk h => [encHdr 1 0x01 0x07 h, encCont 0]
  | .yield h => [encHdr 1 0x01 0x08 h, encCont 0]
  | .bkpt h code => [encHdr 1 0x01 0x09 h, encCont code.toNat]
  | .sleept h a => [encHdr 1 0x01 0x0A h, encCont (2 ^ 9 * a.toNat)]
  | .loop h o => [encHdr 2 0x02 (o.lc.toNat + 4 * o.cs.toNat) h, encCont o.endOff.toNat,
      encCont (if o.cs then o.c.toNat else o.count.toNat)]
  | .iadd h o => encOp3 0x10 0x00 h o
  | .isub h o => encOp3 0x10 0x01 h o
  | .imul h o => encOp3 0x10 0x02 h o
  | .imulh h o => encOp3 0x10 0x03 h o
  | .imad h o => encOp3 0x10 0x04 h o
  | .imin h o => encOp3 0x10 0x05 h o
  | .imax h o => encOp3 0x10 0x06 h o
  | .iabs h o => encOp3 0x10 0x07 h o
  | .and h o => encOp3 0x10 0x08 h o
  | .or h o => encOp3 0x10 0x09 h o
  | .xor h o => encOp3 0x10 0x0A h o
  | .andn h o => encOp3 0x10 0x0B h o
  | .shl h o => encOp3 0x10 0x0C h o
  | .shr h o => encOp3 0x10 0x0D h o
  | .sar h o => encOp3 0x10 0x0E h o
  | .bfx h o => encOp3 0x10 0x0F h o
  | .bfi h o => encOp3 0x10 0x10 h o
  | .popc h o => encOp3 0x10 0x11 h o
  | .clz h o => encOp3 0x10 0x12 h o
  | .brev h o => encOp3 0x10 0x13 h o
  | .iset h o => encOp3 0x10 0x15 h o
  | .mov h o => encOp3 0x10 0x16 h o
  | .iaddImm h o => encOpI 0x11 0x00 h o
  | .isubImm h o => encOpI 0x11 0x01 h o
  | .imulImm h o => encOpI 0x11 0x02 h o
  | .imulhImm h o => encOpI 0x11 0x03 h o
  | .imadImm h o => encOpI 0x11 0x04 h o
  | .iminImm h o => encOpI 0x11 0x05 h o
  | .imaxImm h o => encOpI 0x11 0x06 h o
  | .iabsImm h o => encOpI 0x11 0x07 h o
  | .andImm h o => encOpI 0x11 0x08 h o
  | .orImm h o => encOpI 0x11 0x09 h o
  | .xorImm h o => encOpI 0x11 0x0A h o
  | .andnImm h o => encOpI 0x11 0x0B h o
  | .shlImm h o => encOpI 0x11 0x0C h o
  | .shrImm h o => encOpI 0x11 0x0D h o
  | .sarImm h o => encOpI 0x11 0x0E h o
  | .isetImm h o => encOpI 0x11 0x15 h o
  | .movi h o => encOpI 0x11 0x16 h o
  | .sel h o => [encHdr 2 0x12 (o.bi.toNat + 2 * o.pn.toNat + 64 * (o.imm.toNat / 2 ^ 29)) h,
      encCont (o.d.toNat + 2 ^ 9 * o.a.toNat + 2 ^ 18 * o.p.toNat),
      encCont (if o.bi then o.imm.toNat % 2 ^ 29 else o.b.toNat)]
  | .fadd h o => encOp3 0x20 0x00 h o
  | .fsub h o => encOp3 0x20 0x01 h o
  | .fmul h o => encOp3 0x20 0x02 h o
  | .ffma h o => encOp3 0x20 0x03 h o
  | .fmin h o => encOp3 0x20 0x04 h o
  | .fmax h o => encOp3 0x20 0x05 h o
  | .fneg h o => encOp3 0x20 0x06 h o
  | .fabs h o => encOp3 0x20 0x07 h o
  | .fset h o => encOp3 0x20 0x08 h o
  | .fclass h o => encOp3 0x20 0x09 h o
  | .frcp h o => encOp3 0x20 0x0A h o
  | .frsq h o => encOp3 0x20 0x0B h o
  | .fexp2 h o => encOp3 0x20 0x0C h o
  | .flog2 h o => encOp3 0x20 0x0D h o
  | .ftanh h o => encOp3 0x20 0x0E h o
  | .fscaleb h o => encOp3 0x20 0x0F h o
  | .faddImm h o => encOpI 0x21 0x00 h o
  | .fsubImm h o => encOpI 0x21 0x01 h o
  | .fmulImm h o => encOpI 0x21 0x02 h o
  | .ffmaImm h o => encOpI 0x21 0x03 h o
  | .fminImm h o => encOpI 0x21 0x04 h o
  | .fmaxImm h o => encOpI 0x21 0x05 h o
  | .fsetImm h o => encOpI 0x21 0x08 h o
  | .fscalebImm h o => encOpI 0x21 0x0F h o
  | .padd2 h o => encOp3 0x30 0x00 h o
  | .pmul2 h o => encOp3 0x30 0x01 h o
  | .pfma2 h o => encOp3 0x30 0x02 h o
  | .pmax2 h o => encOp3 0x30 0x03 h o
  | .pmin2 h o => encOp3 0x30 0x04 h o
  | .cvt h o => [encHdr 1 0x30 0x08 h,
      encCont (o.d.toNat + 2 ^ 9 * o.a.toNat + 2 ^ 18 * o.tgt.toNat + 2 ^ 22 * o.src.toNat
        + 2 ^ 26 * o.sat.toNat + 2 ^ 27 * o.ext.toNat)]
  | .pack h o => encOp3 0x30 0x09 h o
  | .unpk h o => [encHdr 1 0x30 (0x0A + 64 * o.width.toNat + 256 * o.sx.toNat) h,
      encCont (o.d.toNat + 2 ^ 9 * o.a.toNat + 2 ^ 18 * o.idx.toNat)]
  | .qnt h o => encOp3 0x30 0x0B h o
  | .shfl h o => encLane 0x00 0 h o
  | .shfr h o c => encLane 0x01 (encShfr c) h o
  | .shfx h o x => encLane 0x02 x.toNat h o
  | .red h o op => encLane 0x03 op.toNat h o
  | .scan h o op exc rev => encLane 0x04 (op.toNat + 16 * exc.toNat + 32 * rev.toNat) h o
  | .vote h o mode => encLane 0x05 mode.toNat h o
  | .bcast h o l => encLane 0x06 l.toNat h o
  | .matchLanes h o => encLane 0x07 0 h o
  | .pmov h dir half r => [encHdr 1 0x50 (0x01 + 64 * dir.toNat) h,
      encCont ((if dir then 2 ^ 9 * r.toNat else r.toNat) + 2 ^ 27 * half.toNat)]
  | .srd h d sc => [encHdr 1 0x50 0x02 h, encCont (d.toNat + 2 ^ 18 * sc.toNat)]
  | .swr h sc a => [encHdr 1 0x50 0x03 h, encCont (2 ^ 9 * a.toNat + 2 ^ 18 * sc.toNat)]
  | .plop h o => [encHdr 2 0x51 o.lut.toNat h,
      encCont (o.d.toNat + 2 ^ 6 * o.a.toNat + 2 ^ 12 * o.b.toNat + 2 ^ 18 * o.c.toNat),
      encCont (o.e.toNat + 2 ^ 6 * o.lut2.toNat + 2 ^ 14 * o.ev.toNat)]
  | .ldt h o => encAcc 0x60 h o
  | .stt h o => encAcc 0x61 h o
  | .ldv h o => encAcc 0x62 h o
  | .stv h o => encAcc 0x63 h o
  | .ldx h o => encAcc 0x64 h o
  | .tfill h o => encAcc 0x65 h o
  | .mark h set n => [encHdr 1 0x66 set.toNat h, encCont n.toNat]
  | .waitf h n => [encHdr 1 0x67 0 h, encCont n.toNat]
  | .alloc h o => encAlloc 0x70 h o
  | .free h p n => [encHdr 1 0x71 0 h, encCont (p.toNat + 2 ^ 6 * n.toNat)]
  | .mapg h o => encAlloc 0x72 h o
  | .ltq h d n => [encHdr 1 0x73 0 h, encCont (d.toNat + 2 ^ 9 * n.toNat)]
  | .revive h p n => [encHdr 1 0x74 0 h, encCont (p.toNat + 2 ^ 6 * n.toNat)]
  | .waitcap h o => [encHdr 2 0x75 (o.nd.toNat + 2 * o.rank.toNat) h,
      encCont (o.p.toNat + 2 ^ 6 * o.nb.toNat), encCont o.d.toNat]
  | .rerank h o => [encHdr 1 0x76 (o.rs.toNat + 2 * o.rimm.toNat) h,
      encCont (o.p.toNat + 2 ^ 6 * o.n.toNat + 2 ^ 14 * o.a.toNat)]
  | .capq h st d => [encHdr 1 0x77 st.toNat h, encCont d.toNat]
  | .acpy h o => encCpy 0x80 h o
  | .asto h o => encCpy 0x81 h o
  | .twait h old tag => [encHdr 1 0x82 (old.toNat + 2 * tag.toNat) h, encCont 0]
  | .tcnt h out clr d => [encHdr 1 0x83 (out.toNat + 2 * clr.toNat) h, encCont d.toNat]
  | .bcpy h o => [encHdr 3 0x84 o.setf.toNat h, encCont (o.dn.toNat + 2 ^ 8 * o.t.toNat),
      encCont (o.sn.toNat + 2 ^ 8 * o.c.toNat), encCont 0]
  | .bput h o => [encHdr 3 0x85 0 h,
      encCont (o.dn.toNat + 2 ^ 8 * o.c.toNat + 2 ^ 17 * o.p.toNat),
      encCont (o.sn.toNat + 2 ^ 8 * o.t.toNat), encCont 0]
  | .cwait h p a => [encHdr 1 0x86 0 h, encCont (p.toNat + 2 ^ 9 * a.toNat)]
  | .cqry h est d a => [encHdr 1 0x87 est.toNat h, encCont (d.toNat + 2 ^ 9 * a.toNat)]
  | .migr h o => [encHdr 2 0x88 o.home.toNat h, encPT o.p o.t 0,
      encCont (o.n.toNat + 2 ^ 8 * o.c.toNat)]
  | .mma h o => [encHdr 3 0x90 (o.fa.toNat + 16 * o.fb.toNat + 256 * o.bt.toNat) h,
      encPT o.p o.t (o.ps.toNat + 2 * o.prec.toNat + 32 * o.kb.toNat),
      encCont (o.an.toNat + 2 ^ 8 * o.ac.toNat), encCont (o.bn.toNat + 2 ^ 8 * o.bc.toNat)]
  | .mmas h o => [encHdr 3 0x91 (o.fa.toNat + 16 * o.fb.toNat) h,
      encPT o.p o.t (o.ps.toNat + 2 * o.prec.toNat),
      encCont (o.an.toNat + 2 ^ 8 * o.ac.toNat + 2 ^ 17 * o.o.toNat),
      encCont (o.val.toNat + 2 ^ 8 * o.idx.toNat + 2 ^ 16 * o.ptr.toNat)]
  | .msca h o => [encHdr 3 0x92 0 h, encPT o.p o.t (o.ps.toNat + 2 * o.tile.toNat),
      encCont (o.sn.toNat + 2 ^ 8 * o.sc.toNat), encCont 0]
  | .mzero h o => [encHdr 1 0x93 o.tile.toNat h, encPT o.p o.t 0]
  | .mlda h o => encTile 0x94 h o
  | .mdrn h o => encTile 0x95 h o
  | .mdra h o => encTile 0x96 h o
  | .mwait h p a => [encHdr 1 0x97 0 h, encCont (p.toNat + 2 ^ 9 * a.toNat)]
  | .bar h o => encBar 0xA0 h o
  | .bara h o => encBar 0xA1 h o
  | .barw h o => encBar 0xA2 h o
  | .phase h o => encBar 0xA3 h o
  | .atom h o => encAtom 3 0xA4 h o ++ [encCont o.rel.toNat]
  | .atoms h o => encAtom 2 0xA5 h o
  | .atred h o => encAtom 3 0xA6 h o ++ [encCont o.rel.toNat]
  | .tokq h sp d => [encHdr 1 0xB0 sp.toNat h, encCont d.toNat]
  | .priceq h d a => [encHdr 1 0xB1 0 h, encCont (d.toNat + 2 ^ 9 * a.toNat)]
  | .tickr h d a => [encHdr 1 0xB2 0 h, encCont (d.toNat + 2 ^ 9 * a.toNat)]
  | .cntr h idx d => [encHdr 1 0xB3 idx.toNat h, encCont d.toNat]
  | .phint h kind a => [encHdr 1 0xB4 kind.toNat h, encCont (2 ^ 9 * a.toNat)]
  | .spawn h o => [encHdr 3 0xC0 (o.cf.toNat + 2 * o.cx.toNat) h,
      encCont (o.p.toNat + 2 ^ 6 * o.f.toNat + 2 ^ 15 * o.j.toNat),
      encCont (if o.cx then o.a.toNat else o.off.toNat),
      encCont (o.in0.toNat + 2 ^ 8 * o.in1.toNat + 2 ^ 16 * o.oute.toNat + 2 ^ 24 * o.v.toNat)]
  | .join h o => [encHdr 1 0xC1 (o.arm.toNat + 4 * o.self.toNat) h,
      encCont (2 ^ 9 * o.a.toNat + 2 ^ 18 * o.b.toNat)]
  | .park h j a => [encHdr 1 0xC2 j.toNat h, encCont (2 ^ 9 * a.toNat)]
  | .launch h o => [encHdr 3 0xC3 o.dep.toNat h, encCont o.q.toNat, encCont o.n.toNat,
      encCont o.c.toNat]
  | .trap h o => [encHdr 1 0xD0 0 h,
      encCont (o.code.toNat + 2 ^ 16 * o.a.toNat + 2 ^ 25 * o.av.toNat)]
  | .rett h form => [encHdr 1 0xD1 form.toNat h, encCont 0]
  | .seth h o => [encHdr 2 0xD2 (o.cls.toNat + 16 * o.src.toNat) h, encCont o.off.toNat,
      encCont o.a.toNat]
  | .tmask h o => [encHdr 1 0xD3 (o.op.toNat + 4 * o.wd.toNat) h,
      encCont (o.d.toNat + 2 ^ 9 * o.mask.toNat)]
  | .ckpt h mark a => [encHdr 1 0xD4 mark.toNat h, encCont (2 ^ 9 * a.toNat)]
  | .symq h sel el d => [encHdr 1 0xE0 (sel.toNat + 8 * el.toNat) h, encCont d.toNat]
  | .imgw h p => [encHdr 1 0xE1 0 h, encCont p.toNat]
  | _ => []

end Sys2Proof
end

