-- ==== Sys2Proof/Machine/State.lean ====
section
/-! DEFINITION. The state of one LZ-940 module as plain data, the three outcomes of a step, and the
state after the staged start (R153, R341). Sparse tables list only what differs from the value an
unlisted key has. -/

namespace Sys2Proof.Machine

/-- A finite table with rising keys. -/
abbrev Tab (α : Type) := List (Nat × α)

/-- Memory: address and byte pairs, addresses strictly rising, no byte 0 listed (log 7). -/
abbrev Mem := List Host.Cell

/-- No meaning of this model ends in a fault: the spec gives every instruction an effect. -/
inductive Fault where
  /-- Raised by `step` alone, when the agenda offers an instruction word as an event: no core issues
  it. Safe: the machine has no such step. -/
  | notAnEvent
  deriving DecidableEq, Repr

/-- Why a step is refused. -/
inductive Refusal where
  /-- Raised by an arm of `exec` whose instruction has no meaning yet. Safe. -/
  | notModelled (mnemonic : String)
  deriving DecidableEq, Repr

/-! Threads (R57, R62). -/

/-- A register write within its latency (R30): the key, the distance left, the value; `due`: the thread access whose
bank read at issue + 6 brings the value (R29). -/
structure Pend where
  key : Nat
  left : Nat
  val : Word
  due : Option Nat
  deriving DecidableEq, Repr

/-- What a parked thread waits for (R62, R75). Its PC stays at the instruction that parked it. -/
inductive Wait where
  | tag (tag : Nat)
  | ticket (p : PIdx) (own : Word) (all : List Word)
  | full (entry : Nat)
  | cap (banks rank : Nat) (p : PIdx) (deadline : Option Nat)
  | barrier (bar gen : Nat)
  | wave (quadCycle : Nat)
  | atomic (req : Nat)
  | place (entry : Nat) (p : PIdx) (tick cyc : Nat)
  | freeing (entry : Nat) (p : PIdx)
  | image (p : PIdx) (upTo : Nat)
  | entry (entry : Nat) (order : Nat)
  | trap
  | debugger
  deriving DecidableEq, Repr

/-- Thread states (R62). READY and STALLED are told apart by the cycle of the next issue; `held` is a
READY thread whose wide group waits for tokens (R66). -/
inductive TState where
  | ready
  | held
  | collective
  | crossLane (mask : Mask)
  | loopEnd
  | parked (w : Wait)
  | sleeping (deadline : Nat)
  | retired
  deriving DecidableEq, Repr

/-- Where a thread stood behind an entry that has left REBUILD (R165): the entry, its place in the order, and whether
the rebuild was given up. -/
structure Released where
  entry : Nat
  order : Nat
  given : Bool
  deriving DecidableEq, Repr

/-- One thread. `regs` keys v registers by 0 to 255 and predicates by 512 to 575; `sview` keys the
thread's settled view of the s registers by 256 to 447 (R364); `ctlPend` names the crew's control
writes that this thread made and whose latency has not passed (R52, R104, R324, R325). -/
structure Thread where
  st : TState
  pc : Word
  regs : Tab Word
  sview : Tab Word
  pend : List Pend
  ctlPend : Tab Nat
  jid : BitVec 16
  nextA : Nat
  nextB : Nat
  since : Nat
  promoted : Bool
  broken : Bool
  released : Option Released
  deriving DecidableEq, Repr

/-! Crews (R57, R60, R61). -/

/-- Crew-slot states that are not derived from the threads; a crew in `run` whose live threads all
wait is PARKED (R61). -/
inductive CrewSt where
  | prologue | run | held
  deriving DecidableEq, Repr

/-- Identity of a crew: what placement gives it. -/
structure CrewId where
  ctx : Nat
  launch : Nat
  block : Nat
  index : Nat
  crewId : BitVec 16
  vallot : Nat
  high : Bool
  regroup : Bool
  spawned : Bool
  age : Nat
  entered : Nat
  deriving DecidableEq, Repr

/-- One open loop level (R72); `inHandler`: opened by a handler's threads (R310). -/
structure LoopLevel where
  start : Word
  stop : Word
  inHandler : Bool
  deriving DecidableEq, Repr

/-- Loop state (R72, R73): counters lc0 to lc2, the open levels (outermost first) and the addresses
of the instructions held in the loop buffer. -/
structure Loops where
  lc : List Word
  levels : List LoopLevel
  buffer : List Word
  deriving DecidableEq, Repr

/-- A write of the crew's control registers. -/
inductive CtlOp where
  | fpSet (v : Word)
  | fpOr (v : Word)
  | ltsel (v : Word)
  | tmask (v : BitVec 10)
  | handler (cls : Nat) (pc : Word)
  deriving DecidableEq, Repr

/-- FPCTL (R51), LTSEL (R101), the trap mask and the handler PCs (R306). -/
structure Ctl where
  fpctl : Word
  ltsel : Word
  tmask : BitVec 10
  handlers : List Word
  deriving DecidableEq, Repr

/-- The frame registers (R307). -/
structure Frame where
  pc : Word
  code : Word
  arg : Word
  lt : BitVec 8
  lm : Mask
  act : Mask
  deriving DecidableEq, Repr

/-- A pending trap (R309): its frame, the results that a masked FPX would write (lane, key, value)
and their latency, the PC after the instruction and its STALL. -/
structure PendTrap where
  frame : Frame
  withheld : List (Nat × Nat × Word)
  lat : Nat
  next : Word
  stall : Nat
  deriving DecidableEq, Repr

/-- Trap state of a crew (R306 to R309). -/
structure TrapSt where
  handling : Bool
  hact : Mask
  frame : Frame
  pending : List PendTrap
  deriving DecidableEq, Repr

/-- One tag (R205): outstanding copies by their serial numbers, and the status bits. -/
structure TagSt where
  ids : List Nat
  loss : Bool
  fault : Bool
  deriving DecidableEq, Repr

/-- Copy status of a crew (R205, R206). -/
structure CopySt where
  tags : Tab TagSt
  oloss : Bool
  ofault : Bool
  oref : Bool
  deriving DecidableEq, Repr

/-- Counters of a crew: CNTR 0x00 to 0x06 (R195), retirements (R77, R322), ISSUED and the numbers of
its image-bearing writes that have not settled (R303). -/
structure Counts where
  cntr : List Nat
  retired : Nat
  wdBase : Nat
  issued : Nat
  unsettled : List Nat
  deriving DecidableEq, Repr

/-- A capacity claim (R168). -/
structure Claim where
  banks : Nat
  expires : Nat
  deriving DecidableEq, Repr

/-- One crew in a slot. `kbTile`: the request of its last MMA (R233); `evict`: the cycle at which it was chosen to be
saved and left admission (R76, R317, R318). -/
structure Crew where
  st : CrewSt
  id : CrewId
  threads : Tab Thread
  sregs : Tab Word
  loops : Loops
  ctl : Ctl
  ctlLog : List (Nat × CtlOp)
  trap : TrapSt
  copy : CopySt
  counts : Counts
  claim : Option Claim
  hungry : Bool
  kbTile : Option Nat
  evict : Option Nat
  deriving DecidableEq, Repr

/-! Layout entries (R128 to R132, R163). -/

/-- STATE of an entry (R131). -/
inductive EntrySt where
  | free | live | losing | lost | rebuild
  deriving DecidableEq, Repr

/-- A descriptor (R131) with its hardware fields. -/
structure Desc where
  kind : Nat
  fmt : Nat
  ndim : Nat
  rank : Nat
  clampz : Bool
  full : Bool
  st : EntrySt
  space : Nat
  gpl : Bool
  own : Bool
  ext : List Nat
  banklog : Nat
  bank0 : Nat
  row0 : Nat
  nrows : Nat
  perm : Nat
  handler : Word
  stride : List Nat
  handle : BitVec 64
  deriving DecidableEq, Repr

/-- Who owns an entry (R130). -/
inductive Owner where
  | block (b : Nat)
  | launch (l : Nat)
  deriving DecidableEq, Repr

/-- An entry of the layout table. `placing`: the bank and row of the cells that are being zeroed for it (R147, R167);
`cleared`:
its owner ended while it was LOSING (R162); `freeing`: an accepted FREE has not reached issue + 6. -/
structure Entry where
  desc : Desc
  owner : Owner
  placing : Option (Nat × Nat)
  rebuilder : Option Nat
  revived : Bool
  doomed : Bool
  cleared : Bool
  freeing : Bool
  deriving DecidableEq, Repr

/-- Bank states (R156), with the TICK at which a WAKING bank is LIT. -/
inductive BankSt where
  | dark
  | waking (lit : Nat)
  | lit
  | doomed
  deriving DecidableEq, Repr

/-- A doom (R160): its instant in core cycles and in TICK, its banks, the keys of the entries that it took, the cycle
of the last pass of the thread accesses before it, and the engine operations accepted before it that still read the
doomed cells. -/
structure Doom where
  t0 : Nat
  tick : Nat
  banks : List Nat
  entries : List Nat
  lastPass : Nat
  readers : List Nat
  deriving DecidableEq, Repr

/-- CAPCTL (R153); `pending`: Kale has a new comparison to make (R155, R156, R158). -/
structure CapSt where
  target : Nat
  pinq : Nat
  force : Bool
  pending : Bool
  deriving DecidableEq, Repr

/-! Tokens (R180 to R183). -/

/-- What a demand pays for. A group that issues with its first chunk names the chunk's bytes: that demand is the copy
unit's (R176). -/
inductive DemandKind where
  | group (slot : Nat) (parts : List (Nat × Mask)) (pc : Word) (chunk : Option Nat)
  | matrix (slot req : Nat)
  | chunk (req chunk : Nat) (accepted : Nat)
  deriving DecidableEq, Repr

/-- A demand of a token party (R182): its price under the table in force, and at OP0 (R175). -/
structure Demand where
  kind : DemandKind
  nominal : Nat
  price : Nat
  since : Nat
  paid : Bool
  hungry : Option Nat
  deriving DecidableEq, Repr

/-- TOKCTL, the fill mark, the head and its wait, the claim and the demand it was made for, claims
made (CNTR 0x07), and one more than the cycle of the last visit of a flit (R180 to R182, R195). -/
structure TokSt where
  level : Nat
  tkcap : Nat
  filling : Bool
  head : Option DemandKind
  headWait : Nat
  holds : Bool
  claimFor : Option DemandKind
  claims : Nat
  takeAt : Nat
  deriving DecidableEq, Repr

/-! The copy unit (R197 to R220). -/

/-- Ticket states (R207, R228). -/
inductive TickSt where
  | free | pend | run | parked | deferred | done | lost | fault
  deriving DecidableEq, Repr

/-- A ticket slot (R207); `ctx`: whose operation it names. -/
structure Ticket where
  ctx : Nat
  gen : Nat
  st : TickSt
  setf : Bool
  landed : Nat
  doneTick : Nat
  doneSeq : Nat
  estimate : Nat
  slot : Nat
  deriving DecidableEq, Repr

/-- One end of a copy: the entry's index and descriptor as they stood at issue and the first
coordinate; `core` is the core whose scratchpad holds a scratchpad end. -/
structure CopyEnd where
  core : Nat
  entry : Nat
  desc : Desc
  coord : List Nat
  deriving DecidableEq, Repr

/-- A lane's update of an atomic (R270). -/
structure AtomLane where
  lane : Nat
  coord : List Nat
  a : Word
  b : Word
  deriving DecidableEq, Repr

/-- What a request does. -/
inductive ReqKind where
  /-- A per-thread copy of `n` bytes under a tag (R202, R203). -/
  | thread (tag n lane : Nat)
  /-- A bulk copy of a whole entry (R209, R210). -/
  | bulk (setf : Bool)
  /-- A deferred write of `n` bytes by ASTO (R203). -/
  | deferThread (n lane : Nat)
  /-- A deferred bulk write by BPUT (R210). -/
  | deferBulk
  /-- A migration of a home tile to a new frame (R219). -/
  | migr (handle : BitVec 64) (tile home frame : Nat)
  /-- ATOM, with the destination register, or ATRED (R267); `bad`: the dimension and the lanes of the
  BOUNDS COORD that the group of an ATOM takes once the other lanes have their results. -/
  | atom (ret : Bool) (d : RegCode) (op ty : Nat) (rel : Bool) (lanes : List AtomLane)
      (bad : Option (Nat × Mask))
  /-- A transform binding (R221): the binding's words. -/
  | binding (word0 scale : Word)
  /-- A record of LAUNCH that waits for a page (R97, R199): its queue, and DEP. -/
  | launch (queue : Nat) (dep : Bool)
  deriving DecidableEq, Repr

/-- One request of a copy unit. `chunks`: the units of the current base or image that have landed;
`held`: those read and not landed, with their bytes or element values; `paid`: the sizes of the
chunks paid, in bytes; `image`: 0 for the base, i + 1 for image i; `tagged`: the serial number at which its publish
began; `inTurn`: it was held by the debugger and starts in acceptance order (R357). -/
structure Req where
  serial : Nat
  kind : ReqKind
  ctx : Nat
  launch : Nat
  block : Nat
  slot : Nat
  crewId : BitVec 16
  pc : Word
  src : CopyEnd
  dst : CopyEnd
  ticket : Option Nat
  started : Bool
  inTurn : Bool
  lane : Nat
  publishing : Option Nat
  tagged : Nat
  parked : Option Nat
  chunks : List Nat
  held : Tab (List Nat)
  paid : List Nat
  image : Nat
  seqNo : Option Nat
  accepted : Nat
  deriving DecidableEq, Repr

/-- An effect that reaches the cells or the entry at issue + 6 (R29, R145, R150, R170, R203), and a write
through LTDAT at distance 2 (R104). A thread access keeps its number and the descriptor that it found. -/
inductive LateOp where
  /-- The elements of lanes, given by slot and lane, are read into the register runs that begin at `c` (R142). -/
  | load (serial : Nat) (d : Desc) (c : RegCode) (lanes : List (Nat × Nat × List (List Nat)))
  /-- Elements are written, in order, for the crews of slots (R142, R144). -/
  | store (serial : Nat) (slots : List Nat) (d : Desc) (elems : List (List Nat × Nat))
  /-- ATOMS (R271): each lane's update, with its slot, and the crew and its retirement count for the order log. -/
  | atoms (serial ctx : Nat) (d : Desc) (reg : RegCode) (op ty : Nat) (crewId : BitVec 16) (retired : Nat)
      (lanes : List (Nat × AtomLane))
  /-- A QSCR write of a lane reads its source (R203). -/
  | source (req : Nat)
  | mark (entry : Nat) (set : Bool)
  | rerank (entry rank : Nat)
  | free (entry : Nat)
  | ltdat (entry word : Nat) (v : Word) (slot : Nat) (pc : Word)
  deriving DecidableEq, Repr

/-! The trap coalescer (R314 to R316). -/

/-- A record, or an event that waits for one. `lid`: the launch id (its LAUNCH field); `gone`: the slot of the crew that
it names has become FREE since. -/
structure FaultRec where
  cause : Nat
  sub : Nat
  count : Nat
  slots : Nat
  imprecise : Bool
  pc : Word
  crewId : BitVec 16
  ctx : Nat
  launch : Nat
  lid : Word
  addr : Nat
  opened : Nat
  gone : Bool
  deriving DecidableEq, Repr

/-- A PC table entry (R63): the block and PC of its key, and its age. -/
structure PcEntry where
  block : Nat
  pc : Word
  born : Nat
  deriving DecidableEq, Repr

/-- One core. `landAt`: the last of its cycles in which an operation landed or ended (R222). -/
structure Core where
  slots : Tab Crew
  layout : Tab Entry
  cells : Mem
  banks : Tab BankSt
  cap : CapSt
  dooms : List Doom
  tok : TokSt
  demands : List Demand
  pcTable : List PcEntry
  lastA : Option Nat
  lastB : Option Nat
  nextAccess : Nat
  tickets : Tab Ticket
  reqs : List Req
  holdCopy : Bool
  landAt : Option Nat
  late : List (Nat × LateOp)
  openRecs : List FaultRec
  waiting : List FaultRec
  skew : Nat
  deriving DecidableEq, Repr

/-! Quads: matrix engine, waves, rail (R186 to R190, R223 to R228). -/

/-- A tile: element 128 i + j by key, whether it holds S32 (R223), and the crew that has reserved it, since a quad
cycle (R225, R248). -/
structure Tile where
  vals : Tab Word
  isInt : Bool
  owner : Option (Nat × BitVec 16)
  since : Nat
  deriving DecidableEq, Repr

/-- A tile bank (R224). -/
inductive BankUse where
  | free
  | bound (ctx : Nat)
  | spilling (ctx : Nat)
  | filling (ctx : Nat)
  deriving DecidableEq, Repr

/-- `granted`: the context has had a grant since the bank was filled for it. -/
structure TileBank where
  use : BankUse
  tiles : Tab Tile
  lastGrant : Nat
  granted : Bool
  deriving DecidableEq, Repr

/-- Operations of the engine (R234 to R242). -/
inductive MatOp where
  | mma (fa fb : Nat) (bt kb : Bool) (ps prec : Nat)
  | mmas (fa fb ps prec k0 j0 : Nat)
  | msca (ps tile : Nat)
  | mzero (tile : Nat)
  | mlda (tile : Nat)
  | mdrn (tile cv : Nat) (rel : Bool)
  | mdra (tile : Nat) (rel : Bool)
  deriving DecidableEq, Repr

/-- Table entry states (R226). -/
inductive MatSt where
  | wait
  | earmarked (since : Nat)
  | granted (done : Nat)
  deriving DecidableEq, Repr

/-- A reservation-table entry (R223, R226): the operation, its operand entries (A or the single
operand first) with their coordinates, its ticket and its B tile. `bTile`: the elements of B by
key 128 x + j, once loaded or gathered (R233, R241). -/
structure MatReq where
  serial : Nat
  core : Nat
  slot : Nat
  crewId : BitVec 16
  ctx : Nat
  launch : Nat
  block : Nat
  pc : Word
  op : MatOp
  ends : List CopyEnd
  ticket : Nat
  price : Nat
  st : MatSt
  loadStart : Option Nat
  bTile : Option (Tab Word)
  kbOf : Option Nat
  skipped : List Nat
  values : Tab Word
  valuesInt : Bool
  image : Nat
  seqNo : Option Nat
  parked : Option Nat
  deriving DecidableEq, Repr

/-- Stall-ratio counters of an interval (R190). -/
structure StallCnt where
  slots : Nat
  issued : Nat
  tokwait : Nat
  engwait : Nat
  hung : Nat
  deriving DecidableEq, Repr

/-- A PHINT record (R196). -/
structure Hint where
  crewId : BitVec 16
  kind : Nat
  val : Word
  tick : Nat
  deriving DecidableEq, Repr

/-- The B tile of a crew's last MMA: that request and the tile (R233). -/
structure KbTile where
  serial : Nat
  vals : Tab Word
  deriving DecidableEq, Repr

/-- One quad. The clock: `cyc` quad cycles had passed and `phase` / 42 of the next at fabric cycle
`mark`; since then the quad has run at point `op` (R188); `want` is the point to which it is going (R189). -/
structure Quad where
  table : List MatReq
  banks : List TileBank
  lastB : Tab KbTile
  wave : Nat
  slope : Nat
  op : Nat
  mV : Nat
  want : Nat
  mark : Nat
  cyc : Nat
  phase : Nat
  mailbox : List Hint
  stall : StallCnt
  snapshot : StallCnt
  snapAt : Nat
  deriving DecidableEq, Repr

/-! Dies: ring, tasks, join counters (R80 to R84, R178, R179). -/

/-- A flit (R178). -/
structure Flit where
  tok : Nat
  cid : Nat
  cv : Bool
  deriving DecidableEq, Repr

/-- A continuation record (R80): `lid` is its LAUNCH field. `launch` and `ctx` say whose it is; `binned` is the TICK at
which it entered its bin; `backed` is its place in the launch's backing region, where it has been spilled. -/
structure TaskRec where
  code : Word
  frame : List Word
  jid : BitVec 16
  in0 : BitVec 8
  in1 : BitVec 8
  oute : BitVec 8
  v : BitVec 3
  high : Bool
  hcore : Nat
  hany : Bool
  lid : Word
  launch : Nat
  ctx : Nat
  binned : Option Nat
  backed : Option Nat
  deriving DecidableEq, Repr

/-- A join counter (R84). -/
structure Join where
  armed : Bool
  count : Nat
  held : List TaskRec
  deriving DecidableEq, Repr

/-- One die. `bins` are keys (CODE, HANY, HCORE, LAUNCH) of the bins in use. -/
structure Die where
  flits : List Flit
  inj : Nat
  injAt : Nat
  tasks : List TaskRec
  bins : List (Word × Bool × Nat × Nat)
  joins : Tab Join
  deriving DecidableEq, Repr

/-! Launches and blocks. -/

/-- A launch record (R333), parsed; `bind` lists the bindings in use as 128-bit words (R221), `sym` and
`images` hold the symmetry descriptor and the entries its image list names (R289). -/
structure LaunchRec where
  kind : Nat
  crews : Nat
  high : Bool
  regroup : Bool
  width : Nat
  vallot : Nat
  pinq : Nat
  nrange : Nat
  code : Word
  grid : List Nat
  shape : List Nat
  spawnmax : Nat
  fpctl : Word
  pred : BitVec 64
  cmpl : BitVec 64
  lid : Word
  pval : List Word
  pidx : List Nat
  sym : BitVec 64
  images : List Nat
  bar : List Nat
  ranges : List (BitVec 64 × Nat × Nat × Bool)
  bind : List Nat
  entries : List (Nat × Bool × Nat)
  handlers : List Word
  tmask : BitVec 10
  reservedOk : Bool
  deriving DecidableEq, Repr

/-- An element of the symmetry group (R291): its word of generators and the parity of NEG. -/
structure SymElem where
  gens : List Nat
  neg : Bool
  deriving DecidableEq, Repr

/-- One member of a barrier (R260): its arrivals, the serial numbers of its last two with its crew's retirement counts
at them (R322), and whether it has retired. -/
structure Member where
  count : Nat
  last : Nat
  prev : Nat
  retired : Nat
  before : Nat
  gone : Bool
  deriving DecidableEq, Repr

/-- A hardware barrier (R258 to R263). Members are numbered 2048 b + 64 k + lane (thread membership)
or 2048 b + 64 k (crew membership), `b` the block's linear index and `k` the crew's index; `pub`
lists the unopened publishing generations. -/
structure Bar where
  level : Nat
  crewMem : Bool
  expected : Nat
  opened : Nat
  members : Tab Member
  pub : List Nat
  publishing : Bool
  deriving DecidableEq, Repr

/-- A launch (R57, R336). `frames` are the HBM frames of its backing region and `backing` that region's bytes, byte 32 n
the first of record n (R80, R81). -/
structure Launch where
  ctx : Nat
  queue : Option Nat
  record : LaunchRec
  status : Nat
  detail : Nat
  elems : List SymElem
  waiting : List Nat
  done : Nat
  total : Nat
  population : Nat
  frames : List Nat
  backing : Mem
  spawned : Nat
  bars : Tab Bar
  die : Option Nat
  completed : Bool
  deriving DecidableEq, Repr

/-- A block (R57, R59). `cores` are the cores it was placed on, `crews` its crews' places; `saved` counts those in the save area, `left`
those that have not been released; `nextBind` counts the transform bindings begun (R221); `bound`
lists the core and entry of each that has completed (R145). -/
structure Block where
  launch : Nat
  index : Nat
  xyz : List Nat
  spawned : Bool
  cores : List Nat
  crews : List SlotRef
  saved : Nat
  left : Nat
  bars : Tab Bar
  orbit : Nat
  stab : Nat
  placedAt : Nat
  nextBind : Nat
  bound : List (Nat × Nat)
  started : Bool
  publishing : Bool
  deriving DecidableEq, Repr

/-! Contexts (R330 to R332). -/

/-- CERR (R37); `since` is the fabric cycle of the kill it holds, for R36. -/
structure Cerr where
  pc : Word
  crew : BitVec 16
  cause : Nat
  valid : Bool
  count : Nat
  launch : Word
  since : Nat
  deriving DecidableEq, Repr

/-- The control block (R330). -/
structure Ccb where
  cerr : Cerr
  fqBase : BitVec 64
  fqHead : Nat
  fqTail : Nat
  fqLog : Nat
  priv : Bool
  replay : Bool
  ckpti : Nat
  quant : Nat
  plock : Bool
  wdlog : Nat
  qtBase : BitVec 64
  nq : Nat
  deriving DecidableEq, Repr

/-- States of a record in a queue's window (R334). -/
inductive RecSt where
  | queued | released
  deriving DecidableEq, Repr

/-- A record taken into a window: its launch where it is a released KERNEL. -/
structure QRec where
  record : LaunchRec
  st : RecSt
  skip : Bool
  launch : Option Nat
  dep : Option Nat
  deriving DecidableEq, Repr

/-- A queue (R331). `window`: the records taken in that have not completed; `deps`: the launch that the
record of a slot waits for (R97 DEP), by tail word; `skips`: records still to come that a COND skips; `appended`: the
cycle, core and crew of the last LAUNCH into it (R332). -/
structure Queue where
  base : BitVec 64
  slog : Nat
  ranged : Bool
  devfed : Bool
  stop : Bool
  head : Nat
  tail : Nat
  window : List QRec
  deps : List (Nat × Nat)
  skips : Nat
  appended : Option (Nat × Nat × Nat)
  deriving DecidableEq, Repr

/-- The map entry of a home tile (R218). -/
structure Home where
  space : Nat
  frame : Nat
  mig : Bool
  commit : Bool
  deriving DecidableEq, Repr

/-- A global allocation (R198, R199, R218). `base`: the frame of its tile 0; a tile that `homes` does not list lies in
the space and the frame that it had at first. -/
structure Alloc where
  handle : BitVec 64
  space : Nat
  size : Nat
  base : Nat
  unmapped : List Nat
  homes : Tab Home
  deriving DecidableEq, Repr

/-- A saved crew (R318, R320) with its core, its ungranted matrix requests and the save layout's version.
The cycles of its threads' next issues are kept as distances (R33). -/
structure Saved where
  core : Nat
  crew : Crew
  mreqs : List MatReq
  version : Nat
  deriving DecidableEq, Repr

/-- What the order log keeps (R322): what happened (1 a barrier opening, 2 an atomic, 3 an engine join,
4 a read, 5 a doom, 6 a page resume or failure, 7 a publish, 8 an inbound read, 9 a CKPT marker), the crew
and its retirement count, values, and the retirement count of every crew of the context at that moment. -/
structure LogItem where
  what : Nat
  crewId : BitVec 16
  retired : Nat
  vals : List Nat
  counts : List (BitVec 16 × Nat)
  deriving DecidableEq, Repr

/-- A checkpoint (R321): when it was taken, what the context's part of the machine was, and the order log
and undo journal that follow it up to the next. -/
structure Ckpt where
  taken : Nat
  crews : List Saved
  layouts : Tab (Tab Entry)
  cells : Tab Mem
  tiles : Tab TileBank
  reqs : Tab (List Req)
  tickets : Tab (Tab Ticket)
  queues : Tab Queue
  blocks : Tab Block
  launches : Tab Launch
  joins : Tab (Tab Join)
  tasks : Tab (List TaskRec)
  log : List LogItem
  journal : Mem
  journalKeys : List Nat
  deriving DecidableEq, Repr

/-- A replay in progress (R323): what is still to be imposed, the crew and the retirement count at which
the re-execution ends, and the first mismatch. -/
structure Replay where
  todo : List LogItem
  crew : BitVec 16
  target : Nat
  mismatch : Option LogItem
  deriving DecidableEq, Repr

/-- A context (R57). Code is held by byte address (R14); `reserved` lists the spaces in which system
software has reserved backing (R219). `ckpts`: newest first; `log` and `journal` follow the newest. -/
structure Context where
  codeBase : Nat
  codeSize : Nat
  code : Mem
  ccb : Ccb
  queues : Tab Queue
  allocs : List Alloc
  reserved : List Nat
  saved : List Saved
  savedTiles : Tab TileBank
  ckpts : List Ckpt
  replaying : Option Replay
  log : List LogItem
  journal : Mem
  journalKeys : List Nat
  ckptAsked : Bool
  killed : Bool
  deriving DecidableEq, Repr

/-! The package around the dies (R328, R338 to R344). -/

/-- A firmware complex pair (R338 to R340). `verified`: the image of the standby complex has been accepted under an owner
key that is still enrolled. -/
structure Firmware where
  image : Nat
  version : Nat
  standby : Option (Nat × Nat)
  verified : Bool
  booted : Bool
  exported : Bool
  quiesced : Bool
  heldTails : List (QueueRef × BitVec 16)
  ownerKeys : List Nat
  measured : List Nat
  log : List Nat
  deriving DecidableEq, Repr

/-- A link (R328). -/
structure Link where
  ettil : Bool
  trained : Bool
  retrains : Nat
  reported : Bool
  deriving DecidableEq, Repr

/-- The start stage and the report on the management link (R341). -/
structure StartSt where
  stage : Stage
  failed : Bool
  deriving DecidableEq, Repr

/-- Power state, the host's latency tolerance in µs, whether something has woken the device, the fabric cycles for which
the clocks have been stopped, CAPCTL words kept over NAP, writes held during entry (R342, R343), and the power
microcontroller's log of denied requests (R189). -/
structure PowerSt where
  state : Power
  tolerance : Nat
  woken : Bool
  stopped : Nat
  kept : Tab CapSt
  heldTails : List (QueueRef × BitVec 16)
  denied : List PointEv
  deriving DecidableEq, Repr

/-- Field data (R344). -/
structure FieldData where
  claims : Tab Nat
  hungry : Tab Nat
  dooms : Tab Nat
  retrains : Tab Nat
  temperature : Tab Nat
  voltage : Tab Nat
  softErrors : Tab Nat
  deriving DecidableEq, Repr

/-- Reports on the management link (R328, R340, R341, R344): the measurement registers, the field data, FAILED, the links
that stay in standard mode. -/
inductive Report where
  | measurements (digests : List Nat)
  | field (x : FieldData)
  | failed
  | standardMode (link : Nat)
  deriving DecidableEq, Repr

/-- What the debugger has printed. -/
inductive Shown where
  | word (w : Word)
  | wide (v : Nat)
  | list (vs : List Nat)
  | unavailable
  deriving DecidableEq, Repr

/-- A `cap n after t` (R357): `armed` once the crew has resumed; `at` is then the TICK of its write. -/
structure CapLater where
  core : Nat
  target : Nat
  tick : Nat
  armed : Bool
  deriving DecidableEq, Repr

/-- A stopped crew; `stepTo`: the retirement count to which it may go (R346). -/
structure Stop where
  ref : SlotRef
  stepTo : Option Nat
  deriving DecidableEq, Repr

/-- The nupdb session (R346 to R349, R356, R357, R360). `stops`: the stopped crews, the one that stopped last first, of
which commands speak; `pass`: crews
that have resumed at a breakpoint and may issue there once; `labels`: the kernel's; `ran`: the context and queue of the
last kernel that `run` launched; `speaks`: place and age of the crew that stopped last, which `tokens` and the debug commands speak of
when it has gone on, and `spent`: the tokens debited to it, once its slot is FREE; `capPrint`: a core whose `cap` has
not returned, with its t0. -/
structure Session where
  attached : Option Nat
  breaks : List Word
  focus : Option (Nat × Nat)
  stops : List Stop
  stopPc : Word
  code : Nat
  pass : List (SlotRef × Word)
  labels : List Word
  ran : Option (Nat × Nat)
  speaks : Option (SlotRef × Nat)
  spent : Nat
  caps : List CapLater
  capPrint : Option (Nat × Option Nat)
  out : List Shown
  deriving DecidableEq, Repr

/-- The issuing group (R64): its core, its threads by slot, its PC, its length in bytes, its class
(R26), whether its price has been paid (R66), and the bytes of its first chunk, where that was paid (R176). -/
structure Group where
  core : Nat
  parts : List (Nat × Mask)
  pc : Word
  len : Nat
  clsA : Bool
  paid : Bool
  chunk : Option Nat
  deriving DecidableEq, Repr

/-- What the agenda may name as the next step (log 1). -/
inductive Turn where
  | event (i : Instr)
  | issue (core slot : Nat) (pc : Word)
  | clock
  | makeContext (ctx codeBase codeSize : Nat) (code : Mem)
  | makeAlloc (ctx : Nat) (handle : BitVec 64) (space size : Nat)
  | unmapPage (ctx : Nat) (handle : BitVec 64) (page : Nat)
  | reserve (ctx space : Nat)
  | attach (ctx : Option Nat)
  | queueDesc (ctx queue : Nat) (base : BitVec 64) (slog : Nat) (ranged devfed : Bool)
  | tolerance (us : Nat)
  | doorbell
  | sample (die temperature voltage : Nat)
  | softError (row : Nat)
  | report (what : Nat)
  deriving DecidableEq, Repr

/-- The 64 KiB frames of the memories of global spaces (R1, R218): the lowest of each space that has not been taken,
and those that have been released, with their spaces. -/
structure Frames where
  next : Tab Nat
  free : List (Nat × Nat)
  deriving DecidableEq, Repr

/-- The package outside dies and contexts. `held`: writes of the front ends, the coalescers and the fabric that a migration
holds, in their order (R220); `reports`: what the management link has carried. -/
structure Device where
  pkg : BitVec 9
  start : StartSt
  power : PowerSt
  firmware : Firmware
  links : Tab Link
  frames : Frames
  held : List (Nat × List Byte)
  field : FieldData
  reports : List Report
  session : Session
  deriving DecidableEq, Repr

/-- The machine. `moved`: an event or an issue has taken place in this fabric cycle (R158); `cycle` counts fabric cycles since package reset; `serial` numbers crews, requests
and control writes in the order they arise; `freeCtr` counts free values taken (log 3). -/
structure State where
  cycle : Nat
  cores : Tab Core
  quads : Tab Quad
  dies : Tab Die
  contexts : Tab Context
  launches : Tab Launch
  blocks : Tab Block
  globalMem : Mem
  device : Device
  agenda : List Turn
  cur : Option Group
  moved : Bool
  serial : Nat
  freeCtr : Nat
  deriving DecidableEq, Repr

/-! Reset values. -/

/-- CAPCTL after the staged start (R153). -/
def CapSt.reset : CapSt := { target := 64, pinq := 16, force := false, pending := false }

/-- TOKCTL (R180). -/
def TokSt.reset : TokSt :=
  { level := 0, tkcap := 2047, filling := false, head := none, headWait := 0, holds := false,
    claimFor := none, claims := 0, takeAt := 0 }

/-- A core at reset: slots FREE, every bank LIT (R61, R153); cells read 0 (log 7). -/
def Core.reset : Core :=
  { slots := [], layout := [], cells := [], banks := [], cap := CapSt.reset, dooms := [],
    tok := TokSt.reset, demands := [], pcTable := [], lastA := none, lastB := none, nextAccess := 0,
    tickets := [], reqs := [], holdCopy := false, landAt := none, late := [], openRecs := [], waiting := [], skew := 0 }

def StallCnt.zero : StallCnt := { slots := 0, issued := 0, tokwait := 0, engwait := 0, hung := 0 }

/-- A tile bank that is FREE. -/
def TileBank.reset : TileBank := { use := .free, tiles := [], lastGrant := 0, granted := false }

/-- A quad at reset: WAVE 16, SLOPE 8 (R186); OP0 at 950 mV (log 4). -/
def Quad.reset : Quad :=
  { table := [], banks := [TileBank.reset, TileBank.reset], lastB := [], wave := 16, slope := 8,
    op := 0, mV := 950, want := 0, mark := 0, cyc := 0, phase := 0, mailbox := [],
    stall := StallCnt.zero, snapshot := StallCnt.zero, snapAt := 0 }

/-- A die at reset: INJ 286 (R179), empty flits (R178). -/
def Die.reset : Die :=
  { flits := List.replicate 65 { tok := 0, cid := 0, cv := false }, inj := 286, injAt := 0,
    tasks := [], bins := [], joins := [] }

def Cerr.reset : Cerr :=
  { pc := 0, crew := 0, cause := 0, valid := false, count := 0, launch := 0, since := 0 }

/-- The control block of a new context (R330). -/
def Ccb.reset : Ccb :=
  { cerr := Cerr.reset, fqBase := 0, fqHead := 0, fqTail := 0, fqLog := 4, priv := false,
    replay := false, ckpti := 1, quant := 3, plock := false, wdlog := 26, qtBase := 0, nq := 0 }

def Firmware.reset : Firmware :=
  { image := 0, version := 3, standby := none, verified := false, booted := false, exported := false,
    quiesced := false, heldTails := [], ownerKeys := [], measured := [], log := [] }

def FieldData.reset : FieldData :=
  { claims := [], hungry := [], dooms := [], retrains := [], temperature := [], voltage := [],
    softErrors := [] }

def Session.reset : Session :=
  { attached := none, breaks := [], focus := none, stops := [], stopPc := 0, code := 0,
    pass := [], labels := [], ran := none, speaks := none, spent := 0, caps := [], capPrint := none, out := [] }

def Device.reset : Device :=
  { pkg := 0, start := { stage := .ready, failed := false },
    power := { state := .active, tolerance := 0, woken := false, stopped := 0, kept := [], heldTails := [], denied := [] },
    firmware := Firmware.reset, links := [], frames := { next := [], free := [] }, held := [], field := FieldData.reset,
    reports := [], session := Session.reset }

/-- A start stage hashes the next one into the measurement registers before it runs it (R340). -/
def Firmware.measure (f : Firmware) (stage : Nat) : Firmware :=
  { f with measured := f.measured ++ [Config.stageDigest f.image stage] }

/-- The package once it is READY. -/
def Device.ready : Device :=
  { Device.reset with firmware := (Firmware.reset.measure 1).measure 2 }

/-- The machine after reset and the staged start (log 5): READY, no context, nothing resident; the stages
have been measured (R340). -/
def State.reset : State :=
  { cycle := 0, cores := [], quads := [], dies := [], contexts := [], launches := [], blocks := [],
    globalMem := [], device := Device.ready, agenda := [], cur := none, moved := false, serial := 0, freeCtr := 0 }

end Sys2Proof.Machine
end

