-- ==== Sys2Proof/Machine/Tab.lean ====
section
/-! DEFINITION. Reading and writing sparse tables, memories and bit fields. -/

namespace Sys2Proof.Machine

/-- The value at a key. -/
def tget? {α : Type} : Tab α → Nat → Option α
  | [], _ => none
  | (k, v) :: t, i => if k = i then some v else if i < k then none else tget? t i

/-- The value at a key, or what an unlisted key holds. -/
def tget {α : Type} (d : α) (t : Tab α) (i : Nat) : α := (tget? t i).getD d

/-- Write a key, keeping the keys rising. -/
def tset {α : Type} : Tab α → Nat → α → Tab α
  | [], i, v => [(i, v)]
  | (k, w) :: t, i, v =>
    if k = i then (i, v) :: t else if i < k then (i, v) :: (k, w) :: t else (k, w) :: tset t i v

/-- Remove a key. -/
def tdel {α : Type} : Tab α → Nat → Tab α
  | [], _ => []
  | (k, w) :: t, i => if k = i then t else if i < k then (k, w) :: t else (k, w) :: tdel t i

/-- Change the value at a listed key. -/
def tmod {α : Type} (t : Tab α) (i : Nat) (f : α → α) : Tab α :=
  match tget? t i with
  | some v => tset t i (f v)
  | none => t

/-- Change every value. -/
def tmap {α : Type} (t : Tab α) (f : Nat → α → α) : Tab α := t.map fun (k, v) => (k, f k v)

/-- Words default to 0. -/
def wget (t : Tab Word) (i : Nat) : Word := tget 0 t i

/-- One byte of memory; an unlisted byte reads 0 (log 7). -/
def Memory.read (m : Mem) (a : Nat) : Byte := tget 0 m a

/-- Write one byte; writing 0 removes the entry. -/
def Memory.write (m : Mem) (a : Nat) (b : Byte) : Mem := if b = 0 then tdel m a else tset m a b

/-- The canonical form: addresses strictly rising, no byte 0 listed. -/
def Memory.wf : Mem → Bool
  | [] => true
  | [(_, b)] => decide (b ≠ 0)
  | (a, b) :: (a', b') :: m => decide (b ≠ 0) && decide (a < a') && Memory.wf ((a', b') :: m)

/-- Consecutive bytes, lowest address first. -/
def Memory.readN (m : Mem) (a : Nat) : Nat → List Byte
  | 0 => []
  | n + 1 => Memory.read m a :: Memory.readN m (a + 1) n

/-- Write consecutive bytes, lowest address first. -/
def Memory.writeN (m : Mem) (a : Nat) : List Byte → Mem
  | [] => m
  | b :: bs => Memory.writeN (Memory.write m a b) (a + 1) bs

/-- Little-endian value of bytes (R14, R39). -/
def leNat : List Byte → Nat
  | [] => 0
  | b :: bs => b.toNat + 256 * leNat bs

/-- The `n` little-endian bytes of a value. -/
def leBytes (v : Nat) : Nat → List Byte
  | 0 => []
  | n + 1 => BitVec.ofNat 8 v :: leBytes (v / 256) n

/-- A little-endian word of memory. -/
def Memory.readWord (m : Mem) (a : Nat) : Word := BitVec.ofNat 32 (leNat (Memory.readN m a 4))

/-- Bits [lo + len − 1 : lo] of a number. -/
def bitsOf (v lo len : Nat) : Nat := v / 2 ^ lo % 2 ^ len

/-- One bit of a number. -/
def bitOf (v i : Nat) : Bool := decide (v / 2 ^ i % 2 = 1)

/-- `v` with bits [lo + len − 1 : lo] replaced. -/
def setBits (v lo len x : Nat) : Nat :=
  v % 2 ^ lo + 2 ^ lo * (x % 2 ^ len) + 2 ^ (lo + len) * (v / 2 ^ (lo + len))

/-- Rounding up. -/
def ceilDiv (a b : Nat) : Nat := (a + b - 1) / b

/-- The first index in `[i, i + n)` with a property. -/
def findFrom (p : Nat → Bool) (i : Nat) : Nat → Option Nat
  | 0 => none
  | n + 1 => if p i then some i else findFrom p (i + 1) n

/-- Repeat a change. -/
def iter {α : Type} (f : α → α) : Nat → α → α
  | 0, a => a
  | n + 1, a => iter f n (f a)

/-- The lanes of a mask, ascending (N54). -/
def lanesOf (m : Mask) : List Nat := (List.range 64).filter fun l => m.getLsbD l

/-- The mask of one lane. -/
def laneBit (l : Nat) : Mask := BitVec.ofNat 64 (2 ^ l)

/-- The mask of a list of lanes. -/
def maskOf (ls : List Nat) : Mask := ls.foldl (fun m l => m ||| laneBit l) 0

/-- Lanes of `m` with a property. -/
def maskFilter (m : Mask) (p : Nat → Bool) : Mask := maskOf ((lanesOf m).filter p)

end Sys2Proof.Machine
end

