-- ==== Sys2Proof/Machine/Num.lean ====
section
/-! DEFINITION. Number formats and rounding (R38 to R50, R54). A finite value is a sign, a natural
significand `m` and an exponent: (−1)^neg × m × 2^e, exact. -/

namespace Sys2Proof.Machine

/-- A floating format (R38, R40): field sizes, bias, the largest finite magnitude, the infinity's
magnitude (0: none) and the canonical NaN. -/
structure FFmt where
  width : Nat
  ebits : Nat
  frac : Nat
  bias : Int
  maxBits : Nat
  infBits : Nat
  nan : Nat
  deriving DecidableEq, Repr

def F32 : FFmt := ⟨32, 8, 23, 127, 0x7F7FFFFF, 0x7F800000, 0x7FC00000⟩
def F16 : FFmt := ⟨16, 5, 10, 15, 0x7BFF, 0x7C00, 0x7E00⟩
def BF16 : FFmt := ⟨16, 8, 7, 127, 0x7F7F, 0x7F80, 0x7FC0⟩
def E4M3 : FFmt := ⟨8, 4, 3, 7, 0x7E, 0, 0x7F⟩
def E5M2 : FFmt := ⟨8, 5, 2, 15, 0x7B, 0x7C, 0x7E⟩

/-- The floating format of a code (R114); other codes read as F32. -/
def ffmtOf (code : Nat) : FFmt :=
  match code with
  | 1 => F16
  | 2 => BF16
  | 3 => E4M3
  | 4 => E5M2
  | _ => F32

/-- Width of an element format (R38, R114). -/
def fmtWidth (code : Nat) : Nat :=
  match code with
  | 0 | 5 | 6 => 32
  | 1 | 2 => 16
  | 9 => 4
  | _ => 8

/-- Signed integer formats. -/
def fmtSigned (code : Nat) : Bool := decide (code = 5 ∨ code = 7 ∨ code = 9)

/-- Floating formats. -/
def fmtFloat (code : Nat) : Bool := decide (code ≤ 4)

/-- Planes of a format (R41). -/
def fmtPlanes (code : Nat) : Nat :=
  match code with
  | 0 => 33
  | 1 | 2 => 17
  | 3 => 9
  | 4 => 10
  | 9 => 4
  | 5 | 6 => 32
  | _ => 8

/-- The smallest normal exponent, and the exponent of the subnormal grid. -/
def FFmt.emin (f : FFmt) : Int := 1 - f.bias
def FFmt.qmin (f : FFmt) : Int := f.emin - f.frac
/-- The sign bit. -/
def FFmt.sbit (f : FFmt) : Nat := 2 ^ (f.width - 1)

/-- A value of a floating format. -/
inductive FVal where
  | nan (signalling : Bool)
  | inf (neg : Bool)
  | fin (neg : Bool) (m : Nat) (e : Int)
  deriving DecidableEq, Repr

/-- The value of an encoding (R38, R40). -/
def fdec (f : FFmt) (bits : Nat) : FVal :=
  let b := bits % 2 ^ f.width
  let neg := decide (f.sbit ≤ b)
  let mag := b % f.sbit
  let e := mag / 2 ^ f.frac
  let fr := mag % 2 ^ f.frac
  if f.infBits = 0 then
    if mag = f.nan then .nan false
    else if e = 0 then .fin neg fr f.qmin else .fin neg (2 ^ f.frac + fr) (f.qmin + (e - 1 : Nat))
  else if e = 2 ^ f.ebits - 1 then
    if fr = 0 then .inf neg else .nan (decide (fr < 2 ^ (f.frac - 1)))
  else if e = 0 then .fin neg fr f.qmin else .fin neg (2 ^ f.frac + fr) (f.qmin + (e - 1 : Nat))

/-- Rounding modes (R23). -/
inductive RMode where
  | rn | rz | rm | rp
  deriving DecidableEq, Repr

def rmodeOf (ext : Nat) : RMode :=
  match ext with
  | 0 => .rn
  | 1 => .rz
  | 2 => .rm
  | _ => .rp

/-- Flag bits in the order of FPCTL (R51). -/
def NV : Nat := 1
def DZ : Nat := 2
def OF : Nat := 4
def UF : Nat := 8
def NX : Nat := 16

/-- A result with the flags it raises. -/
structure FR where
  bits : Nat
  flags : Nat
  deriving DecidableEq, Repr

/-- Union of flags. -/
def FR.also (r : FR) (fl : Nat) : FR := { r with flags := r.flags ||| fl }

/-- The natural number nearest to m × 2^(e − q) in the mode, and whether it is inexact (R43). -/
def roundAt (mode : RMode) (neg : Bool) (m : Nat) (e q : Int) : Nat × Bool :=
  if q ≤ e then (m * 2 ^ (e - q).toNat, false)
  else
    let d := 2 ^ (q - e).toNat
    let k := m / d
    let r := m % d
    if r = 0 then (k, false)
    else
      let up := match mode with
        | .rn => decide (d < 2 * r) || (decide (d = 2 * r) && decide (k % 2 = 1))
        | .rz => false
        | .rm => neg
        | .rp => !neg
      (if up then k + 1 else k, true)

/-- ⌊log2⌋ of a positive value (R43). -/
def dlog2 (m : Nat) (e : Int) : Int := (Nat.log2 m : Nat) + e

/-- What overflow delivers (R45). -/
def overflowBits (f : FFmt) (mode : RMode) (neg : Bool) : Nat :=
  let s := if neg then f.sbit else 0
  let toInf := match mode with
    | .rn => true
    | .rz => false
    | .rm => neg
    | .rp => !neg
  if toInf then (if f.infBits = 0 then f.nan else s + f.infBits) else s + f.maxBits

/-- Tininess after rounding (R49). -/
def isTiny (f : FFmt) (mode : RMode) (neg : Bool) (m : Nat) (e : Int) : Bool :=
  let el := dlog2 m e
  if f.emin ≤ el then false
  else
    let (k, _) := roundAt mode neg m e (el - f.frac)
    !(decide (k = 2 ^ (f.frac + 1)) && decide (el + 1 = f.emin))

/-- ROUND of a nonzero exact value (R43, R45, R46, R49). -/
def roundNZ (f : FFmt) (mode : RMode) (ftz sat : Bool) (neg : Bool) (m : Nat) (e : Int) : FR :=
  let s := if neg then f.sbit else 0
  let el := dlog2 m e
  let q := (if f.emin ≤ el then el else f.emin) - f.frac
  let (k, inexact) := roundAt mode neg m e q
  let bits := k + (q - f.qmin).toNat * 2 ^ f.frac
  if f.maxBits < bits then
    { bits := if sat then s + f.maxBits else overflowBits f mode neg, flags := OF ||| NX }
  else if isTiny f mode neg m e then
    if ftz then { bits := s, flags := UF ||| NX }
    else { bits := s + bits, flags := if inexact then UF ||| NX else 0 }
  else { bits := s + bits, flags := if inexact then NX else 0 }

/-- ROUND of an exact value; `zneg` is the sign of a zero. -/
def roundF (f : FFmt) (mode : RMode) (ftz : Bool) (neg : Bool) (m : Nat) (e : Int) (zneg : Bool) :
    FR :=
  if m = 0 then { bits := if zneg then f.sbit else 0, flags := 0 }
  else roundNZ f mode ftz false neg m e

/-- FLUSH of a source (R49). -/
def flush (f : FFmt) (ftz : Bool) (bits : Nat) : Nat :=
  let b := bits % 2 ^ f.width
  let mag := b % f.sbit
  if ftz && decide (0 < mag) && decide (mag < 2 ^ f.frac) then b - mag else b

/-- NV of a signalling NaN source (R48, R50). -/
def snan : FVal → Nat
  | .nan true => NV
  | _ => 0

/-- An exact signed dyadic sum. -/
def dsum (n1 : Bool) (m1 : Nat) (e1 : Int) (n2 : Bool) (m2 : Nat) (e2 : Int) : Bool × Nat × Int :=
  let e := if e1 ≤ e2 then e1 else e2
  let a := m1 * 2 ^ (e1 - e).toNat
  let b := m2 * 2 ^ (e2 - e).toNat
  if n1 = n2 then (n1, a + b, e)
  else if b ≤ a then (n1, a - b, e) else (n2, b - a, e)

/-- Sign of an exact zero sum (R43): that of both operands where they agree, else −0 in RM only. -/
def zeroSign (mode : RMode) (n1 n2 : Bool) : Bool :=
  if n1 = n2 then n1 else decide (mode = .rm)

/-- x + y over decoded values. -/
def addV (f : FFmt) (mode : RMode) (ftz : Bool) (x y : FVal) : FR :=
  match x, y with
  | .nan _, _ | _, .nan _ => { bits := f.nan, flags := snan x ||| snan y }
  | .inf a, .inf b =>
    if a = b then { bits := (if a then f.sbit else 0) + f.infBits, flags := 0 }
    else { bits := f.nan, flags := NV }
  | .inf a, .fin .. => { bits := (if a then f.sbit else 0) + f.infBits, flags := 0 }
  | .fin .., .inf b => { bits := (if b then f.sbit else 0) + f.infBits, flags := 0 }
  | .fin n1 m1 e1, .fin n2 m2 e2 =>
    let (n, m, e) := dsum n1 m1 e1 n2 m2 e2
    roundF f mode ftz n m e (if m1 = 0 ∧ m2 = 0 then zeroSign mode n1 n2 else decide (mode = .rm))

/-- Sign inversion. -/
def FVal.negate : FVal → FVal
  | .nan s => .nan s
  | .inf n => .inf (!n)
  | .fin n m e => .fin (!n) m e

/-- x × y + z with one rounding; `flt`: z is a genuine addend (FFMA), otherwise the product alone. -/
def fmaV (f : FFmt) (mode : RMode) (ftz : Bool) (x y z : FVal) : FR :=
  let inv := match x, y with
    | .inf _, .fin _ 0 _ | .fin _ 0 _, .inf _ => NV
    | _, _ => 0
  match x, y, z with
  | .nan _, _, _ | _, .nan _, _ => { bits := f.nan, flags := snan x ||| snan y ||| snan z ||| inv }
  | _, _, .nan _ => { bits := f.nan, flags := snan z ||| inv }
  | .fin n1 m1 e1, .fin n2 m2 e2, .fin n3 m3 e3 =>
    let np := n1 != n2
    let (n, m, e) := dsum np (m1 * m2) (e1 + e2) n3 m3 e3
    roundF f mode ftz n m e
      (if m1 * m2 = 0 ∧ m3 = 0 then zeroSign mode np n3 else decide (mode = .rm))
  | .fin .., .fin .., .inf b => { bits := (if b then f.sbit else 0) + f.infBits, flags := 0 }
  | a, b, z =>
    let np := (match a with | .inf n => n | .fin n _ _ => n | .nan _ => false)
      != (match b with | .inf n => n | .fin n _ _ => n | .nan _ => false)
    if inv ≠ 0 then { bits := f.nan, flags := NV }
    else match z with
      | .inf c => if c = np then { bits := (if np then f.sbit else 0) + f.infBits, flags := 0 }
        else { bits := f.nan, flags := NV }
      | _ => { bits := (if np then f.sbit else 0) + f.infBits, flags := 0 }

/-- x × y rounded into another format `g`; `sat` as R46. -/
def mulV (g : FFmt) (mode : RMode) (ftz sat : Bool) (x y : FVal) : FR :=
  match x, y with
  | .nan _, _ | _, .nan _ => { bits := g.nan, flags := snan x ||| snan y }
  | .inf _, .fin _ 0 _ | .fin _ 0 _, .inf _ => { bits := g.nan, flags := NV }
  | .fin n1 m1 e1, .fin n2 m2 e2 =>
    if m1 * m2 = 0 then { bits := if n1 != n2 then g.sbit else 0, flags := 0 }
    else roundNZ g mode ftz sat (n1 != n2) (m1 * m2) (e1 + e2)
  | a, b =>
    let np := (match a with | .inf n => n | .fin n _ _ => n | .nan _ => false)
      != (match b with | .inf n => n | .fin n _ _ => n | .nan _ => false)
    let s := if np then g.sbit else 0
    { bits := if sat then s + g.maxBits else if g.infBits = 0 then g.nan else s + g.infBits,
      flags := 0 }

/-- Order of two dyadics: −1, 0 or 1. -/
def dcmp (n1 : Bool) (m1 : Nat) (e1 : Int) (n2 : Bool) (m2 : Nat) (e2 : Int) : Int :=
  let (n, m, _) := dsum n1 m1 e1 (!n2) m2 e2
  if m = 0 then 0 else if n then -1 else 1

/-- Order of two values that are no NaN. -/
def vcmp (x y : FVal) : Int :=
  match x, y with
  | .inf a, .inf b => if a = b then 0 else if a then -1 else 1
  | .inf a, _ => if a then -1 else 1
  | _, .inf b => if b then 1 else -1
  | .fin n1 m1 e1, .fin n2 m2 e2 => dcmp n1 m1 e1 n2 m2 e2
  | _, _ => 0

/-- Sign bit of an encoding. -/
def isNeg (f : FFmt) (bits : Nat) : Bool := decide (f.sbit ≤ bits % 2 ^ f.width)

/-- minimumNumber and maximumNumber (R48). -/
def minmax (f : FFmt) (isMax : Bool) (ftz : Bool) (a b : Nat) : FR :=
  let a := flush f ftz a
  let b := flush f ftz b
  let x := fdec f a
  let y := fdec f b
  let fl := snan x ||| snan y
  match x, y with
  | .nan _, .nan _ => { bits := f.nan, flags := fl }
  | .nan _, _ => { bits := b, flags := fl }
  | _, .nan _ => { bits := a, flags := fl }
  | _, _ =>
    let c := vcmp x y
    let aLess := if c = 0 then isNeg f a && !isNeg f b else decide (c < 0)
    { bits := if aLess != isMax then a else b, flags := fl }

/-- FNEG and FABS (R110). -/
def negAbs (f : FFmt) (neg : Bool) (ftz : Bool) (a : Nat) : FR :=
  let a := flush f ftz a
  match fdec f a with
  | .nan s => { bits := f.nan, flags := if s then NV else 0 }
  | _ =>
    let mag := a % f.sbit
    { bits := if neg && !isNeg f a then f.sbit + mag else mag, flags := 0 }

/-- A condition code over an order (R106, R110). -/
def condHolds (cond : Nat) (c : Int) : Bool :=
  match cond with
  | 0 => decide (c = 0)
  | 1 => decide (c ≠ 0)
  | 2 => decide (c < 0)
  | 3 => decide (c ≤ 0)
  | 4 => decide (0 < c)
  | _ => decide (0 ≤ c)

/-- FSET (R48, R110). -/
def fset (f : FFmt) (cond : Nat) (ftz : Bool) (a b : Nat) : Bool × Nat :=
  let x := fdec f (flush f ftz a)
  let y := fdec f (flush f ftz b)
  match x, y with
  | .nan _, _ | _, .nan _ => (decide (cond = 1), snan x ||| snan y)
  | _, _ => (condHolds cond (vcmp x y), 0)

/-- FCLASS (R110). -/
def fclass (f : FFmt) (ftz : Bool) (a : Nat) : Nat :=
  let a := flush f ftz a
  let neg := isNeg f a
  match fdec f a with
  | .nan true => 256
  | .nan false => 512
  | .inf n => if n then 1 else 128
  | .fin _ m _ =>
    if m = 0 then (if neg then 8 else 16)
    else if m < 2 ^ f.frac then (if neg then 4 else 32)
    else if neg then 2 else 64

/-- FADD, FSUB, FMUL and FFMA of a format (R110, R113). -/
def fadd (f : FFmt) (mode : RMode) (ftz : Bool) (a b : Nat) : FR :=
  addV f mode ftz (fdec f (flush f ftz a)) (fdec f (flush f ftz b))
def fsub (f : FFmt) (mode : RMode) (ftz : Bool) (a b : Nat) : FR :=
  addV f mode ftz (fdec f (flush f ftz a)) (fdec f (flush f ftz b)).negate
def fmul (f : FFmt) (mode : RMode) (ftz : Bool) (a b : Nat) : FR :=
  mulV f mode ftz false (fdec f (flush f ftz a)) (fdec f (flush f ftz b))
def ffma (f : FFmt) (mode : RMode) (ftz : Bool) (a b d : Nat) : FR :=
  fmaV f mode ftz (fdec f (flush f ftz a)) (fdec f (flush f ftz b)) (fdec f (flush f ftz d))

/-- The exponent that FSCALEB adds, cut to ±1,000: beyond that every finite value of F32 overflows
or rounds as at the bound. -/
def scaleExp (b : Int) : Int := if b < -1000 then -1000 else if 1000 < b then 1000 else b

/-- FSCALEB (R110): RN(a × 2^S(b)). -/
def fscaleb (ftz : Bool) (a : Nat) (b : Int) : FR :=
  match fdec F32 (flush F32 ftz a) with
  | .nan s => { bits := F32.nan, flags := if s then NV else 0 }
  | .inf n => { bits := (if n then F32.sbit else 0) + F32.infBits, flags := 0 }
  | .fin n m e => roundF F32 .rn ftz n m (e + scaleExp b) n

/-- The range of an integer format. -/
def intMin (code : Nat) : Int := if fmtSigned code then -(2 ^ (fmtWidth code - 1) : Nat) else 0
def intMax (code : Nat) : Int :=
  if fmtSigned code then (2 ^ (fmtWidth code - 1) : Nat) - 1 else (2 ^ fmtWidth code : Nat) - 1

/-- The value of an integer element. -/
def intVal (code bits : Nat) : Int :=
  let b := bits % 2 ^ fmtWidth code
  if fmtSigned code && decide (2 ^ (fmtWidth code - 1) ≤ b) then (b : Int) - (2 ^ fmtWidth code : Nat)
  else b

/-- The low `w` bits of an integer. -/
def intBits (w : Nat) (v : Int) : Nat := (v % (2 ^ w : Nat)).toNat

/-- Clamp to a range. -/
def clampInt (lo hi v : Int) : Int := if v < lo then lo else if hi < v then hi else v

/-- CVT floating to floating (R43, R45, R46, R48). -/
def cvtFF (src dst : FFmt) (mode : RMode) (sat ftz : Bool) (a : Nat) : FR :=
  match fdec src (flush src ftz a) with
  | .nan s => { bits := dst.nan, flags := if s then NV else 0 }
  | .inf n =>
    let s := if n then dst.sbit else 0
    { bits := if sat then s + dst.maxBits else if dst.infBits = 0 then dst.nan else s + dst.infBits,
      flags := 0 }
  | .fin n m e =>
    if m = 0 then { bits := if n then dst.sbit else 0, flags := 0 }
    else roundNZ dst mode ftz sat n m e

/-- CVT floating to integer (R47). -/
def cvtFI (src : FFmt) (dst : Nat) (mode : RMode) (ftz : Bool) (a : Nat) : FR :=
  let out := fun (v : Int) => intBits (fmtWidth dst) v
  match fdec src (flush src ftz a) with
  | .nan _ => { bits := 0, flags := NV }
  | .inf n => { bits := out (if n then intMin dst else intMax dst), flags := NV }
  | .fin n m e =>
    let (k, inexact) := roundAt mode n m e 0
    let v : Int := if n then -(k : Int) else k
    let c := clampInt (intMin dst) (intMax dst) v
    if c ≠ v then { bits := out c, flags := NV }
    else { bits := out v, flags := if inexact then NX else 0 }

/-- CVT integer to floating (R43, R45). -/
def cvtIF (src : Nat) (dst : FFmt) (mode : RMode) (ftz : Bool) (a : Nat) : FR :=
  let v := intVal src a
  roundF dst mode ftz (decide (v < 0)) v.natAbs 0 false

/-- CVT integer to integer (R114). -/
def cvtII (src dst : Nat) (sat : Bool) (a : Nat) : FR :=
  let v := intVal src a
  { bits := intBits (fmtWidth dst) (if sat then clampInt (intMin dst) (intMax dst) v else v),
    flags := 0 }

/-- CVT (R114). -/
def cvt (src dst : Nat) (mode : RMode) (sat ftz : Bool) (a : Nat) : FR :=
  match fmtFloat src, fmtFloat dst with
  | true, true => cvtFF (ffmtOf src) (ffmtOf dst) mode sat ftz a
  | true, false => cvtFI (ffmtOf src) dst mode ftz a
  | false, true => cvtIF src (ffmtOf dst) mode ftz a
  | false, false => cvtII src dst sat a

/-- QNT (R116). -/
def qnt (dst : FFmt) (sat ftz : Bool) (a b : Nat) : FR :=
  mulV dst .rn ftz sat (fdec F32 (flush F32 ftz a)) (fdec F32 (flush F32 ftz b))

/-! The approximated functions (R54). Their exact value is enclosed in fixed point with 128
fractional bits; the implementation's bits stand where they meet the bound (log 3). -/

/-- ⌊√n⌋, one bit at a time from bit `k − 1`. -/
def isqrt (n : Nat) : Nat → Nat → Nat
  | 0, r => r
  | k + 1, r =>
    let t := r + 2 ^ k
    isqrt n k (if t * t ≤ n then t else r)

/-- 2^(x / 2^128) for x below 2^128, in fixed point: one square root per bit of x, from the top. -/
def exp2Frac (x : Nat) : Nat → Nat → Nat → Nat
  | 0, _, acc => acc
  | k + 1, root, acc =>
    let root' := isqrt (root * 2 ^ 128) 130 0
    exp2Frac x k root' (if bitOf x k then acc * root' / 2 ^ 128 else acc)

/-- 2^(x / 2^128), as significand and exponent. -/
def exp2Fix (x : Int) : Nat × Int :=
  let whole := x / (2 ^ 128 : Nat)
  let f := (x % (2 ^ 128 : Nat)).toNat
  (exp2Frac f 128 (2 * 2 ^ 128) (2 ^ 128), whole - 128)

/-- The fraction bits of log2 of x / 2^256, x in [2^256, 2^257), by repeated squaring. -/
def log2Frac : Nat → Nat → Nat → Nat
  | 0, _, acc => acc
  | k + 1, x, acc =>
    let y := x * x / 2 ^ 256
    if 2 ^ 257 ≤ y then log2Frac k (y / 2) (2 * acc + 1) else log2Frac k y (2 * acc)

/-- log2(m × 2^e) in units of 2^−128. -/
def log2Fix (m : Nat) (e : Int) : Int :=
  let l := Nat.log2 m
  ((l : Int) + e) * (2 ^ 128 : Nat) + (log2Frac 128 (m * 2 ^ 256 / 2 ^ l) 0 : Nat)

/-- log2(e) in units of 2^−128. -/
def log2e : Nat := 0x171547652b82fe1777d0ffda0d23a7d11

/-- The fixed-point value of m × 2^e in units of 2^−128, cut toward zero. -/
def toFix (m : Nat) (e : Int) : Nat :=
  if 0 ≤ e + 128 then m * 2 ^ (e + 128).toNat else m / 2 ^ (-(e + 128)).toNat

/-- The exact value of a function at a positive or signed finite argument, as sign, significand and
exponent. -/
def approxRef (fn : Config.ApproxFn) (neg : Bool) (m : Nat) (e : Int) : Bool × Nat × Int :=
  match fn with
  | .rcp => (neg, 2 ^ 160 / m, -160 - e)
  | .rsq =>
    let odd := decide (e % 2 ≠ 0)
    let m' := if odd then 2 * m else m
    let e' := if odd then e - 1 else e
    (false, isqrt (2 ^ 320 / m') 170 0, -160 - e' / 2)
  | .exp2 =>
    let x := min (toFix m (if e < 128 then e else 128)) (2000 * 2 ^ 128)
    let (k, q) := exp2Fix (if neg then -(x : Int) else x)
    (false, k, q)
  | .log2 =>
    let v := log2Fix m e
    (decide (v < 0), v.natAbs, -128)
  | .tanh =>
    let x := toFix m (if e < 128 then e else 128)
    if dlog2 m e < -40 then (neg, m, e)
    else if 64 * 2 ^ 128 ≤ x then (neg, 2 ^ 128, -128)
    else
      let (k, q) := exp2Fix ((2 * x * log2e / 2 ^ 128 : Nat) : Int)
      let ek := k * 2 ^ (q + 128).toNat
      (neg, (ek - 2 ^ 128) * 2 ^ 128 / (ek + 2 ^ 128), -128)

/-- The bound of R54, as a multiple of 2^e: ulps of the reference's grid, or absolutely. -/
def approxBound (fn : Config.ApproxFn) (m : Nat) (e : Int) : Nat × Int :=
  let el := dlog2 m e
  let q := (if F32.emin ≤ el then el else F32.emin) - F32.frac
  match fn with
  | .rcp | .rsq => (1, q)
  | .exp2 | .log2 => (2, q)
  | .tanh => (1, -22)

/-- An encoding lies within the bound of the reference. -/
def withinBound (fn : Config.ApproxFn) (c : Nat) (neg : Bool) (m : Nat) (e : Int) : Bool :=
  match fdec F32 c with
  | .fin n k q =>
    let (_, dm, de) := dsum n k q (!neg) m e
    let (bm, be) := approxBound fn m e
    decide (dcmp false dm de false bm be ≤ 0)
  | _ => false

/-- Exact cases of R54: no NX. -/
def approxExact (fn : Config.ApproxFn) (m : Nat) (e : Int) : Bool :=
  let pow2 := decide (m = 2 ^ Nat.log2 m)
  let el := dlog2 m e
  match fn with
  | .rcp => pow2 && decide (F32.emin ≤ -el) && decide (-el ≤ 127)
  | .rsq => pow2 && decide (el % 2 = 0)
  | .exp2 => decide (0 ≤ e) || decide (m % 2 ^ (-e).toNat = 0)
  | .log2 => pow2
  | .tanh => false

/-- An approximated result at a finite nonzero argument: the implementation's bits where they meet the bound, else the
nearest value; a tiny result is the exact one rounded to the subnormal grid (R43, R49); overflow, underflow and NX
(R45, R54). DESIGN CHOICE (log 68): a tiny result that is exact (FRCP of 2^127) raises UF with the NX of R54, where
R49 would have UF only of an inexact one. -/
def approxFin (fn : Config.ApproxFn) (ftz : Bool) (a : Nat) (neg : Bool) (m : Nat) (e : Int) : FR :=
  let (n, k, q) := approxRef fn neg m e
  let near := roundF F32 .rn ftz n k q n
  if near.flags &&& OF ≠ 0 then near
  else
    let exact := approxExact fn m e && (decide (k = 0) || !isTiny F32 .rn n k q)
    if exact then { near with flags := 0 }
    else
      let exactly := (roundF F32 .rn false n k q n).bits
      if decide (k ≠ 0) && isTiny F32 .rn n k q then
        { bits := if ftz then (if n then F32.sbit else 0) else exactly, flags := UF ||| NX }
      else
        let c := (Config.approx fn (BitVec.ofNat 32 a)).toNat
        { bits := if withinBound fn c n k q then c else exactly, flags := NX }

/-- The approximated functions with their special values (R54). -/
def approxF (fn : Config.ApproxFn) (ftz : Bool) (a : Nat) : FR :=
  let a := flush F32 ftz a
  let inf := F32.infBits
  let s := F32.sbit
  match fdec F32 a with
  | .nan sn => { bits := F32.nan, flags := if sn then NV else 0 }
  | .inf n =>
    match fn with
    | .rcp => { bits := if n then s else 0, flags := 0 }
    | .rsq | .log2 =>
      if n then { bits := F32.nan, flags := NV }
      else { bits := if fn = .rsq then 0 else inf, flags := 0 }
    | .exp2 => { bits := if n then 0 else inf, flags := 0 }
    | .tanh => { bits := (if n then s else 0) + 0x3F800000, flags := 0 }
  | .fin n m e =>
    if m = 0 then
      match fn with
      | .rcp | .rsq => { bits := (if n then s else 0) + inf, flags := DZ }
      | .log2 => { bits := s + inf, flags := DZ }
      | .exp2 => { bits := 0x3F800000, flags := 0 }
      | .tanh => { bits := if n then s else 0, flags := 0 }
    else if n && (decide (fn = .rsq) || decide (fn = .log2)) then { bits := F32.nan, flags := NV }
    else approxFin fn ftz a n m e

end Sys2Proof.Machine
end

