-- ==== Sys2Proof/Machine/Layout.lean ====
section
/-! DEFINITION. Descriptors (R131, R132), from coordinate to cell (R133 to R136), bit planes (R41),
bounds (R137), windows onto global memory (R149) and the placement search (R148, R154). -/

namespace Sys2Proof.Machine

/-- STATE codes (R131). -/
def EntrySt.code : EntrySt → Nat
  | .free => 0
  | .live => 1
  | .losing => 2
  | .lost => 3
  | .rebuild => 4

/-- The kinds (R129). -/
def Desc.isGlobal (d : Desc) : Bool := decide (d.kind = 3)
def Desc.isPlane (d : Desc) : Bool := decide (d.kind = 1)

/-- An entry nobody has made: every field at its reset value (R131). -/
def Desc.free : Desc :=
  { kind := 0, fmt := 0, ndim := 0, rank := 0, clampz := false, full := false, st := .free,
    space := 0, gpl := false, own := false, ext := [0, 0, 0, 0], banklog := 0, bank0 := 0, row0 := 0,
    nrows := 0, perm := 0, handler := 0, stride := [0, 0, 0], handle := 0 }

def Entry.free : Entry :=
  { desc := Desc.free, owner := .block 0, placing := none, rebuilder := none, revived := false,
    doomed := false, cleared := false, freeing := false }

/-- The descriptor in 256 bits (R131); the hardware fields are not taken from it. -/
def Desc.ofNat (n : Nat) : Desc :=
  let glob := decide (bitsOf n 0 2 = 3)
  { kind := bitsOf n 0 2, fmt := bitsOf n 2 4, ndim := bitsOf n 6 2, rank := bitsOf n 8 3,
    clampz := bitOf n 11, full := false, st := .free, space := bitsOf n 16 3, gpl := bitOf n 19,
    own := bitOf n 20,
    ext := [bitsOf n 32 16, bitsOf n 48 16, bitsOf n 64 16, bitsOf n 80 16],
    banklog := if glob then 0 else bitsOf n 96 3, bank0 := 0, row0 := 0, nrows := 0,
    perm := if glob then 0 else bitsOf n 128 28 + 2 ^ 28 * bitsOf n 160 14,
    handler := if glob then 0 else BitVec.ofNat 32 (bitsOf n 192 32),
    stride := if glob then [bitsOf n 96 32, bitsOf n 128 32, bitsOf n 160 32] else [0, 0, 0],
    handle := if glob then BitVec.ofNat 64 (bitsOf n 192 64) else 0 }

/-- The 256 bits of a descriptor as LTDAT reads them (R131). -/
def Desc.toNat (d : Desc) : Nat :=
  let w0 := d.kind + 2 ^ 2 * d.fmt + 2 ^ 6 * d.ndim + 2 ^ 8 * d.rank + 2 ^ 11 * d.clampz.toNat
    + 2 ^ 12 * d.full.toNat + 2 ^ 13 * d.st.code + 2 ^ 16 * d.space + 2 ^ 19 * d.gpl.toNat
    + 2 ^ 20 * d.own.toNat
  let ext := d.ext.getD 0 0 + 2 ^ 16 * d.ext.getD 1 0 + 2 ^ 32 * d.ext.getD 2 0
    + 2 ^ 48 * d.ext.getD 3 0
  let rest :=
    if d.isGlobal then
      d.stride.getD 0 0 + 2 ^ 32 * d.stride.getD 1 0 + 2 ^ 64 * d.stride.getD 2 0
        + 2 ^ 96 * d.handle.toNat
    else
      d.banklog + 2 ^ 3 * d.bank0 + 2 ^ 9 * d.row0 + 2 ^ 18 * d.nrows
        + 2 ^ 32 * (d.perm % 2 ^ 28) + 2 ^ 64 * (d.perm / 2 ^ 28) + 2 ^ 96 * d.handler.toNat
  w0 + 2 ^ 32 * ext + 2 ^ 96 * rest

/-- Number of dimensions. -/
def Desc.dims (d : Desc) : Nat := d.ndim + 1

/-- The extents in use. -/
def Desc.exts (d : Desc) : List Nat := d.ext.take d.dims

/-- Element width (R39) and element count E (R133). -/
def Desc.w (d : Desc) : Nat := fmtWidth d.fmt
def Desc.count (d : Desc) : Nat := d.exts.foldl (· * ·) 1

/-- Units of an entry, or of a window in plane form (R133, R134). -/
def Desc.units (d : Desc) : Nat :=
  if d.isPlane || d.gpl then ceilDiv d.count 256 * fmtPlanes d.fmt else ceilDiv (d.count * d.w) 256

/-- The rows an entry needs in each bank of its set (R133). -/
def Desc.needRows (d : Desc) : Nat := ceilDiv d.units (2 ^ d.banklog)

/-- Row-major linear index of a coordinate (R133). -/
def linear (exts cs : List Nat) : Nat :=
  (exts.zip cs).foldl (fun acc (e, c) => acc * e + c) 0

/-- The coordinate of a linear index. -/
def coordOf (exts : List Nat) (l : Nat) : List Nat :=
  (exts.foldr (fun e (acc : List Nat × Nat) => (acc.2 % e :: acc.1, acc.2 / e)) ([], l)).1

/-- Selector j of PERM (R135): EN, DIM, BIT. -/
def Desc.sel (d : Desc) (j : Nat) : Bool × Nat × Nat :=
  let s := bitsOf d.perm (7 * j) 7
  (bitOf s 6, bitsOf s 4 2, bitsOf s 0 4)

/-- A selector is valid (R135). -/
def Desc.selOk (d : Desc) (j : Nat) : Bool :=
  decide (bitsOf d.perm (7 * j) 7 = 0)
    || ((d.sel j).1 && decide ((d.sel j).2.1 ≤ d.ndim) && decide (j < d.banklog))

/-- Reserved bits of a descriptor (R131). -/
def descReservedOk (n : Nat) : Bool :=
  decide (bitsOf n 21 11 = 0)
    && (decide (bitsOf n 0 2 = 3)
      || (decide (bitsOf n 123 5 = 0) && decide (bitsOf n 156 4 = 0) && decide (bitsOf n 174 18 = 0)
          && decide (bitsOf n 224 32 = 0)))

/-- A PC is in the code space (R18). -/
def inCode (base size pc : Nat) : Bool := decide (base ≤ pc) && decide (pc + 4 ≤ base + size)

/-- CHECK (R132): the number of the first condition that fails. `glob`: for MAPG. -/
def descCheck (glob : Bool) (codeBase codeSize n : Nat) : Option Nat :=
  let d := Desc.ofNat n
  let scale := decide (d.kind = 2)
  if !descReservedOk n then some 1
  else if d.isGlobal != glob then some 2
  else if !(decide (d.fmt ≤ 9) && (!scale || (decide (d.fmt = 0) && decide (d.ndim = 0)))) then some 3
  else if !((d.ext.take d.dims).all (fun e => decide (1 ≤ e))
      && (d.ext.drop d.dims).all (fun e => decide (e = 0))) then some 4
  else if !glob && !(decide (d.space = 0) && !d.gpl && decide (d.banklog ≤ 6)
      && (List.range 6).all d.selOk && decide (d.handler.toNat % 4 = 0)
      && inCode codeBase codeSize d.handler.toNat) then some 5
  else if glob && !(decide (1 ≤ d.space ∧ d.space ≤ 5) && decide (d.rank = 0)
      && (!d.gpl || decide (d.space ≠ 1))
      && (d.stride.drop d.ndim).all (fun s => decide (s = 0))) then some 6
  else if !glob && decide (384 < d.needRows) then some 7
  else none

/-- Index of the first element of unit u, or of its run in plane form (R133). -/
def Desc.firstOf (d : Desc) (u : Nat) : Nat :=
  if d.isPlane || d.gpl then u / fmtPlanes d.fmt * 256 else u * 256 / d.w

/-- Bank and row of unit u (R133, R135). -/
def Desc.cellOf (d : Desc) (u : Nat) : Nat × Nat :=
  let c := coordOf d.exts (d.firstOf u)
  let pm := (List.range 6).foldl (fun acc j =>
    let (en, dim, bit) := d.sel j
    if en && bitOf (c.getD dim 0) bit then acc + 2 ^ j else acc) 0
  (d.bank0 + ((u % 2 ^ d.banklog) ^^^ pm), d.row0 + u / 2 ^ d.banklog)

/-- Byte address of a cell in a core's scratchpad. -/
def cellAddr (bank row : Nat) : Nat := (bank * 384 + row) * 32

/-- Byte address of unit u of a scratchpad entry. -/
def Desc.unitAddr (d : Desc) (u : Nat) : Nat := cellAddr (d.cellOf u).1 (d.cellOf u).2

/-- The first unit and the bit position of element L (R133). -/
def Desc.posOf (d : Desc) (l : Nat) : Nat × Nat :=
  if d.isPlane || d.gpl then (l / 256 * fmtPlanes d.fmt, l % 256) else (l * d.w / 256, l * d.w % 256)

/-- Plane j of an element (R41). -/
def planeBit (fmt bits j : Nat) : Bool :=
  if fmtFloat fmt then
    let f := ffmtOf fmt
    if j = 0 then bitOf bits (f.width - 1)
    else if j ≤ f.ebits then bitOf bits (f.frac + f.ebits - j)
    else if j = f.ebits + 1 then decide (bitsOf bits f.frac f.ebits ≠ 0)
    else if j ≤ f.ebits + 1 + f.frac then bitOf bits (f.ebits + f.frac + 1 - j)
    else false
  else bitOf bits (fmtWidth fmt - 1 - j)

/-- The element with the given planes (R41, R134). -/
def fromPlanes (fmt : Nat) (p : Nat → Bool) : Nat :=
  if fmtFloat fmt then
    let f := ffmtOf fmt
    (List.range (f.frac + f.ebits + 1)).foldl (fun acc i =>
      let j := if i < f.frac then f.ebits + f.frac + 1 - i
        else if i < f.frac + f.ebits then f.frac + f.ebits - i else 0
      acc + 2 ^ i * (p j).toNat) 0
  else
    (List.range (fmtWidth fmt)).foldl (fun acc i => acc + 2 ^ i * (p (fmtWidth fmt - 1 - i)).toNat) 0

/-- `w` bits at bit position `b` of the bytes at `a`: whole bytes, or one nibble (R39). -/
def readBits (m : Mem) (a b w : Nat) : Nat :=
  if w < 8 then bitsOf (Memory.read m (a + b / 8)).toNat (b % 8) w
  else leNat (Memory.readN m (a + b / 8) (w / 8))

/-- Write them; no other bit changes (R140). -/
def writeBits (m : Mem) (a b w v : Nat) : Mem :=
  if w < 8 then
    let old := (Memory.read m (a + b / 8)).toNat
    Memory.write m (a + b / 8) (BitVec.ofNat 8 (setBits old (b % 8) w v))
  else Memory.writeN m (a + b / 8) (leBytes v (w / 8))

/-- Element L of a tensor whose unit u stands at `addr u` (R133, R134). -/
def readElemAt (m : Mem) (addr : Nat → Nat) (plane : Bool) (fmt l : Nat) : Nat :=
  let w := fmtWidth fmt
  if plane then
    let u := l / 256 * fmtPlanes fmt
    fromPlanes fmt fun j => bitOf (Memory.read m (addr (u + j) + l % 256 / 8)).toNat (l % 8)
  else readBits m (addr (l * w / 256)) (l * w % 256) w

/-- Write one plane's bit. -/
def writePlanes (m : Mem) (addr : Nat → Nat) (fmt l v u : Nat) : Nat → Mem
  | 0 => m
  | j + 1 =>
    let m := writePlanes m addr fmt l v u j
    let a := addr (u + j) + l % 256 / 8
    let old := (Memory.read m a).toNat
    Memory.write m a (BitVec.ofNat 8 (setBits old (l % 8) 1 (planeBit fmt v j).toNat))

/-- Write element L. -/
def writeElemAt (m : Mem) (addr : Nat → Nat) (plane : Bool) (fmt l v : Nat) : Mem :=
  let w := fmtWidth fmt
  if plane then writePlanes m addr fmt l v (l / 256 * fmtPlanes fmt) (fmtPlanes fmt)
  else writeBits m (addr (l * w / 256)) (l * w % 256) w v

/-- A coordinate is in bounds (R137). -/
def Desc.inBounds (d : Desc) (c : List Nat) : Bool :=
  (d.exts.zip c).all fun (e, x) => decide (x < e)

/-- The first dimension out of bounds. -/
def Desc.badDim (d : Desc) (c : List Nat) : Nat :=
  ((d.exts.zip c).findIdx? fun (e, x) => decide (e ≤ x)).getD 0

/-- An element of a scratchpad entry in the core's cells. -/
def Desc.readElem (d : Desc) (m : Mem) (c : List Nat) : Nat :=
  readElemAt m d.unitAddr d.isPlane d.fmt (linear d.exts c)
def Desc.writeElem (d : Desc) (m : Mem) (c : List Nat) (v : Nat) : Mem :=
  writeElemAt m d.unitAddr d.isPlane d.fmt (linear d.exts c) v

/-- The coordinate with its innermost dimension moved on. -/
def bumpInner (c : List Nat) (j : Nat) : List Nat := c.dropLast ++ [c.getLastD 0 + j]

/-! Windows (R131, R149). Global memory is keyed by handle × 2^48 + byte offset. -/

/-- Key of a byte of global memory. -/
def gaddr (h : BitVec 64) (off : Nat) : Nat := h.toNat * 2 ^ 48 + off

/-- Bit offset of a coordinate in a window of element form. -/
def Desc.bitOff (d : Desc) (c : List Nat) : Nat :=
  8 * ((d.stride.zip (c.take d.ndim)).foldl (fun acc (s, x) => acc + s * x) 0) + c.getLastD 0 * d.w

/-- The span of a window in bytes (R149), which must lie in its allocation. -/
def Desc.span (d : Desc) : Nat :=
  (d.stride.zip (d.exts.take d.ndim)).foldl (fun acc (s, e) => acc + s * (e - 1)) 0
    + ceilDiv (d.exts.getLastD 0 * d.w) 8

/-- The bytes that a window reaches: a window in plane form holds its units one after another (log 9). -/
def Desc.reach (d : Desc) : Nat := if d.gpl then 32 * d.units else d.span

/-- An element of a window. -/
def Desc.readGlobal (d : Desc) (m : Mem) (c : List Nat) : Nat :=
  if d.gpl then readElemAt m (fun u => gaddr d.handle (32 * u)) true d.fmt (linear d.exts c)
  else readBits m (gaddr d.handle 0) (d.bitOff c) d.w
def Desc.writeGlobal (d : Desc) (m : Mem) (c : List Nat) (v : Nat) : Mem :=
  if d.gpl then writeElemAt m (fun u => gaddr d.handle (32 * u)) true d.fmt (linear d.exts c) v
  else writeBits m (gaddr d.handle 0) (d.bitOff c) d.w v

/-! Capacity counts and placement (R148, R154). -/

/-- Cells are being placed for the entry. -/
def Entry.reserved (e : Entry) : Bool := e.placing.isSome

/-- First bank and row of the entry's cells, or of those being placed. -/
def Entry.spot (e : Entry) : Nat × Nat := e.placing.getD (e.desc.bank0, e.desc.row0)

/-- A live entry (R154): LIVE, being placed by an ALLOC, or revived in REBUILD with no doom pending (R158). -/
def Entry.isLive (e : Entry) : Bool :=
  !e.desc.isGlobal && (decide (e.desc.st = .live) || (e.reserved && decide (e.desc.st ≠ .rebuild))
    || (decide (e.desc.st = .rebuild) && e.revived && !e.doomed))

/-- An entry that holds cells: a live one, one whose cells have not gone yet, or one that is being revived. -/
def Entry.holdsCells (e : Entry) : Bool :=
  e.isLive || (!e.desc.isGlobal
    && (decide (e.desc.st = .losing) || (decide (e.desc.st = .rebuild) && (e.revived || e.reserved))))

/-- The entry touches a bank (R154). -/
def Entry.touches (e : Entry) (b : Nat) : Bool :=
  decide (e.desc.nrows ≠ 0) && decide (e.spot.1 ≤ b) && decide (b < e.spot.1 + 2 ^ e.desc.banklog)

/-- The state of a bank; unlisted banks are LIT (R153). -/
def Core.bank (c : Core) (b : Nat) : BankSt := tget .lit c.banks b

/-- Every bank number. -/
def allBanks : List Nat := List.range 64

def isWaking : BankSt → Bool
  | .waking _ => true
  | _ => false

/-- The counts of R154. -/
def Core.nLit (c : Core) : Nat := (allBanks.filter fun b => decide (c.bank b = .lit)).length
def Core.nWaking (c : Core) : Nat := (allBanks.filter fun b => isWaking (c.bank b)).length
def Core.nDoomed (c : Core) : Nat := (allBanks.filter fun b => decide (c.bank b = .doomed)).length
def Core.pinnedBank (c : Core) (b : Nat) : Bool :=
  c.layout.any fun (_, e) => e.isLive && decide (e.desc.rank = 7) && e.touches b
def Core.nPinned (c : Core) : Nat := (allBanks.filter c.pinnedBank).length
def Core.freeLitBank (c : Core) (b : Nat) : Bool :=
  decide (c.bank b = .lit) && !c.layout.any fun (_, e) => e.isLive && e.touches b
def Core.nFreeLit (c : Core) : Nat := (allBanks.filter c.freeLitBank).length
def Core.nShort (c : Core) : Nat := c.nLit + c.nWaking - c.cap.target

/-- Rows [r, r + n) of a bank are free. -/
def Core.rowsFree (c : Core) (b r n : Nat) : Bool :=
  !c.layout.any fun (_, e) => e.holdsCells && e.touches b
    && decide (r < e.spot.2 + e.desc.nrows) && decide (e.spot.2 < r + n)

/-- Banks of a set not yet counted in PINNED. -/
def Core.newPins (c : Core) (b0 k : Nat) : Nat :=
  ((List.range (2 ^ k)).filter fun i => !c.pinnedBank (b0 + i)).length

/-- PINQUOTA allows the set (R148). -/
def Core.pinOk (c : Core) (b0 k rank : Nat) : Bool :=
  decide (rank ≠ 7) || decide (c.nPinned + c.newPins b0 k ≤ c.cap.pinq)

/-- A row at which every bank of the set has room. -/
def Core.rowFor (c : Core) (b0 k n : Nat) : Option Nat :=
  findFrom (fun r => (List.range (2 ^ k)).all fun i => c.rowsFree (b0 + i) r n) 0 (385 - n)

/-- Banks that could still be had (R168): free lit ones and those the target lets be lit. -/
def Core.spare (c : Core) : Nat := c.nFreeLit + (c.cap.target - (c.nLit + c.nWaking))

/-- A set leaves the `claimed` banks of other crews to be had, or takes none of them (R168). -/
def Core.claimOk (c : Core) (b0 k claimed : Nat) : Bool :=
  let uses := ((List.range (2 ^ k)).filter fun i =>
    c.freeLitBank (b0 + i) || decide (c.bank (b0 + i) = .dark)).length
  decide (uses = 0) || decide (claimed + uses ≤ c.spare)

/-- A set may be chosen for a rank beside the claims of other crews (R148, R168). -/
def Core.setOk (c : Core) (b0 k rank claimed : Nat) : Bool :=
  c.pinOk b0 k rank && c.claimOk b0 k claimed

/-- Sets of LIT banks (R148 steps 1 and 2). -/
def Core.findLit (c : Core) (k n rank claimed : Nat) : Option (Nat × Nat) :=
  (List.range (64 / 2 ^ k)).findSome? fun j =>
    let b0 := j * 2 ^ k
    if (List.range (2 ^ k)).all (fun i => decide (c.bank (b0 + i) = .lit)) && c.setOk b0 k rank claimed
    then (c.rowFor b0 k n).map fun r => (b0, r) else none

/-- Sets whose DARK banks may be lit within the target (R148 step 3). DESIGN CHOICE (log 70): a set may also hold banks
that are WAKING already; R148 speaks of LIT and DARK ones. -/
def Core.findDark (c : Core) (k n rank claimed : Nat) : Option (Nat × Nat) :=
  (List.range (64 / 2 ^ k)).findSome? fun j =>
    let b0 := j * 2 ^ k
    let sts := (List.range (2 ^ k)).map fun i => c.bank (b0 + i)
    let dark := (sts.filter fun s => decide (s = .dark)).length
    if sts.all (fun s => decide (s = .lit) || decide (s = .dark) || isWaking s)
      && decide (c.nLit + c.nWaking + dark ≤ c.cap.target) && c.setOk b0 k rank claimed
    then (c.rowFor b0 k n).map fun r => (b0, r) else none

/-- FIND (R148): bank, row, and whether DARK banks must be lit. -/
def Core.find (c : Core) (k n rank claimed : Nat) : Option (Nat × Nat × Bool) :=
  match c.findLit k n rank claimed with
  | some (b, r) => some (b, r, false)
  | none => (c.findDark k n rank claimed).map fun (b, r) => (b, r, true)

/-- Zero every cell of a placement (R147). -/
def zeroCells (m : Mem) (b0 k r n : Nat) : Mem :=
  m.filter fun (a, _) =>
    let bank := a / 32 / 384
    let row := a / 32 % 384
    !(decide (b0 ≤ bank) && decide (bank < b0 + 2 ^ k) && decide (r ≤ row) && decide (row < r + n))

/-- LTQ's word (R151). -/
def Entry.ltqWord (e : Entry) : Word :=
  let d := e.desc
  if d.st = .free then 0
  else BitVec.ofNat 32 (d.st.code + 8 * d.full.toNat + 16 * d.rank + 2 ^ 7 * d.kind
    + 2 ^ 9 * d.clampz.toNat + 2 ^ 10 * d.own.toNat
    + (if d.isGlobal then 0 else 2 ^ 16 * d.bank0 + 2 ^ 22 * d.banklog))

end Sys2Proof.Machine
end

