-- ==== Sys2Proof/Machine/Ops.lean ====
section
/-! DEFINITION. The named operations over registers, crews, barriers, tickets and records; killing a
crew (R35); taking a trap and returning from it (R307, R309, R311). -/

namespace Sys2Proof.Machine

/-! ## Units -/

def State.core (s : State) (c : Nat) : Core := tget Core.reset s.cores c
def State.setCore (s : State) (c : Nat) (x : Core) : State := { s with cores := tset s.cores c x }
def State.modCore (s : State) (c : Nat) (f : Core → Core) : State := s.setCore c (f (s.core c))
def State.quad (s : State) (q : Nat) : Quad := tget Quad.reset s.quads q
def State.modQuad (s : State) (q : Nat) (f : Quad → Quad) : State :=
  { s with quads := tset s.quads q (f (s.quad q)) }
def State.die (s : State) (d : Nat) : Die := tget Die.reset s.dies d
def State.modDie (s : State) (d : Nat) (f : Die → Die) : State :=
  { s with dies := tset s.dies d (f (s.die d)) }
def State.modLaunch (s : State) (l : Nat) (f : Launch → Launch) : State :=
  { s with launches := tmod s.launches l f }
def State.modBlock (s : State) (b : Nat) (f : Block → Block) : State :=
  { s with blocks := tmod s.blocks b f }

/-- A context nobody has made. -/
def Context.empty : Context :=
  { codeBase := 0, codeSize := 0, code := [], ccb := Ccb.reset, queues := [], allocs := [],
    reserved := [], saved := [], savedTiles := [], ckpts := [], replaying := Option.none, log := [],
    journal := [], journalKeys := [], ckptAsked := false, killed := false }

def State.context (s : State) (i : Nat) : Context := tget Context.empty s.contexts i
def State.modContext (s : State) (i : Nat) (f : Context → Context) : State :=
  { s with contexts := tmod s.contexts i f }

/-- Quad and die of a core (R101). -/
def quadOf (core : Nat) : Nat := core / 4
def dieOf (core : Nat) : Nat := core / 64

/-- A fresh serial number. -/
def State.bump (s : State) : State := { s with serial := s.serial + 1 }

/-! ## Time (R103, R178, R188) -/

/-- Quad cycles in 42 fabric cycles at an operating point: 1.05 GHz × k / 42 (R188). -/
def opRate (op : Nat) : Nat := [42, 38, 34, 30, 26, 22, 19, 16].getD op 42

/-- Fabric cycles for which the clocks have run (R342). -/
def State.ran (s : State) : Nat := s.cycle - s.device.power.stopped

/-- The clocks of the cores run: they are gated in IDLE, and the cores have no power in DOZE (R342). -/
def State.clocked (s : State) : Bool :=
  decide (s.device.power.state ≠ .idle) && decide (s.device.power.state ≠ .doze)

/-- Cycles of a quad's clock since package reset, without those for which it was stopped (R101 CYC). -/
def State.quadCycle (s : State) (q : Nat) : Nat :=
  let qd := s.quad q
  qd.cyc + (qd.phase + (s.ran - qd.mark) * opRate qd.op) / 42

def State.coreCycle (s : State) (c : Nat) : Nat := s.quadCycle (quadOf c)

/-- The package reference: ns at 1.05 GHz fabric cycles (R178). -/
def State.tick (s : State) : Nat := 20 * s.cycle / 21

/-- TICK as a core reads it: the reference with the core's fixed offset of at most 8 (R103). -/
def State.coreTick (s : State) (c : Nat) : Nat := s.tick + (s.core c).skew

/-! ## Registers of a thread (R20, R30, R364). Keys: the operand code itself, 512 + i for p_i. -/

/-- Key of a predicate. -/
def pKey (p : PIdx) : Nat := 512 + p.toNat

/-- An s register's key. -/
def isSKey (k : Nat) : Bool := decide (256 ≤ k) && decide (k < 512)

/-- The settled value of a register. -/
def Thread.base (t : Thread) (k : Nat) : Word := if isSKey k then wget t.sview k else wget t.regs k

/-- Settle a value. -/
def Thread.setBase (t : Thread) (k : Nat) (v : Word) : Thread :=
  if isSKey k then { t with sview := tset t.sview k v } else { t with regs := tset t.regs k v }

/-- A result at a completion point: no older write of the register comes after it (R31). -/
def Thread.put (t : Thread) (k : Nat) (v : Word) : Thread :=
  { t with pend := t.pend.filter fun p => decide (p.key ≠ k) }.setBase k v

/-- The newest write of a key whose latency has passed and whose value is there. -/
def newestReady (k : Nat) : List Pend → Option Word
  | [] => none
  | p :: ps =>
    match newestReady k ps with
    | some v => some v
    | none => if p.key = k ∧ p.left = 0 ∧ p.due = none then some p.val else none

/-- What a read returns (R30). -/
def Thread.read (t : Thread) (k : Nat) : Word := (newestReady k t.pend).getD (t.base k)

/-- A source is early (R30). -/
def Thread.early (t : Thread) (k : Nat) : Bool :=
  t.pend.any fun p => decide (p.key = k) && decide (0 < p.left)

/-- A register or pair of an operand code. -/
def Thread.reg (t : Thread) (c : RegCode) : Word := t.read c.toNat
def Thread.pair (t : Thread) (c : RegCode) : Nat :=
  (t.read c.toNat).toNat + 2 ^ 32 * (t.read (c.toNat + 1)).toNat

/-- A predicate. -/
def Thread.pred (t : Thread) (p : PIdx) : Bool := decide (t.read (pKey p) ≠ 0)

/-- GUARD(t) (N55, R19). -/
def Thread.guard (t : Thread) (h : Hdr) : Bool := !h.ge || (t.pred h.gp != h.gn)

/-- A write at a latency. -/
def Thread.write (t : Thread) (k : Nat) (v : Word) (lat : Nat) : Thread :=
  { t with pend := t.pend ++ [{ key := k, left := lat, val := v, due := none }] }

/-- A write at a latency whose value a thread access brings (R29). -/
def Thread.await (t : Thread) (k : Nat) (serial lat : Nat) : Thread :=
  { t with pend := t.pend ++ [{ key := k, left := lat, val := 0, due := some serial }] }

/-- A value that could be read by now has not come from its bank: the core delays the thread (R140). -/
def Thread.awaits (t : Thread) : Bool := t.pend.any fun p => decide (p.left = 0) && p.due.isSome

/-- Move writes whose latency has passed and whose value is there, and that no older write still precedes, to their
registers. -/
def settle (t : Thread) : List Pend → List Pend → Thread
  | [], kept => { t with pend := kept.reverse }
  | p :: ps, kept =>
    if p.left = 0 ∧ p.due = none ∧ kept.all (fun q => decide (q.key ≠ p.key)) then
      settle (t.setBase p.key p.val) ps kept
    else settle t ps (p :: kept)

/-- A thread access brings its values: `vals` by key (R29). -/
def Thread.arrive (t : Thread) (serial : Nat) (vals : Tab Word) : Thread :=
  settle t (t.pend.map fun p => if p.due = some serial then { p with val := wget vals p.key, due := none } else p) []

/-- The passing of `n` of issue distance (R28 to R30). -/
def Thread.age (t : Thread) (n : Nat) : Thread :=
  let ps := t.pend.map fun p => { p with left := p.left - n }
  settle { t with ctlPend := (t.ctlPend.map fun (k, l) => (k, l - n)).filter fun (_, l) => decide (l ≠ 0) }
    ps []

/-- A completion point (R31, R364): no latency is outstanding, and the thread sees the crew's s registers. -/
def Thread.complete (t : Thread) (sregs : Tab Word) : Thread :=
  { settle t (t.pend.map fun p => { p with left := 0 }) [] with sview := sregs, ctlPend := [] }

/-! ## Crews -/

def Core.crew? (c : Core) (slot : Nat) : Option Crew := tget? c.slots slot
def State.crew? (s : State) (core slot : Nat) : Option Crew := (s.core core).crew? slot
def State.modCrew (s : State) (core slot : Nat) (f : Crew → Crew) : State :=
  s.modCore core fun c => { c with slots := tmod c.slots slot f }
def Crew.thread? (k : Crew) (lane : Nat) : Option Thread := tget? k.threads lane
def Crew.modThread (k : Crew) (lane : Nat) (f : Thread → Thread) : Crew :=
  { k with threads := tmod k.threads lane f }
def State.modThread (s : State) (core slot lane : Nat) (f : Thread → Thread) : State :=
  s.modCrew core slot fun k => k.modThread lane f

/-- Change every thread of a lane set. -/
def Crew.modLanes (k : Crew) (m : Mask) (f : Nat → Thread → Thread) : Crew :=
  { k with threads := tmap k.threads (fun l t => if m.getLsbD l then f l t else t) }
def State.modLanes (s : State) (core slot : Nat) (m : Mask) (f : Nat → Thread → Thread) : State :=
  s.modCrew core slot fun k => k.modLanes m f

/-- Change every thread of a crew, every crew of a core. -/
def Crew.mapThreads (k : Crew) (f : Nat → Thread → Thread) : Crew :=
  { k with threads := tmap k.threads f }
def Core.mapCrews (c : Core) (f : Nat → Crew → Crew) : Core := { c with slots := tmap c.slots f }

def Thread.live (t : Thread) : Bool := decide (t.st ≠ .retired)
def Crew.lanesWhere (k : Crew) (p : Thread → Bool) : Mask :=
  maskOf ((k.threads.filter fun (_, t) => p t).map (·.1))
def Crew.live (k : Crew) : Mask := k.lanesWhere Thread.live

/-- Threads that a crew-collective instruction or a loop end of a lane concerns (R70, R166, R310). -/
def Crew.scope (k : Crew) (lane : Nat) : Mask :=
  if k.trap.handling && k.trap.hact.getLsbD lane then k.live &&& k.trap.hact else k.live

/-- Lowest lane of a set. -/
def lowLane (m : Mask) : Nat := ((lanesOf m).head?).getD 0

/-- The control registers a thread reads: its own writes within their latency are not there yet;
those of another group are (R52, R104, log 12). -/
def Ctl.apply (c : Ctl) : CtlOp → Ctl
  | .fpSet v => { c with fpctl := v }
  | .fpOr v => { c with fpctl := c.fpctl ||| v }
  | .ltsel v => { c with ltsel := v }
  | .tmask v => { c with tmask := v }
  | .handler cls pc => { c with handlers := c.handlers.set cls pc }

def Crew.ctlOf (k : Crew) (t : Thread) : Ctl :=
  k.ctlLog.foldl (fun c (n, op) => if (tget? t.ctlPend n).isSome then c else c.apply op) k.ctl

/-- The control registers as the lowest lane of a set reads them. -/
def Crew.ctlAt (k : Crew) (m : Mask) : Ctl :=
  match k.thread? (lowLane m) with
  | some t => k.ctlOf t
  | none => k.ctl

/-- Fold the oldest control writes that no thread still waits for. -/
def foldCtl (busy : Nat → Bool) (c : Ctl) : List (Nat × CtlOp) → Ctl × List (Nat × CtlOp)
  | [] => (c, [])
  | (n, op) :: r => if busy n then (c, (n, op) :: r) else foldCtl busy (c.apply op) r

def Crew.tidyCtl (k : Crew) : Crew :=
  let (c, log) := foldCtl
    (fun n => k.threads.any fun (_, t) => t.live && (tget? t.ctlPend n).isSome) k.ctl k.ctlLog
  { k with ctl := c, ctlLog := log }

/-- A control write of a group's threads at a latency. -/
def Crew.writeCtl (k : Crew) (m : Mask) (op : CtlOp) (lat serial : Nat) : Crew :=
  let k := { k with ctlLog := k.ctlLog ++ [(serial, op)] }
  k.modLanes m fun _ t => { t with ctlPend := tset t.ctlPend serial lat }

/-- A write of an s register by a group: the crew's value changes in issue order, each thread of the
group sees it at the latency (R22, R364). DESIGN CHOICE (log 69): a thread of the group whose guard does not hold sees
it at the latency too; R19 and R364 leave open whether it does so only at its next completion point. -/
def Crew.writeS (k : Crew) (m : Mask) (key : Nat) (v : Word) (lat : Nat) : Crew :=
  let k := { k with sregs := tset k.sregs key v }
  k.modLanes m fun _ t => t.write key v lat

/-- A result of one lane; an s register is written for the whole group (R123). -/
def Crew.writeKey (k : Crew) (lane : Nat) (m : Mask) (key : Nat) (v : Word) (lat : Nat) : Crew :=
  if isSKey key then k.writeS m key v lat
  else k.modThread lane fun t => t.write key v lat

/-- Counter i of CNTR (R195). -/
def Crew.addCntr (k : Crew) (i n : Nat) : Crew :=
  { k with counts := { k.counts with cntr := k.counts.cntr.set i (k.counts.cntr.getD i 0 + n) } }

/-- A crew's next image-bearing write (R303): its number, modulo 2^32. -/
def Counts.issue (n : Counts) : Counts :=
  { n with issued := (n.issued + 1) % 2 ^ 32, unsettled := n.unsettled ++ [(n.issued + 1) % 2 ^ 32] }

/-- A write has settled. -/
def Counts.settle (n : Counts) (i : Nat) : Counts :=
  { n with unsettled := n.unsettled.filter fun u => decide (u ≠ i) }

/-- The crew of a context by its number, resident on a core or saved there. -/
def Core.slotOf? (c : Core) (ctx : Nat) (id : BitVec 16) : Option Nat :=
  ((c.slots.find? fun (_, k) => decide (k.id.ctx = ctx) && decide (k.id.crewId = id))).map (·.1)

/-- Change a crew wherever it is: engine operations of a SAVED crew keep counting (R318). -/
def State.modOwner (s : State) (core ctx : Nat) (id : BitVec 16) (f : Crew → Crew) : State :=
  match (s.core core).slotOf? ctx id with
  | some slot => s.modCrew core slot f
  | none => s.modContext ctx fun x =>
      { x with saved := x.saved.map (fun v =>
          if v.core = core ∧ v.crew.id.crewId = id then { v with crew := f v.crew } else v) }

/-- The retirement count of a crew, resident or saved. -/
def State.retiredOf (s : State) (core ctx : Nat) (id : BitVec 16) : Nat :=
  match ((s.core core).slotOf? ctx id).bind fun slot => (s.core core).crew? slot with
  | some k => k.counts.retired
  | none =>
    (((s.context ctx).saved.find? fun v => decide (v.core = core) && decide (v.crew.id.crewId = id)).map
      (·.crew.counts.retired)).getD 0

/-! ## Code (R14, R17, R18) -/

/-- A granule inside the code space. -/
def Context.granule? (x : Context) (pc : Nat) : Option Granule :=
  if inCode x.codeBase x.codeSize pc then some (Memory.readWord x.code pc) else none

/-- Pads skipped from an instruction start (R17). -/
def Context.skipPads (x : Context) : Nat → Nat → Nat
  | 0, pc => pc
  | n + 1, pc => if x.granule? pc = some 0 then x.skipPads n (32 * (pc / 32 + 1)) else pc

def Context.start (x : Context) (pc : Word) : Word :=
  BitVec.ofNat 32 (x.skipPads (x.codeSize / 32 + 1) pc.toNat)

/-- Fetch and the checks of R17 and R18: the instruction's granules, or the cause and the address
that CERR records. -/
def Context.fetch (x : Context) (pc : Nat) : Except (Cause × Nat) (List Granule) :=
  match x.granule? pc with
  | none => .error (.fetch, pc)
  | some g =>
    if isCont g then .error (.entry, pc)
    else if lenOf g = 0 then .error (.granule, pc)
    else
      let n := lenOf g + 1
      let gs := (List.range n).map fun i => x.granule? (pc + 4 * i)
      match gs.findIdx? Option.isNone with
      | some i => .error (.fetch, pc + 4 * i)
      | none => if 8 < pc / 4 % 8 + n then .error (.cross, pc) else .ok (gs.map fun o => o.getD 0)

/-- The granules of the instruction at a PC by its LEN. -/
def Context.wordsAt (x : Context) (pc : Word) : List Granule :=
  match x.granule? pc.toNat with
  | some g => (List.range (lenOf g + 1)).map fun i => (x.granule? (pc.toNat + 4 * i)).getD 0
  | none => []

/-- LEN + 1 of the instruction at a PC, in bytes. -/
def Context.lenAt (x : Context) (pc : Word) : Nat :=
  match x.granule? pc.toNat with
  | some g => 4 * (lenOf g + 1)
  | none => 8

/-! ## The order log (R322) -/

/-- A context keeps a log and a journal. -/
def Context.logs (x : Context) : Bool := x.ccb.replay && !x.ckpts.isEmpty

/-- A logged event happens: outside a replay it is appended; in one it must be what the log has next, else
the first mismatch is kept; every crew's retirement count is compared (R323). -/
def Context.note (x : Context) (i : LogItem) : Context :=
  match x.replaying with
  | none => if x.logs then { x with log := x.log ++ [i] } else x
  | some r =>
    match r.todo with
    | [] => { x with replaying := none, log := x.log ++ [i] }
    | j :: js =>
      if j.what = i.what ∧ j.crewId = i.crewId ∧ j.retired = i.retired ∧ j.counts = i.counts then
        { x with replaying := some { r with todo := js }, log := x.log ++ [j] }
      else { x with replaying := some { r with mismatch := some (r.mismatch.getD i) } }

/-- In a replay that has met no mismatch the event is the one that the log imposes. -/
def Context.allows (x : Context) (what : Nat) (id : BitVec 16) : Bool :=
  match x.replaying with
  | none => true
  | some r =>
    match r.todo with
    | [] => true
    | j :: _ => r.mismatch.isSome || (decide (j.what = what) && decide (j.crewId = id))

/-- In a replay a crew goes no further than it had gone at the event that the log has next, but to issue the instruction
that is this event: a read or a CKPT marker (R323). -/
def Context.holdsBack (x : Context) (k : Crew) : Bool :=
  match x.replaying with
  | none => false
  | some r =>
    match r.todo with
    | [] => false
    | j :: _ => r.mismatch.isNone && !(decide (j.crewId = k.id.crewId) && (decide (j.what = 4) || decide (j.what = 9)))
        && j.counts.any fun (i, n) => decide (i = k.id.crewId) && decide (n ≤ k.counts.retired)

/-- The retirement counts of the crews of a context, resident and saved. -/
def State.retirements (s : State) (ctx : Nat) : List (BitVec 16 × Nat) :=
  (s.cores.flatMap fun (_, c) => c.slots.filterMap fun (_, k) =>
      if k.id.ctx = ctx then some (k.id.crewId, k.counts.retired) else none)
    ++ (s.context ctx).saved.map fun v => (v.crew.id.crewId, v.crew.counts.retired)

/-- A logged event of a crew of a context. -/
def State.logItem (s : State) (ctx what : Nat) (id : BitVec 16) (retired : Nat) (vals : List Nat) : State :=
  let x := s.context ctx
  if x.logs || x.replaying.isSome then
    let counts := s.retirements ctx
    s.modContext ctx fun x => x.note ⟨what, id, retired, vals, counts⟩
  else s

/-- The bytes that the log imposes on an inbound read of a crew; else those that were read (R322, R323). -/
def Context.inboundVals (x : Context) (id : BitVec 16) (vals : List Nat) : List Nat :=
  match x.replaying with
  | some r =>
    match r.todo with
    | j :: _ => if j.what = 8 ∧ j.crewId = id ∧ j.vals.length = vals.length then j.vals else vals
    | [] => vals
  | none => vals

/-- A logged event of a resident crew. -/
def State.logCrew (s : State) (k : Crew) (what : Nat) (vals : List Nat) : State :=
  s.logItem k.id.ctx what k.id.crewId k.counts.retired vals

/-- Values that a crew reads: as they are, or as a replay imposes them (R322, R323). -/
def State.logReads (s : State) (k : Crew) (vals : List Nat) : State × List Nat :=
  let imposed := match (s.context k.id.ctx).replaying with
    | some r =>
      match r.todo with
      | j :: _ =>
        if j.what = 4 ∧ j.crewId = k.id.crewId ∧ j.retired = k.counts.retired ∧ j.vals.length = vals.length
        then j.vals else vals
      | [] => vals
    | none => vals
  (s.logCrew k 4 imposed, imposed)

/-- Keep a byte's contents before its first write after the checkpoint. -/
def Context.keep (x : Context) (m : Mem) (a : Nat) : Context :=
  if x.journalKeys.contains a then x
  else { x with journal := Memory.write x.journal a (Memory.read m a), journalKeys := a :: x.journalKeys }

/-- Contexts under replay that hold the allocation of an address journal `n` bytes at it. -/
def State.keepBytes (s : State) (a n : Nat) : State :=
  let h : BitVec 64 := BitVec.ofNat 64 (a / 2 ^ 48)
  { s with contexts := tmap s.contexts fun _ x =>
      if x.logs && x.allocs.any (fun r => decide (r.handle = h)) then
        (List.range n).foldl (fun x i => x.keep s.globalMem (a + i)) x
      else x }

/-! ## Layout entries (R128) -/

/-- Key of an entry in a core's table. -/
def entryKey (ctx n : Nat) : Nat := ctx * 256 + n
def Core.entry (c : Core) (ctx n : Nat) : Entry := tget Entry.free c.layout (entryKey ctx n)
def Core.setEntry (c : Core) (ctx n : Nat) (e : Entry) : Core :=
  { c with layout := tset c.layout (entryKey ctx n) e }
def Core.modEntry (c : Core) (ctx n : Nat) (f : Entry → Entry) : Core :=
  c.setEntry ctx n (f (c.entry ctx n))
def Core.freeEntry (c : Core) (ctx n : Nat) : Core :=
  { c with layout := tdel c.layout (entryKey ctx n) }

/-! ## The trap coalescer (R314 to R316) -/

/-- Two events merge (R316). -/
def FaultRec.merges (a b : FaultRec) : Bool :=
  decide (a.cause = b.cause) && decide (a.lid = b.lid) && decide (a.ctx = b.ctx)
    && (if a.cause = 3 ∨ a.cause = 4 ∨ a.cause = 12 then decide (a.addr = b.addr)
        else decide (a.pc = b.pc))

/-- One event added to a record. -/
def FaultRec.add (a b : FaultRec) : FaultRec :=
  { a with count := min 255 (a.count + b.count), slots := a.slots ||| b.slots }

/-- Merge into the first matching record. -/
def mergeInto (r : FaultRec) : List FaultRec → Option (List FaultRec)
  | [] => none
  | a :: as => if a.merges r then some (a.add r :: as) else (mergeInto r as).map (a :: ·)

/-- The fault queue of a context is full (R330). -/
def Ccb.fqFull (b : Ccb) : Bool :=
  decide ((b.fqTail + 1) % 2 ^ b.fqLog = b.fqHead % 2 ^ b.fqLog)

/-- An event reaches a core's coalescer (R316). -/
def State.report (s : State) (c : Nat) (r : FaultRec) : State :=
  let r := { r with opened := s.tick, lid := ((tget? s.launches r.launch).map (·.record.lid)).getD 0 }
  let full := (s.context r.ctx).ccb.fqFull
  s.modCore c fun k =>
    match mergeInto r k.openRecs with
    | some rs => { k with openRecs := rs }
    | none =>
      if k.openRecs.length < 8 ∧ k.waiting = [] ∧ !full then { k with openRecs := k.openRecs ++ [r] }
      else { k with waiting := k.waiting ++ [r] }

/-- An event of a crew. -/
def Crew.record (k : Crew) (cause sub slot : Nat) (imprecise : Bool) (pc : Word) (addr : Nat) :
    FaultRec :=
  { cause := cause, sub := sub, count := 1, slots := 2 ^ slot, imprecise := imprecise, pc := pc,
    crewId := k.id.crewId, ctx := k.id.ctx, launch := k.id.launch, lid := 0, addr := addr, opened := 0, gone := false }

/-- An event of a request. -/
def Req.record (r : Req) (cause : Nat) (addr : Nat) : FaultRec :=
  { cause := cause, sub := 0, count := 1, slots := 2 ^ r.slot, imprecise := true, pc := r.pc,
    crewId := r.crewId, ctx := r.ctx, launch := r.launch, lid := 0, addr := addr, opened := 0, gone := false }

/-! ## Launch status (R336) -/

/-- Order in which the first status that applies is written. -/
def statusRank (st : Nat) : Nat :=
  match st with
  | 3 => 6
  | 5 => 5
  | 6 => 4
  | 2 => 3
  | 1 => 2
  | _ => 0

def Launch.join (l : Launch) (st : Nat) : Launch :=
  if statusRank l.status < statusRank st then { l with status := st } else l

/-! ## Barriers (R258 to R263) -/

def Member.zero : Member := { count := 0, last := 0, prev := 0, retired := 0, before := 0, gone := false }

/-- A member has arrived in generation g, or counts as arrived. -/
def Member.in (m : Member) (g : Nat) : Bool := m.gone || decide (g ≤ m.count)

/-- Arrivals of a generation (R260). -/
def Bar.arrivals (b : Bar) (g : Nat) : Nat := (b.members.filter fun (_, m) => m.in g).length

/-- The generation that opens next is full. -/
def Bar.isFull (b : Bar) : Bool := decide (b.expected ≤ b.arrivals (b.opened + 1))

/-- Member number of a thread or crew. -/
def memberNo (index crew lane : Nat) (crewMem : Bool) : Nat :=
  2048 * index + 64 * crew + (if crewMem then 0 else lane)

/-- The barrier b of a block: the block's own or its launch's (R258). -/
def State.bar? (s : State) (block b : Nat) : Option (Bool × Bar) :=
  match tget? s.blocks block with
  | none => none
  | some k =>
    match tget? k.bars b with
    | some x => some (false, x)
    | none =>
      match tget? s.launches k.launch with
      | none => none
      | some l => (tget? l.bars b).map fun x => (true, x)

def State.modBar (s : State) (block b : Nat) (f : Bar → Bar) : State :=
  match s.bar? block b with
  | none => s
  | some (false, _) => s.modBlock block fun k => { k with bars := tmod k.bars b f }
  | some (true, _) =>
    match tget? s.blocks block with
    | none => s
    | some k => s.modLaunch k.launch fun l => { l with bars := tmod l.bars b f }

/-- One arrival (R260), with its serial number and the crew's retirement count; PHASE marks the generation publishing
(R263). -/
def Bar.arrive (b : Bar) (member serial retired : Nat) (phase : Bool) : Bar :=
  let m := tget Member.zero b.members member
  let g := m.count + 1
  { b with
    members := tset b.members member
      { m with count := g, last := serial, prev := m.last, retired := retired, before := m.retired }
    pub := if phase && !b.pub.contains g then b.pub ++ [g] else b.pub }

/-- A retired member (R260). -/
def Bar.leave (b : Bar) (member : Nat) : Bar :=
  { b with members := tset b.members member { tget Member.zero b.members member with gone := true } }

/-- A thread retires from every barrier of its block; with crew membership, `last` says that it is
its crew's last live thread. -/
def State.leaveBars (s : State) (k : Crew) (lane : Nat) (last : Bool) : State :=
  if k.id.spawned then s
  else
    let idx := ((tget? s.blocks k.id.block).map (·.index)).getD 0
    (List.range 16).foldl (fun s b =>
      s.modBar k.id.block b fun x =>
        if x.crewMem && !last then x
        else x.leave (memberNo (if x.level ≤ 2 then 0 else idx) k.id.index lane x.crewMem)) s

/-! ## Tickets (R207) -/

def Ticket.free : Ticket :=
  { ctx := 0, gen := 0, st := .free, setf := false, landed := 0, doneTick := 0, doneSeq := 0, estimate := 0,
    slot := 0 }

/-- The state codes of CQRY. -/
def TickSt.code : TickSt → Nat
  | .free => 0 | .pend => 1 | .run => 2 | .parked => 3 | .done => 4 | .lost => 5 | .fault => 6
  | .deferred => 7

/-- A completed ticket (R207). -/
def TickSt.ended : TickSt → Bool
  | .done | .lost | .fault => true
  | _ => false

def Core.ticket (c : Core) (i : Nat) : Ticket := tget Ticket.free c.tickets i
def Core.modTicket (c : Core) (i : Nat) (f : Ticket → Ticket) : Core :=
  { c with tickets := tset c.tickets i (f (c.ticket i)) }

/-- The slot a new operation takes: the lowest FREE one, else the completed one that completed
earliest (R207). -/
def Core.freeTicket? (c : Core) : Option Nat :=
  match findFrom (fun i => decide ((c.ticket i).st = .free)) 0 64 with
  | some i => some i
  | none =>
    (List.range 64).foldl (fun best i =>
      if (c.ticket i).st.ended then
        match best with
        | none => some i
        | some j => if (c.ticket i).doneSeq < (c.ticket j).doneSeq then some i else some j
      else best) none

/-- The next generation of a slot (R207). -/
def nextGen (g : Nat) : Nat := if g = 2 ^ 26 - 2 then 1 else g + 1

/-- A ticket id. -/
def ticketId (slot gen : Nat) : Word := BitVec.ofNat 32 (slot + 64 * gen)

/-- The state an id names; `none` for STALE and for no ticket. -/
def Core.lookup (c : Core) (id : Word) : Option Ticket :=
  if id = 0xFFFFFFFF then none
  else
    let t := c.ticket (id.toNat % 64)
    if t.gen = id.toNat / 64 ∧ t.st ≠ .free then some t else none

/-- A ticket reaches an end state. -/
def State.settleTicket (s : State) (c : Nat) (slot : Option Nat) (st : TickSt) : State :=
  match slot with
  | none => s
  | some i => (s.modCore c fun k => k.modTicket i fun t =>
      if t.st.ended then t else { t with st := st, doneTick := s.coreTick c, doneSeq := s.serial }).bump

/-! ## Retiring and killing (R35, R78) -/

/-- A thread retires: it counts as arrived at its barriers and its registers are discarded. `drop`:
the task population falls by one (R81). -/
def State.retireQuiet (s : State) (c slot lane : Nat) (drop : Bool) : State :=
  match s.crew? c slot with
  | none => s
  | some k =>
    match k.thread? lane with
    | none => s
    | some t =>
      if !t.live then s
      else
        let last := decide (k.live = laneBit lane)
        let s := s.leaveBars k lane last
        let s := if k.id.spawned && drop then
            s.modLaunch k.id.launch fun l => { l with population := l.population - 1 } else s
        let s := s.modThread c slot lane fun t =>
          { t with st := .retired, pend := [], ctlPend := [], regs := [], sview := [], released := none }
        if last then s.modCrew c slot fun k => { k with st := .held, claim := none, hungry := false }
        else s

/-- A thread parked behind an entry goes on: it executes its access again, or takes ABANDONED there (R165). -/
def Thread.release (t : Thread) (n : Nat) (given : Bool) (now : Nat) : Thread :=
  match t.st with
  | .parked (.entry m o) =>
    if m = n then { t with st := .ready, since := now, released := some ⟨n, o, given⟩ } else t
  | _ => t

/-- Ungranted matrix requests of a core leave the table; their earmarks return (R183, R226) and the numbers of their
images settle (R303). -/
def State.dropMatrix (s : State) (c : Nat) (p : MatReq → Bool) (st : TickSt) : State :=
  let q := quadOf c
  let gone := (s.quad q).table.filter fun r =>
    decide (r.core = c) && p r && (match r.st with | .granted _ => false | _ => true)
  let s := s.modQuad q fun k =>
    { k with table := k.table.filter (fun r => !gone.any (fun g => decide (g.serial = r.serial))) }
  gone.foldl (fun s r =>
    let s := s.settleTicket c (some r.ticket) st
    let s := match r.seqNo with
      | some n => if st = TickSt.pend then s
        else s.modOwner c r.ctx r.crewId fun k => { k with counts := k.counts.settle n }
      | none => s
    s.modCore c fun k =>
      let other := fun (d : Demand) => match d.kind with
        | .matrix _ i => decide (i ≠ r.serial)
        | _ => true
      let back := match r.st with
        | .earmarked _ => r.price
        | _ => 0
      { k with demands := k.demands.filter other
               tok := { k.tok with level := min (max k.tok.tkcap k.tok.level) (k.tok.level + back) } }) s

/-- An operand of a matrix request lies in an entry of its core. -/
def MatReq.names (r : MatReq) (ctx n : Nat) : Bool :=
  decide (r.ctx = ctx) && r.ends.any fun e => !e.desc.isGlobal && decide (e.entry = n)

/-- The entry leaves REBUILD (R163): after RETRY or SKIP, or given up. The groups parked behind it are released
(R165), and matrix requests that name an entry that is lost again leave the table (R226, R228). -/
def State.endRebuild (s : State) (c ctx n : Nat) (retry : Bool) : State :=
  let s := s.modCore c fun k => k.modEntry ctx n fun e =>
    let st := if retry && e.revived then (if e.doomed then EntrySt.losing else EntrySt.live)
      else EntrySt.lost
    { e with desc := { e.desc with st := st }, rebuilder := none,
             revived := false, doomed := false }
  let s := if ((s.core c).entry ctx n).desc.st = .lost then s.dropMatrix c (fun r => r.names ctx n) .lost else s
  let go := fun (w : Crew) (now : Nat) => w.mapThreads fun _ t => t.release n (!retry) now
  let s := s.modCore c fun k => k.mapCrews fun _ w => if w.id.ctx = ctx then go w (s.coreCycle c) else w
  s.modContext ctx fun x =>
    { x with saved := x.saved.map fun v => if v.core = c then { v with crew := go v.crew 0 } else v }

/-- Entries that a crew was rebuilding are given up (R163). -/
def State.giveUpAll (s : State) (c slot : Nat) : State :=
  (s.core c).layout.foldl (fun s (k, e) =>
    if e.rebuilder = some slot ∧ e.desc.st = .rebuild then s.endRebuild c (k / 256) (k % 256) false
    else s) s

/-- Demands of a crew's groups are gone. -/
def dropDemand (slot : Nat) (d : Demand) : Option Demand :=
  match d.kind with
    | .group sl parts pc ch =>
      let parts := parts.filter fun (x, _) => decide (x ≠ slot)
      let sl' := if sl = slot then ((parts.head?).map (·.1)).getD 0 else sl
      if parts.isEmpty then none else some { d with kind := .group sl' parts pc ch }
    | .matrix sl _ => if sl = slot then none else some d
    | _ => some d

def State.dropDemands (s : State) (c slot : Nat) : State :=
  s.modCore c fun k => { k with demands := k.demands.filterMap (dropDemand slot) }

/-- CERR codes (R34, R313). -/
def causeCode : Cause → Nat
  | .fetch => 0x01 | .entry => 0x02 | .granule => 0x03 | .cross => 0x04 | .malcont => 0x05
  | .opc => 0x06 | .fn => 0x07 | .len => 0x08 | .priv => 0x09 | .rsvd => 0x0A | .sreg => 0x0B
  | .vreg => 0x0C | .kind => 0x0D | .nested => 0x0E | .rett => 0x0F
  | .fatal cls => 0x10 + cls.toNat

/-- The context error record after a kill (R36, R37). -/
def Cerr.note (e : Cerr) (pc : Word) (crew : BitVec 16) (cause : Nat) (lid : Word) (cycle : Nat) :
    Cerr :=
  let n := min 0xFFFF (e.count + 1)
  if e.valid ∧ !(decide (e.since = cycle) && decide (crew.toNat < e.crew.toNat)) then
    { e with count := n }
  else { pc := pc, crew := crew, cause := cause, valid := true, count := n, launch := lid,
         since := cycle }

/-- KILLCREW (R35): `info` is CODE and TRAPARG of the trap that killed it (R314). -/
def State.killCrew (s : State) (c slot : Nat) (cause : Cause) (pc : Word) (info : Nat × Word) :
    State :=
  match s.crew? c slot with
  | none => s
  | some k =>
    if k.st = .held then s
    else
      let s := (lanesOf k.live).foldl (fun s l => s.retireQuiet c slot l true) s
      let s := s.modCrew c slot fun k =>
        { k with st := .held, claim := none, hungry := false,
                 trap := { k.trap with handling := false, hact := 0, pending := [] } }
      let s := s.giveUpAll c slot
      let s := s.dropMatrix c
        (fun r => decide (r.slot = slot) && decide (r.crewId = k.id.crewId)) .fault
      let s := s.dropDemands c slot
      let lid := ((tget? s.launches k.id.launch).map (·.record.lid)).getD 0
      let s := s.modLaunch k.id.launch fun l => l.join 1
      let s := s.modContext k.id.ctx fun x =>
        { x with ccb := { x.ccb with
                          cerr := x.ccb.cerr.note pc k.id.crewId (causeCode cause) lid s.cycle } }
      let rec' := match cause with
        | .fatal cls => k.record 2 (info.1 % 256 + 256 * cls.toNat) slot false pc info.2.toNat
        | _ => k.record 1 (causeCode cause) slot false pc 0
      s.report c rec'

/-! ## Loop levels (R72, R73, R310) -/

/-- The PC lies in the body of a level. -/
def LoopLevel.body (v : LoopLevel) (pc : Word) : Bool :=
  decide (v.start.toNat ≤ pc.toNat) && decide (pc.toNat < v.stop.toNat)

/-- The index and value of the last element with a property. -/
def lastWhere {α : Type} (p : α → Bool) : List α → Nat → Option (Nat × α)
  | [], _ => none
  | a :: as, i =>
    match lastWhere p as (i + 1) with
    | some r => some r
    | none => if p a then some (i, a) else none

/-- The innermost active level that concerns a lane; one that a handler opened concerns the handler's
threads only (R310). -/
def Crew.level? (k : Crew) (lane : Nat) : Option (Nat × LoopLevel) :=
  lastWhere (fun v => !v.inHandler || (k.trap.handling && k.trap.hact.getLsbD lane)) k.loops.levels 0

/-- Threads that a level waits for (R73). -/
def Crew.levelSet (k : Crew) (v : LoopLevel) : Mask :=
  if v.inHandler then k.live &&& k.trap.hact else k.live

/-- A thread goes on: its next issue is at `tA` or `tB` by class. -/
def Thread.goFrom (t : Thread) (pc : Word) (tA tB : Nat) : Thread :=
  { t with st := .ready, pc := pc, nextA := tA, nextB := tB, since := min tA tB, promoted := false, released := none }

def Thread.goAt (t : Thread) (pc : Word) (now : Nat) : Thread := t.goFrom pc now now

/-- A thread goes on after a wait: not before the STALL of the instruction in which it waited (R28). -/
def Thread.goOn (t : Thread) (pc : Word) (now : Nat) : Thread := t.goFrom pc (max now t.nextA) (max now t.nextB)

/-- The innermost level whose loop end every thread it waits for has reached (R73). -/
def Crew.endedLevel (k : Crew) : Option (Nat × LoopLevel) :=
  match lastWhere (fun v => !v.inHandler || k.trap.handling) k.loops.levels 0 with
  | none => none
  | some (d, v) =>
    let set := k.levelSet v
    if decide (set ≠ 0) && (lanesOf set).all (fun l => match k.thread? l with
      | some t => decide (t.st = .loopEnd) && decide (t.pc = v.stop)
      | none => true) then some (d, v) else none

/-- The loop end (R73): the level loops or closes; its threads leave it at a completion point. A level
that closes where an outer one ends too leaves the threads at the outer end. -/
def Crew.loopEnd (k : Crew) (now : Nat) : Crew :=
  match k.endedLevel with
  | none => k
  | some (d, v) =>
    let set := k.levelSet v
    let c := k.loops.lc.getD d 0 - 1
    let stay := maskFilter set fun l => match k.thread? l with
      | some t => !t.broken
      | none => false
    if c ≠ 0 ∧ stay ≠ 0 then
      { k with loops := { k.loops with lc := k.loops.lc.set d c } }.modLanes stay fun _ t =>
        (t.complete k.sregs).goOn v.start now
    else
      let levels := k.loops.levels.eraseIdx d
      let buffer := k.loops.buffer.filter fun pc => levels.any fun v => v.body pc
      let loops : Loops := { lc := k.loops.lc.set d 0, levels := levels, buffer := buffer }
      let outer := lastWhere (fun w => !w.inHandler || k.trap.handling) levels 0
      let chained := match outer with
        | some (_, w) => decide (w.stop = v.stop) && (w.inHandler == v.inHandler)
        | none => false
      { k with loops := loops }.modLanes set fun _ t =>
        if chained then { t.complete k.sregs with broken := false }
        else { (t.complete k.sregs).goOn v.stop now with broken := false }

/-! ## Taking a trap (R306 to R309) -/

/-- A trap as the raising rule gives it, for one crew: class, CODE, TRAPARG, TRAPLT, the threads of
the group, the faulting lanes, the PC; for LOSS the entry's HANDLER; for FPX the results a masked
trap writes and their latency; and the PC after the instruction with its STALL. -/
structure TrapInfo where
  cls : Nat
  code : Nat
  arg : Word
  lt : Nat
  act : Mask
  lm : Mask
  pc : Word
  lossPc : Option Word
  withheld : List (Nat × Nat × Word)
  lat : Nat
  next : Word
  stall : Nat
  deriving DecidableEq, Repr

/-- The frame (R307). -/
def TrapInfo.frame (t : TrapInfo) : Frame :=
  { pc := t.pc, code := BitVec.ofNat 32 (t.code % 65536 + 65536 * t.cls), arg := t.arg,
    lt := BitVec.ofNat 8 (if t.cls = 1 ∨ t.cls = 3 ∨ t.cls = 5 ∨ t.cls = 6 then t.lt else 0),
    lm := t.lm, act := t.act }

/-- CODE and TRAPARG of a frame, and its class. -/
def Frame.cls (f : Frame) : Nat := f.code.toNat / 65536 % 16
def Frame.info (f : Frame) : Nat × Word := (f.code.toNat % 65536, f.arg)

/-- The handler a class would enter, 0 for none, and whether the class is masked, as the lowest lane
of the group reads the crew's control registers. -/
def Crew.handlerFor (k : Crew) (act : Mask) (cls : Nat) (lossPc : Option Word) : Word × Bool :=
  let ctl := k.ctlAt act
  (match lossPc with | some p => p | none => ctl.handlers.getD cls 0, ctl.tmask.getLsbD cls)

/-- Trap entry (R307, R309): the frame is written, HACT is the group, and every thread of it stands at
the handler's PC after a completion point. -/
def Crew.enter (k : Crew) (f : Frame) (hpc : Word) (now : Nat) : Crew :=
  let k := { k with trap := { k.trap with handling := true, hact := f.act, frame := f } }
  k.modLanes f.act fun _ t => if t.live then (t.complete k.sregs).goAt hpc now else t

/-- Enter a handler, its pads skipped. -/
def State.enterAt (s : State) (c slot : Nat) (f : Frame) (hpc : Word) : State :=
  s.modCrew c slot fun k =>
    k.enter f ((s.context k.id.ctx).start hpc) (s.coreCycle c + 1)

/-- A trap behind another one (R309): the group parks. -/
def Crew.suspend (k : Crew) (t : TrapInfo) : Crew :=
  let p : PendTrap := ⟨t.frame, t.withheld, t.lat, t.next, t.stall⟩
  let k := k.modLanes t.act fun _ x => { x with st := .parked .trap }
  { k with trap := { k.trap with pending := k.trap.pending ++ [p] } }

/-- A class that is fatal when masked or without a handler, delivered to a crew that handles none. -/
def State.deliverFatal (s : State) (c slot : Nat) (f : Frame) (lossPc : Option Word) : State :=
  match s.crew? c slot with
  | none => s
  | some k =>
    let (hpc, masked) := k.handlerFor f.act f.cls lossPc
    if masked || (lossPc.isNone && decide (hpc = 0)) then
      s.killCrew c slot (.fatal (BitVec.ofNat 4 f.cls)) f.pc f.info
    else s.enterAt c slot f hpc

/-- CONV (R70), of whatever origin. -/
def State.convTrap (s : State) (c slot : Nat) (t : TrapInfo) : State :=
  match s.crew? c slot with
  | none => s
  | some k =>
    if k.trap.handling && decide (t.act &&& k.trap.hact ≠ 0) then
      s.killCrew c slot .nested t.pc (0, 0)
    else if k.trap.handling then s.modCrew c slot fun k => k.suspend t
    else s.deliverFatal c slot t.frame none

/-- A CONV trap with a code. -/
def convInfo (code : Nat) (arg : Word) (act lm : Mask) (pc : Word) : TrapInfo :=
  ⟨8, code, arg, 0, act, lm, pc, none, [], 0, pc, 0⟩

/-! ## Going on (R28, R73) -/

/-- Another live thread WAITING at a different crew-collective PC or loop end (R70 SPLIT): its PC. A
group outside the handler does not count the handler's threads (R309). -/
def Crew.splitAt (k : Crew) (lanes scope : Mask) (pc : Word) (loop : Bool) : Option Word :=
  (k.threads.find? fun (l, t) => t.live && scope.getLsbD l && !lanes.getLsbD l
    && !(k.trap.handling && k.trap.hact.getLsbD l && decide (lanes &&& k.trap.hact = 0))
    && (match t.st with
      | .collective => loop || decide (t.pc ≠ pc)
      | .loopEnd => !loop || decide (t.pc ≠ pc)
      | _ => false)).map fun (_, t) => t.pc

/-- Threads reach a loop end: they wait there, or take SPLIT (R70, R73). -/
def State.loopArrive (s : State) (c slot : Nat) (hits : Mask) (ipc stop : Word) : State :=
  match s.crew? c slot with
  | none => s
  | some k =>
    match k.splitAt hits (k.scope (lowLane hits)) stop true with
    | some other => s.convTrap c slot (convInfo 2 other hits hits ipc)
    | none =>
      s.modLanes c slot hits fun _ t => { t with st := .loopEnd }

/-- A lane is a live thread; it has been broken out of the innermost level (R92). -/
def Crew.liveAt (k : Crew) (l : Nat) : Bool :=
  match k.thread? l with
  | some t => t.live
  | none => false
def Crew.brokenAt (k : Crew) (l : Nat) : Bool :=
  match k.thread? l with
  | some t => t.broken
  | none => false

/-- Threads of one crew go on after the instruction at `ipc`: PCs move, pads are skipped, each thread's next
issue is set by `go`, and a loop end is noticed (R17, R28, R73). -/
def State.land (s : State) (c slot : Nat) (m : Mask) (ipc : Word) (next : Nat → Word)
    (go : Thread → Word → Thread) : State :=
  match s.crew? c slot with
  | none => s
  | some k =>
    let x := s.context k.id.ctx
    let m := maskFilter m k.liveAt
    let s := s.modLanes c slot m fun l t => go t (x.start (next l))
    match k.level? (lowLane m) with
    | none => s
    | some (_, v) =>
      let hits := maskFilter m fun l => decide (x.start (next l) = v.stop) && (k.brokenAt l || v.body ipc)
      if hits = 0 then s else s.loopArrive c slot hits ipc v.stop

/-- A retirement by a crew (R77, R195, R322). -/
def Crew.retireOne (k : Crew) (now : Nat) : Crew :=
  let n : Counts := { k.counts with retired := k.counts.retired + 1, wdBase := now }
  { k with counts := n }

/-- Cycles of the next issue after a STALL (R28): for class A and class B. -/
def nextIssue (now stall : Nat) (clsA : Bool) : Nat × Nat :=
  if stall = 0 then (if clsA then now + 1 else now, if clsA then now else now + 1)
  else (now + stall, now + stall)

/-- Threads of a crew have executed an instruction: its issue distance passes or, at a completion
point, everything outstanding ends (R28 to R31). -/
def State.finishPart (s : State) (c slot : Nat) (m : Mask) (ipc : Word) (next : Nat → Word)
    (stall : Nat) (clsA done : Bool) : State :=
  let now := s.coreCycle c
  let (tA, tB) := nextIssue now stall clsA
  let s := s.modCrew c slot fun k =>
    let k := k.modLanes m fun _ t => if done then t.complete k.sregs else t.age stall
    (k.retireOne now).tidyCtl
  s.land c slot m ipc next fun t pc => t.goFrom pc tA tB

/-! ## Delivery (R306, R309, R311) -/

/-- What R306 does with a class that is masked or has no handler: FPX writes what it withheld and
goes on, USER goes on where it is masked, LATE and STALL execute again, the others kill. -/
def State.unhandled (s : State) (c slot : Nat) (masked : Bool) (f : Frame)
    (withheld : List (Nat × Nat × Word)) (lat : Nat) (next : Word) (stall : Nat) : State :=
  let now := s.coreCycle c
  match f.cls with
  | 0 =>
    let s := withheld.foldl (fun s (l, key, v) =>
      s.modCrew c slot fun k => k.writeKey l f.act key v lat) s
    s.finishPart c slot f.act f.pc (fun _ => next) stall true false
  | 2 | 4 => s.modLanes c slot f.act fun _ t => if t.live then t.goAt f.pc now else t
  | 7 =>
    if masked then s.finishPart c slot f.act f.pc (fun _ => next) stall false false
    else s.killCrew c slot (.fatal 7) f.pc f.info
  | _ => s.killCrew c slot (.fatal (BitVec.ofNat 4 f.cls)) f.pc f.info

/-- Deliver a trap to a crew that handles none. -/
def State.deliver (s : State) (c slot : Nat) (f : Frame) (lossPc : Option Word)
    (withheld : List (Nat × Nat × Word)) (lat : Nat) (next : Word) (stall : Nat) : State :=
  match s.crew? c slot with
  | none => s
  | some k =>
    let (hpc, masked) := k.handlerFor f.act f.cls lossPc
    if masked || (lossPc.isNone && decide (hpc = 0)) then
      s.unhandled c slot masked f withheld lat next stall
    else s.enterAt c slot f hpc

/-- TAKING A TRAP (R309), for one crew of the issuing group: a trap inside its handler kills it; a
trap of another group while it handles one waits; otherwise it is delivered. -/
def State.takeTrap (s : State) (c slot : Nat) (t : TrapInfo) : State :=
  match s.crew? c slot with
  | none => s
  | some k =>
    if k.trap.handling && decide (t.act &&& k.trap.hact ≠ 0) then
      s.killCrew c slot .nested t.pc (0, 0)
    else if k.trap.handling then s.modCrew c slot fun k => k.suspend t
    else s.deliver c slot t.frame t.lossPc t.withheld t.lat t.next t.stall

/-- The HANDLER that a LOSS frame enters (R164). -/
def State.lossHandler (s : State) (c ctx : Nat) (f : Frame) : Option Word :=
  if f.cls = 1 then some ((s.core c).entry ctx f.lt.toNat).desc.handler else none

/-- Deliver pending traps, oldest first, until one is being handled (R309, R311). -/
def State.deliverPending (s : State) (c slot : Nat) : Nat → State
  | 0 => s
  | n + 1 =>
    match s.crew? c slot with
    | none => s
    | some k =>
      if k.trap.handling then s
      else match k.trap.pending with
        | [] => s
        | p :: ps =>
          let s := s.modCrew c slot fun k => { k with trap := { k.trap with pending := ps } }
          let act := p.frame.act &&& k.live
          if act = 0 then s.deliverPending c slot n
          else (s.deliver c slot { p.frame with act := act } (s.lossHandler c k.id.ctx p.frame)
              p.withheld p.lat p.next p.stall).deliverPending c slot n

/-- The handler ends (R309, R311, R163): HANDLING and HACT are cleared, a LOSS entry moves, and the
oldest pending trap is delivered. -/
def State.endHandler (s : State) (c slot : Nat) (retry : Bool) : State :=
  match s.crew? c slot with
  | none => s
  | some k =>
    let lt := k.trap.frame.lt.toNat
    let e := (s.core c).entry k.id.ctx lt
    let s := if k.trap.frame.cls = 1 ∧ e.rebuilder = some slot ∧ e.desc.st = .rebuild then
        s.endRebuild c k.id.ctx lt retry else s
    let s := s.modCrew c slot fun k => { k with trap := { k.trap with handling := false, hact := 0 } }
    s.deliverPending c slot (k.trap.pending.length + 1)

/-- RETURN FROM A TRAP (R311): every thread of HACT goes on at `next` after a completion point and the STALL of
RETT (R28). -/
def State.returnTrap (s : State) (c slot : Nat) (next : Word) (retry : Bool) (stall : Nat) : State :=
  match s.crew? c slot with
  | none => s
  | some k =>
    let (tA, tB) := nextIssue (s.coreCycle c) stall false
    let next := (s.context k.id.ctx).start next
    let s := s.modLanes c slot k.trap.hact fun _ t =>
      if t.live then (t.complete k.sregs).goFrom next tA tB else t
    let s := s.modCrew c slot fun k => k.retireOne (s.coreCycle c)
    s.endHandler c slot retry

/-! ## Waking, exits -/

/-- Parked, sleeping or stopped threads of one PC go on after the instruction at it: a completion
point (R31), then the results `f`. -/
def State.wakeAt (s : State) (c slot : Nat) (m : Mask) (pc : Word) (f : Nat → Thread → Thread) :
    State :=
  match s.crew? c slot with
  | none => s
  | some k =>
    let now := s.coreCycle c
    let next := pc + BitVec.ofNat 32 ((s.context k.id.ctx).lenAt pc)
    let s := s.modLanes c slot m fun l t => f l (t.complete k.sregs)
    let s := s.modCrew c slot fun k => k.retireOne now
    s.land c slot m pc (fun _ => next) fun t pc => t.goOn pc now

/-- Threads wake together; those of one PC form one group. -/
def State.wakeAll (s : State) (c slot : Nat) (m : Mask) (f : Nat → Thread → Thread) : Nat → State
  | 0 => s
  | n + 1 =>
    match s.crew? c slot with
    | none => s
    | some k =>
      if m = 0 then s
      else
        let pc := ((k.thread? (lowLane m)).map (·.pc)).getD 0
        let same := maskFilter m fun l => match k.thread? l with
          | some t => decide (t.pc = pc)
          | none => false
        (s.wakeAt c slot same pc f).wakeAll c slot (m &&& ~~~(same ||| laneBit (lowLane m))) f n

/-- Threads whose wait has a property. -/
def Crew.parkedWhere (k : Crew) (p : Nat → Wait → Bool) : Mask :=
  maskOf ((k.threads.filter fun (l, t) => match t.st with
    | .parked w => p l w
    | _ => false).map (·.1))

/-- Wake every parked thread of a crew whose wait has a property. -/
def State.wakeWhere (s : State) (c slot : Nat) (p : Nat → Wait → Bool)
    (f : Nat → Thread → Thread) : State :=
  match s.crew? c slot with
  | none => s
  | some k => s.wakeAll c slot (k.parkedWhere p) f 64

/-- Threads that execute their instruction again. -/
def State.reissue (s : State) (c slot : Nat) (m : Mask) : State :=
  let now := s.coreCycle c
  s.modLanes c slot m fun _ t => t.goAt t.pc now

/-- The granule at a PC starts a RETT. -/
def Context.rettAt (x : Context) (pc : Word) : Bool :=
  match x.granule? pc.toNat with
  | some g => decide (opcOf g = 0xD1)
  | none => false

/-- What the exit of lanes does to threads that wait for them (R70, R73, R120): waiting threads of a
crew-collective PC take EXITED; those at a cross-lane PC that name an exited lane, and handler threads
at a RETT, arrive again; a loop end no longer waits for the lanes. -/
def State.exitChecks (s : State) (c slot : Nat) (lanes : Mask) : State :=
  match s.crew? c slot with
  | none => s
  | some k =>
    let x := s.context k.id.ctx
    let again := fun (t : Thread) => match t.st with
      | .crossLane m => decide (m &&& lanes ≠ 0)
      | .collective => x.rettAt t.pc
      | _ => false
    let s := s.modCrew c slot fun k =>
      k.mapThreads fun _ t => if again t then { t with st := .ready } else t
    let waits := fun (l : Nat) (t : Thread) => decide (t.st = .collective) && !x.rettAt t.pc
      && (!(k.trap.handling && k.trap.hact.getLsbD l) || decide (k.trap.frame.act &&& lanes ≠ 0))
    let ws := k.threads.filter fun (l, t) => waits l t
    match ws with
    | [] => s
    | (_, t0) :: _ =>
      let act := maskOf ((ws.filter fun (_, t) => decide (t.pc = t0.pc)).map (·.1))
      s.convTrap c slot (convInfo 1 0 act act t0.pc)

/-- EXIT of lanes (R78, R90): each retires; handler threads leave HACT, and when HACT is empty the
handler has ended. -/
def State.exitLanes (s : State) (c slot : Nat) (lanes : Mask) (drop : Bool) : State :=
  let s := (lanesOf lanes).foldl (fun s l => s.retireQuiet c slot l drop) s
  let s := match s.crew? c slot with
    | none => s
    | some k =>
      if k.trap.handling then
        let hact := k.trap.hact &&& ~~~lanes
        let s := s.modCrew c slot fun k => { k with trap := { k.trap with hact := hact } }
        if hact = 0 then s.endHandler c slot false else s
      else s
  match s.crew? c slot with
  | none => s
  | some k =>
    if k.st = .held then (s.giveUpAll c slot).dropDemands c slot
    else s.exitChecks c slot lanes

end Sys2Proof.Machine
end

