-- ==== Sys2Proof/Machine/Operands.lean ====
section
/-! DEFINITION. Operand forms: what an instruction is (crew-collective, regroupable, a completion
point), its sources in operand order (R30), coordinate runs (N21, R138) and member masks (R119). -/

namespace Sys2Proof

/-- Granule 1's header of an instruction row. -/
def Instr.hdr? : Instr → Option Hdr
  | .nop h | .nopG3 h | .nopG4 h | .bra h _ | .brx h _ | .call h _ _ | .callx h _ _ | .ret h _
  | .exit h | .lbrk h | .yield h | .bkpt h _ | .sleept h _ | .loop h _ => some h
  | .iadd h _ | .isub h _ | .imul h _ | .imulh h _ | .imad h _ | .imin h _ | .imax h _ | .iabs h _
  | .and h _ | .or h _ | .xor h _ | .andn h _ | .shl h _ | .shr h _ | .sar h _ | .bfx h _ | .bfi h _
  | .popc h _ | .clz h _ | .brev h _ | .iset h _ | .mov h _ => some h
  | .iaddImm h _ | .isubImm h _ | .imulImm h _ | .imulhImm h _ | .imadImm h _ | .iminImm h _
  | .imaxImm h _ | .iabsImm h _ | .andImm h _ | .orImm h _ | .xorImm h _ | .andnImm h _ | .shlImm h _
  | .shrImm h _ | .sarImm h _ | .isetImm h _ | .movi h _ => some h
  | .sel h _ => some h
  | .fadd h _ | .fsub h _ | .fmul h _ | .ffma h _ | .fmin h _ | .fmax h _ | .fneg h _ | .fabs h _
  | .fset h _ | .fclass h _ | .frcp h _ | .frsq h _ | .fexp2 h _ | .flog2 h _ | .ftanh h _
  | .fscaleb h _ => some h
  | .faddImm h _ | .fsubImm h _ | .fmulImm h _ | .ffmaImm h _ | .fminImm h _ | .fmaxImm h _
  | .fsetImm h _ | .fscalebImm h _ => some h
  | .padd2 h _ | .pmul2 h _ | .pfma2 h _ | .pmax2 h _ | .pmin2 h _ | .cvt h _ | .pack h _
  | .unpk h _ | .qnt h _ => some h
  | .shfl h _ | .shfr h _ _ | .shfx h _ _ | .red h _ _ | .scan h _ _ _ _ | .vote h _ _
  | .bcast h _ _ | .matchLanes h _ => some h
  | .pmov h _ _ _ | .srd h _ _ | .swr h _ _ | .plop h _ => some h
  | .ldt h _ | .stt h _ | .ldv h _ | .stv h _ | .ldx h _ | .tfill h _ | .mark h _ _ | .waitf h _ =>
      some h
  | .alloc h _ | .free h _ _ | .mapg h _ | .ltq h _ _ | .revive h _ _ | .waitcap h _ | .rerank h _
  | .capq h _ _ => some h
  | .acpy h _ | .asto h _ | .twait h _ _ | .tcnt h _ _ _ | .bcpy h _ | .bput h _ | .cwait h _ _
  | .cqry h _ _ _ | .migr h _ => some h
  | .mma h _ | .mmas h _ | .msca h _ | .mzero h _ | .mlda h _ | .mdrn h _ | .mdra h _ | .mwait h _ _ =>
      some h
  | .bar h _ | .bara h _ | .barw h _ | .phase h _ | .atom h _ | .atoms h _ | .atred h _ => some h
  | .tokq h _ _ | .priceq h _ _ | .tickr h _ _ | .cntr h _ _ | .phint h _ _ => some h
  | .spawn h _ | .join h _ | .park h _ _ | .launch h _ => some h
  | .trap h _ | .rett h _ | .seth h _ | .tmask h _ | .ckpt h _ _ => some h
  | .symq h _ _ _ | .imgw h _ => some h
  | _ => none

/-- Crew-collective instructions (R68). -/
def Instr.collective : Instr → Bool
  | .loop _ _ | .mma _ _ | .mmas _ _ | .msca _ _ | .mzero _ _ | .mlda _ _ | .mdrn _ _ | .mdra _ _
  | .mwait _ _ _ | .alloc _ _ | .free _ _ _ | .revive _ _ _ | .waitcap _ _ | .symq _ _ _ _ => true
  | .bar _ o | .bara _ o | .barw _ o | .phase _ o => o.cm
  | .spawn _ o => o.cf
  | _ => false

/-- RETT: collective among the handler's threads (R68). -/
def Instr.isRett : Instr → Bool
  | .rett _ _ => true
  | _ => false

/-- Thread accesses (R159). -/
def Instr.access : Instr → Bool
  | .ldt _ _ | .stt _ _ | .ldv _ _ | .stv _ _ | .ldx _ _ | .tfill _ _ | .atoms _ _ | .mark _ _ _
  | .waitf _ _ => true
  | _ => false

/-- The member mask pair of a cross-lane instruction (R119). -/
def Instr.maskPair : Instr → Option RegCode
  | .shfl _ o | .shfr _ o _ | .shfx _ o _ | .red _ o _ | .scan _ o _ _ _ | .vote _ o _
  | .bcast _ o _ | .matchLanes _ o => some o.m
  | _ => none

namespace Machine

/-- Keys of a run of registers. -/
def runKeys (c : RegCode) (n : Nat) : List Nat := (List.range n).map (c.toNat + ·)

/-- Registers of a data run for `n` elements of width `w` (R142). -/
def dataRun (n w : Nat) : Nat := ceilDiv (n * w) 32

/-- Elements of a vector access (R141). -/
def vnCount (vn : BitVec 2) : Nat := if vn = 2 then 4 else if vn = 1 then 2 else 1

end Machine

open Machine

/-- The sources of an instruction in operand order after the guard (R30): D where it is read, A, B,
then the others. `dims` and `wid` give dimensions and element width of an entry at issue. -/
def Instr.sources (dims wid : Nat → Nat) : Instr → List Nat
  | .brx _ a | .ret _ a | .callx _ _ a => [a.toNat]
  | .sleept _ a => runKeys a 2
  | .loop _ o => if o.cs then [o.c.toNat] else []
  | .imad _ o | .bfi _ o => [o.d.toNat, o.a.toNat, o.b.toNat]
  | .iadd _ o | .isub _ o | .imul _ o | .imulh _ o | .imin _ o | .imax _ o | .and _ o | .or _ o
  | .xor _ o | .andn _ o | .shl _ o | .shr _ o | .sar _ o | .bfx _ o | .iset _ o =>
      [o.a.toNat, o.b.toNat]
  | .iabs _ o | .popc _ o | .clz _ o | .brev _ o | .mov _ o => [o.b.toNat]
  | .imadImm _ o => [o.d.toNat, o.a.toNat]
  | .iaddImm _ o | .isubImm _ o | .imulImm _ o | .imulhImm _ o | .iminImm _ o | .imaxImm _ o
  | .andImm _ o | .orImm _ o | .xorImm _ o | .andnImm _ o | .shlImm _ o | .shrImm _ o | .sarImm _ o
  | .isetImm _ o => [o.a.toNat]
  | .sel _ o => o.a.toNat :: (if o.bi then [] else [o.b.toNat]) ++ [pKey o.p]
  | .ffma _ o | .pfma2 _ o | .qnt _ o => [o.d.toNat, o.a.toNat, o.b.toNat]
  | .fadd _ o | .fsub _ o | .fmul _ o | .fmin _ o | .fmax _ o | .fset _ o | .fscaleb _ o
  | .padd2 _ o | .pmul2 _ o | .pmax2 _ o | .pmin2 _ o => [o.a.toNat, o.b.toNat]
  | .fneg _ o | .fabs _ o | .fclass _ o | .frcp _ o | .frsq _ o | .fexp2 _ o | .flog2 _ o
  | .ftanh _ o => [o.a.toNat]
  | .ffmaImm _ o => [o.d.toNat, o.a.toNat]
  | .faddImm _ o | .fsubImm _ o | .fmulImm _ o | .fminImm _ o | .fmaxImm _ o | .fsetImm _ o
  | .fscalebImm _ o => [o.a.toNat]
  | .cvt _ o => [o.a.toNat]
  | .unpk _ o => [o.a.toNat]
  | .pack _ o => (if o.mod = 0 then [] else [o.d.toNat]) ++ [o.a.toNat, o.b.toNat]
  | .shfl _ o => [o.a.toNat, o.b.toNat] ++ runKeys o.m 2
  | .vote _ o _ => (512 + o.a.toNat) :: runKeys o.m 2
  | .shfr _ o _ | .shfx _ o _ | .red _ o _ | .scan _ o _ _ _ | .bcast _ o _ | .matchLanes _ o =>
      o.a.toNat :: runKeys o.m 2
  | .pmov _ dir half r =>
      if dir then [r.toNat] else (List.range 32).map (512 + 32 * half.toNat + ·)
  | .swr _ _ a => [a.toNat]
  | .plop _ o => [pKey o.a, pKey o.b, pKey o.c]
  | .ldt _ o | .ldv _ o | .ldx _ o => runKeys o.c (dims o.n.toNat)
  | .stt _ o | .stv _ o => runKeys o.c (dims o.n.toNat)
      ++ runKeys o.v (dataRun (vnCount o.vn) (wid o.n.toNat))
  | .tfill _ o => if o.all then [o.v.toNat]
      else runKeys o.c (dims o.n.toNat) ++ [o.v.toNat, o.b.toNat]
  | .alloc _ o | .mapg _ o => runKeys o.s 8
  | .waitcap _ o => if o.nd then [] else runKeys o.d 2
  | .rerank _ o => if o.rs then [o.a.toNat] else []
  | .acpy _ o | .asto _ o => runKeys o.dc (dims o.dn.toNat) ++ runKeys o.sc (dims o.sn.toNat)
      ++ (if o.nr then [o.nreg.toNat] else [])
  | .bcpy _ o => runKeys o.c (dims o.sn.toNat)
  | .bput _ o => runKeys o.c (dims o.dn.toNat)
  | .cwait _ _ a | .mwait _ _ a => [a.toNat]
  | .cqry _ _ _ a | .priceq _ _ a | .tickr _ _ a | .phint _ _ a => [a.toNat]
  | .migr _ o => runKeys o.c (dims o.n.toNat)
  | .mma _ o => runKeys o.ac (dims o.an.toNat) ++ runKeys o.bc (dims o.bn.toNat)
  | .mmas _ o => runKeys o.ac (dims o.an.toNat) ++ runKeys o.o 2
  | .msca _ o => runKeys o.sc (dims o.sn.toNat)
  | .mlda _ o | .mdrn _ o | .mdra _ o => runKeys o.c (dims o.n.toNat)
  | .atom _ o | .atoms _ o => o.a.toNat :: (if o.op = 7 then [o.b.toNat] else [])
      ++ runKeys o.c (dims o.n.toNat)
  | .atred _ o => o.a.toNat :: runKeys o.c (dims o.n.toNat)
  | .spawn _ o => runKeys o.f 4 ++ [o.j.toNat] ++ (if o.cx then [o.a.toNat] else [])
  | .join _ o => (if o.self then [] else [o.a.toNat]) ++ (if o.arm then [o.b.toNat] else [])
  | .park _ j a => [0, 1, 2, 3] ++ (if j then [a.toNat] else [])
  | .launch _ o => o.q.toNat :: runKeys o.c (dims o.n.toNat)
  | .trap _ o => if o.av then [o.a.toNat] else []
  | .seth _ o => if o.src = 1 then [o.a.toNat] else []
  | .ckpt _ m a => if m then [a.toNat] else []
  | _ => []

/-- Register operand codes that name the s file keep an instruction from being regrouped (R64). -/
def Instr.namesS : Instr → Bool := fun i => i.runs.any fun (c, _) => c.isS

/-- An instruction that may be regrouped (R64). -/
def Instr.regroups (i : Instr) (clsA : Bool) : Bool :=
  !i.namesS && !i.collective && i.maskPair.isNone
    && (clsA || match i with
      | .ldt _ _ | .stt _ _ | .ldv _ _ | .stv _ _ | .acpy _ _ | .asto _ _ => true
      | _ => false)

/-- Completion points that do not park and are no crew-collective instruction: none but RETT (R31).
An instruction that parks completes when its threads go on. -/
def Instr.completes : Instr → Bool
  | .bara _ _ => false
  | .twait _ _ _ | .cwait _ _ _ | .waitf _ _ | .sleept _ _ | .bar _ _ | .barw _ _ | .phase _ _
  | .atom _ _ | .mapg _ _ | .imgw _ _ | .rett _ _ => true
  | i => i.collective

namespace Machine

/-! ## Coordinates -/

/-- COORDS(t, C, NDIM): registers read as Z32 (R137, N21). -/
def Thread.coords (t : Thread) (c : RegCode) (n : Nat) : List Nat :=
  (runKeys c n).map fun k => (t.read k).toNat

/-- A register run passes v(VALLOT − 1) or s191, or leaves its file (R138 REGRUN). -/
def regRunOk (vallot : Nat) (c : RegCode) (n : Nat) : Bool :=
  if c.isS then decide (c.idx + n ≤ 192) else decide (c.idx + n ≤ vallot)

/-! ## Groups -/

/-- The guard of a lane's thread holds. -/
def Crew.guardAt (k : Crew) (h : Hdr) (l : Nat) : Bool :=
  match k.thread? l with
  | some t => t.guard h
  | none => false

/-- The threads of a part whose guard holds (R19). -/
def Crew.holding (k : Crew) (h : Hdr) (m : Mask) : Mask := maskFilter (m &&& k.live) (k.guardAt h)

/-- Threads of the handler are among the lanes (R309). -/
def Crew.handles (k : Crew) (m : Mask) : Bool := k.trap.handling && decide (m &&& k.trap.hact ≠ 0)

/-- Parts oldest crew first (R64). -/
def insertByAge (age : Nat → Nat) (p : Nat × Mask) : List (Nat × Mask) → List (Nat × Mask)
  | [] => [p]
  | q :: qs => if age p.1 ≤ age q.1 then p :: q :: qs else q :: insertByAge age p qs

def State.partsByAge (s : State) (g : Group) : List (Nat × Mask) :=
  g.parts.foldr (insertByAge fun slot => ((s.crew? g.core slot).map (·.id.age)).getD 0) []

/-- Guard-holding lanes of a crew of the group. -/
def State.on (s : State) (g : Group) (h : Hdr) (slot : Nat) : Mask :=
  match s.crew? g.core slot, g.parts.find? (fun (x, _) => decide (x = slot)) with
  | some k, some (_, m) => k.holding h m
  | _, _ => 0

/-- The first crew of the group: its only one, where the instruction is never regrouped. -/
def Group.slot (g : Group) : Nat := ((g.parts.head?).map (·.1)).getD 0
def Group.mask (g : Group) : Mask := ((g.parts.head?).map (·.2)).getD 0

/-- The thread that stands for a crew in an instruction that acts once for the group: the lowest lane
whose guard holds (R363). -/
def State.leader? (s : State) (g : Group) (h : Hdr) : Option (Crew × Thread) :=
  match s.crew? g.core g.slot with
  | none => none
  | some k =>
    let on := k.holding h g.mask
    if on = 0 then none else (k.thread? (lowLane on)).map fun t => (k, t)

/-- The context of a group. -/
def State.ctxOf (s : State) (g : Group) : Nat :=
  ((s.crew? g.core g.slot).map (·.id.ctx)).getD 0

end Machine

end Sys2Proof
end

