-- ==== Sys2Proof/Machine/Price.lean ====
section
/-! DEFINITION. Prices (R172 to R176, R193). -/

namespace Sys2Proof.Machine

/-- Scale of an operating point, in hundredths (R188). -/
def opScale (op : Nat) : Nat := [100, 86, 75, 66, 55, 46, 39, 34].getD op 100

/-- The price a table holds for a nominal price (R175). -/
def scaled (op nominal : Nat) : Nat := ceilDiv (nominal * opScale op) 100

/-- K of a matrix format and its significand planes Q_F (R174). -/
def matK (fmt : Nat) : Nat :=
  match fmt with
  | 1 | 2 => 64
  | 9 => 256
  | _ => 128

def matQF (fmt : Nat) : Nat :=
  match fmt with
  | 1 => 11
  | 2 | 7 => 8
  | _ => 4

/-- A matrix format (R230). -/
def isMatFmt (fmt : Nat) : Bool := decide (fmt ∈ [1, 2, 3, 4, 7, 9])

/-- Cycles of a pass (R174). -/
def passCycles (fmt q : Nat) : Nat := min q (matQF fmt) * matK fmt / 32

/-- Nominal price of a pass. -/
def passPrice (fmt q : Nat) : Nat := ceilDiv (105 * passCycles fmt q) 4

/-- An operation of RED and SCAN that is wide (R173). -/
def wideOp (op : Nat) : Bool := decide (op = 1 ∨ op = 6 ∨ op = 7)

/-- Nominal price by opcode and function, where neither bytes nor format set it (R173). -/
def nominalOf (opc fn : Nat) : Nat :=
  match opc with
  | 0x20 => if 0x0A ≤ fn ∧ fn ≤ 0x0E then 3 else 1
  | 0x21 => 1
  | 0x30 => if fn = 0x09 ∨ fn = 0x0A then 0 else 1
  | 0x92 => 30
  | 0x94 | 0x95 => 16
  | 0x96 => 24
  | 0xA4 | 0xA6 => 1
  | _ => 0

/-- Nominal price of a class-A instruction. -/
def classAPrice : Instr → Nat
  | .fadd _ _ | .fsub _ _ | .fmul _ _ | .ffma _ _ | .fmin _ _ | .fmax _ _ | .fneg _ _ | .fabs _ _
  | .fset _ _ | .fclass _ _ | .fscaleb _ _ => 1
  | .faddImm _ _ | .fsubImm _ _ | .fmulImm _ _ | .ffmaImm _ _ | .fminImm _ _ | .fmaxImm _ _
  | .fsetImm _ _ | .fscalebImm _ _ => 1
  | .frcp _ _ | .frsq _ _ | .fexp2 _ _ | .flog2 _ _ | .ftanh _ _ => 3
  | .padd2 _ _ | .pmul2 _ _ | .pfma2 _ _ | .pmax2 _ _ | .pmin2 _ _ | .cvt _ _ | .qnt _ _ => 1
  | .red _ _ op => if wideOp op.toNat then 1 else 0
  | .scan _ _ op _ _ => if wideOp op.toNat then 1 else 0
  | _ => 0

/-- UNIT of a space; 0 for no charge (R173). -/
def spaceUnit (space : Nat) : Nat := [0, 256, 64, 32, 16, 16].getD space 0

/-- The price of one end of a copy of n bytes. -/
def endPrice (space n : Nat) : Nat := if spaceUnit space = 0 then 0 else ceilDiv n (spaceUnit space)

/-- Nominal price of a copy; the destination counts once for the base and once per image (R299). -/
def copyPrice (src dst n images : Nat) : Nat := endPrice src n + (images + 1) * endPrice dst n

/-- Bytes of a chunk (R176): 0 when not even 32 bytes can be paid. -/
def chunkBytes (op tkcap src dst images : Nat) : Nat :=
  32 * ((List.range 128).foldl (fun best i =>
    if scaled op (copyPrice src dst (32 * (i + 1)) images) ≤ tkcap then i + 1 else best) 0)

/-- The price in force at a core (R175). -/
def State.priceAt (s : State) (c nominal : Nat) : Nat := scaled (s.quad (quadOf c)).op nominal

/-- What PRICEQ gives for a selector (R193). -/
def priceq (op : Nat) (a : Nat) : Nat :=
  let bad := 0xFFFFFFFF
  let opc := bitsOf a 0 8
  let fn := bitsOf a 8 6
  let fmt := bitsOf a 14 4
  let q := bitsOf a 18 5
  let space := bitsOf a 23 3
  let opx := bitsOf a 26 4
  if bitsOf a 30 2 ≠ 0 ∨ 10 < opx then bad
  else if (opcLen opc).isNone || (grouped opc && !fnAssigned opc fn) || (!grouped opc && decide (fn ≠ 0))
  then bad
  else if opc = 0x40 ∧ (fn = 3 ∨ fn = 4) then
    if fmt ≠ 0 ∨ q ≠ 0 ∨ space ≠ 0 then bad else scaled op (if wideOp opx then 1 else 0)
  else if opx ≠ 0 then bad
  else if opc = 0x90 ∨ opc = 0x91 then
    if !isMatFmt fmt || decide (16 < q) || decide (space ≠ 0) then bad
    else scaled op (passPrice fmt (if q = 0 then matQF fmt else q) + (if opc = 0x91 then 64 else 0))
  else if fmt ≠ 0 ∨ q ≠ 0 then bad
  else if opc ∈ [0x80, 0x81, 0x84, 0x85, 0x88] then
    if 5 < space then bad else scaled op (endPrice space 4096)
  else if space ≠ 0 then bad
  else scaled op (nominalOf opc fn)

end Sys2Proof.Machine
end

