-- ==== Sys2Proof/Machine/Bucket.lean ====
section
/-! DEFINITION. Token parties and their payment (R181 to R183). -/

namespace Sys2Proof.Machine

/-- The party of a demand: a crew slot, or 16 for the copy unit, whose demands are chunks (R176, R182). -/
def DemandKind.party : DemandKind → Nat
  | .group slot _ _ none | .matrix slot _ => slot
  | .group _ _ _ (some _) | .chunk _ _ _ => 16

def Demand.party (d : Demand) : Nat := d.kind.party

/-- Each party's oldest unpaid demand. -/
def presentedGo : List Demand → List Nat → List Demand
  | [], _ => []
  | d :: ds, seen =>
    if d.paid || seen.contains d.party then presentedGo ds seen
    else d :: presentedGo ds (d.party :: seen)

def Core.presented (c : Core) : List Demand := presentedGo c.demands []

/-- Lexicographic order. -/
def lexLe : List Nat → List Nat → Bool
  | [], _ => true
  | _ :: _, [] => false
  | a :: as, b :: bs => if a < b then true else if b < a then false else lexLe as bs

/-- Place of a party (R182): hungry first by hunger; then high-priority crews and the copy unit; then
low-priority crews; then age, the copy unit before a crew. -/
def Core.rankOf (c : Core) (d : Demand) : List Nat :=
  let base := match d.kind with
    | .chunk _ _ accepted => [1, accepted, 0, 0]
    | .group _ _ _ (some _) => [1, d.since, 0, 0]
    | .group slot _ _ none | .matrix slot _ =>
      match c.crew? slot with
      | some k => [if k.id.high then 1 else 2, k.id.entered, 1, k.id.age]
      | none => [3]
  match d.hungry with
  | some h => 0 :: h :: base
  | none => base

def insertDemand (rank : Demand → List Nat) (d : Demand) : List Demand → List Demand
  | [] => [d]
  | e :: es => if lexLe (rank d) (rank e) then d :: e :: es else e :: insertDemand rank d es

/-- Presented demands in order; the first is the head. -/
def Core.ordered (c : Core) : List Demand := c.presented.foldr (insertDemand c.rankOf) []

def Core.head? (c : Core) : Option Demand := c.ordered.head?

/-- A party's new demand may be paid at once (R66, R182). -/
def Core.canPay (c : Core) (party price : Nat) : Bool :=
  match c.ordered with
  | [] => decide (price ≤ c.tok.level)
  | h :: _ => !(c.presented.any fun d => decide (d.party = party))
      && decide (price + h.price ≤ c.tok.level)

/-- The head is the first party's demand; its wait restarts where it is a new one (R181). -/
def Core.headSync (c : Core) : Core :=
  let h := c.head?.map (·.kind)
  if h = c.tok.head then c else { c with tok := { c.tok with head := h, headWait := 0 } }

/-- The demand that the head rule pays next. -/
def Core.nextPaid (c : Core) : Option Demand :=
  match c.ordered with
  | [] => none
  | h :: ds =>
    if h.price ≤ c.tok.level then some h
    else ds.find? fun d => decide (d.price + h.price ≤ c.tok.level)

/-- A debit counts to a crew (R192, R195). -/
def State.countDebit (s : State) (c ctx : Nat) (id : BitVec 16) (price : Nat) : State :=
  s.modOwner c ctx id fun k => k.addCntr 5 price

/-- Mark or remove a paid demand. -/
def payMark (d : Demand) (e : Demand) : Option Demand :=
  if e.kind = d.kind then
    match d.kind with
    | .group _ _ _ _ => some { e with paid := true, hungry := none }
    | _ => none
  else some e

/-- Pay a demand: a group may issue again, a matrix request is earmarked, a chunk may move. -/
def State.payDemand (s : State) (c : Nat) (d : Demand) : State :=
  let s := s.modCore c fun k =>
    { k with tok := { k.tok with level := k.tok.level - d.price },
             demands := k.demands.filterMap (payMark d) }
  let s := s.modCrew c d.party fun k => { k with hungry := false }
  match d.kind with
  | .group slot _ _ _ =>
    match s.crew? c slot with
    | some k => s.countDebit c k.id.ctx k.id.crewId d.price
    | none => s
  | .matrix _ r =>
    let now := s.quadCycle (quadOf c)
    s.modQuad (quadOf c) fun q =>
      { q with table := q.table.map fun m =>
          if m.serial = r then { m with st := .earmarked now, price := d.price } else m }
  | .chunk r n _ =>
    let s := match (s.core c).reqs.find? fun q => decide (q.serial = r) with
      | some q => s.countDebit c q.ctx q.crewId d.price
      | none => s
    s.modCore c fun k =>
      { k with reqs := k.reqs.map fun q => if q.serial = r then { q with paid := q.paid ++ [n] } else q }

/-- Pay every demand that the head rule allows (R182). -/
def State.settleTokens (s : State) (c : Nat) : Nat → State
  | 0 => s
  | n + 1 =>
    match (s.core c).nextPaid with
    | none => s.modCore c Core.headSync
    | some d => (s.payDemand c d).settleTokens c n

/-- A new demand of a nominal price; it is paid at once where the head rule allows. -/
def State.demand (s : State) (c : Nat) (kind : DemandKind) (nominal : Nat) : State :=
  let d : Demand := { kind := kind, nominal := nominal, price := s.priceAt c nominal,
                      since := s.coreCycle c, paid := false, hungry := none }
  let s := s.modCore c fun k => { k with demands := k.demands ++ [d] }
  s.settleTokens c ((s.core c).demands.length + 1)

/-- One more in a counter of the field data (R344). -/
def addField (t : Tab Nat) (i n : Nat) : Tab Nat := tset t i (tget 0 t i + n)
def State.modField (s : State) (f : FieldData → FieldData) : State :=
  { s with device := { s.device with field := f s.device.field } }

/-- Parties whose demand has waited 64 core cycles are hungry from now on (R182): one that was paid while a later
demand of it had waited as long is hungry anew, behind those that were hungry before. -/
def State.noteHunger (s : State) (c : Nat) : State :=
  let now := s.coreCycle c
  let due := (s.core c).presented.filter fun d => d.hungry.isNone && decide (d.since + 64 ≤ now)
  due.foldl (fun s d =>
    let s := s.modField fun x => { x with hungry := addField x.hungry (dieOf c) 1 }
    let s := s.modCore c fun k =>
      { k with demands := k.demands.map fun e =>
          if e.kind = d.kind then { e with hungry := some now } else e }
    (s.modCore c Core.headSync).modCrew c d.party fun k => { (k.addCntr 3 1) with hungry := true }) s

/-- INJ or INJFLOOR (R179). -/
def Die.injects (d : Die) : Nat := max d.inj 36

/-- The flit at stop 0 is filled (R179), once a cycle. -/
def State.inject (s : State) (d : Nat) : State :=
  if (s.die d).injAt = s.cycle + 1 ∨ s.device.power.state ≠ .active then s
  else s.modDie d fun x =>
    let f := x.flits.headD { tok := 0, cid := 0, cv := false }
    { x with injAt := s.cycle + 1
             flits := { f with tok := min 4095 (f.tok + x.injects) } :: x.flits.drop 1 }

/-- The claim of a core has ended: its demand is met or gone (R181). -/
def Core.claimOver (c : Core) : Bool :=
  match c.tok.claimFor with
  | none => true
  | some kd => !c.demands.any fun d => decide (d.kind = kd) && !d.paid

/-- A core's bucket and its flit after the take of one visit (R181, R182). -/
def Core.visit (c : Core) (k : Nat) (f : Flit) : Core × Flit :=
  let t := c.tok
  let t := if t.level < t.tkcap / 4 ∨ c.presented ≠ [] then { t with filling := true } else t
  let want := if t.filling then t.tkcap - t.level else 0
  let mine := !f.cv || decide (f.cid = k)
  let take := if mine then min f.tok want else 0
  let t := { t with level := t.level + take }
  ({ c with tok := if t.tkcap ≤ t.level then { t with filling := false } else t }, { f with tok := f.tok - take })

/-- The end of a claim whose demand is met or gone (R181). -/
def Core.endClaim (c : Core) (k : Nat) (f : Flit) : Core × Flit :=
  if f.cv && decide (f.cid = k) && c.claimOver then
    ({ c with tok := { c.tok with holds := false, claimFor := none } }, { f with cv := false })
  else (c, f)

/-- A claim on the flit at the stop, where the head has waited 130 cycles (R181). -/
def Core.claim (c : Core) (k : Nat) (f : Flit) : Core × Flit :=
  if !f.cv && !c.tok.holds && decide (130 ≤ c.tok.headWait) && c.head?.isSome then
    ({ c with tok := { c.tok with holds := true, claimFor := c.head?.map (·.kind),
                                  claims := c.tok.claims + 1 } }, { f with cid := k, cv := true })
  else (c, f)

/-- A fabric cycle of the head's wait passes (R181). -/
def Core.headTick (c : Core) : Core :=
  let c := c.headSync
  if c.tok.head.isSome then { c with tok := { c.tok with headWait := c.tok.headWait + 1 } } else c

/-- The flit at a core's stop. -/
def State.flitAt (s : State) (c : Nat) : Flit :=
  ((s.die (dieOf c)).flits).getD (c % 64 + 1) { tok := 0, cid := 0, cv := false }

/-- Put back a core and its flit. -/
def State.setVisit (s : State) (c : Nat) (r : Core × Flit) : State :=
  (s.setCore c r.1).modDie (dieOf c) fun d => { d with flits := d.flits.set (c % 64 + 1) r.2 }

/-- A claim event (R181). -/
def State.claimFlit (s : State) (c : Nat) : State :=
  let r := (s.core c).claim (c % 64) (s.flitAt c)
  let n := r.1.tok.claims - (s.core c).tok.claims
  (s.setVisit c r).modField fun x => { x with claims := addField x.claims (dieOf c) n }

/-- One visit in this cycle (R181, R182): take, payment, the end of a claim, a new claim. -/
def State.takeFlit (s : State) (c : Nat) : State :=
  if (s.core c).tok.takeAt = s.cycle + 1 then s
  else
    let r := (s.core c).visit (c % 64) (s.flitAt c)
    let s := s.setVisit c ({ r.1 with tok := { r.1.tok with takeAt := s.cycle + 1 } }, r.2)
    let s := s.settleTokens c ((s.core c).demands.length + 1)
    let s := s.setVisit c ((s.core c).endClaim (c % 64) (s.flitAt c))
    (s.modCore c Core.headTick).claimFlit c

/-- A write of TKCAP (R180): the excess is discarded. -/
def TokSt.setCap (t : TokSt) (v : Nat) : TokSt := { t with tkcap := v, level := min t.level v }

end Sys2Proof.Machine
end

