-- ==== Sys2Proof/Machine/Issue.lean ====
section
/-! DEFINITION. What every instruction does before its own checks and after its effects: convergence
(R68 to R71), CONV (R70), PRICE (R177), STALL (R30), payment (R66, R172), going on (R28 to R31). -/

namespace Sys2Proof.Machine

/-- What the checks before an instruction's own leave: the group waits, trapped or paid nothing yet;
or it executes. -/
inductive Gate where
  | stop (s : State)
  | go (s : State) (g : Group)

/-! ## Going on -/

/-- The PC after the group's instruction. -/
def Group.next (g : Group) : Word := g.pc + BitVec.ofNat 32 g.len

/-- Every part of the group has executed the instruction. -/
def State.finishTo (s : State) (g : Group) (h : Hdr) (done : Bool) (next : Nat → Nat → Word) : State :=
  g.parts.foldl (fun s (slot, m) =>
    s.finishPart g.core slot m g.pc (next slot) h.stall.toNat g.clsA done) s

/-- Sequential flow. -/
def State.finish (s : State) (g : Group) (h : Hdr) : State := s.finishTo g h false fun _ _ => g.next

/-- Sequential flow after a completion point. -/
def State.finishDone (s : State) (g : Group) (h : Hdr) : State :=
  s.finishTo g h true fun _ _ => g.next

/-- A thread waits in an instruction whose STALL lets it go on at `tA` or `tB` (R28). -/
def Thread.waits (t : Thread) (st : TState) (tA tB : Nat) : Thread := { t with st := st, nextA := tA, nextB := tB }

/-- Lanes wait in the group's instruction (R28, R62): it has issued. -/
def State.wait (s : State) (g : Group) (h : Hdr) (slot : Nat) (m : Mask) (st : Nat → Thread → TState) : State :=
  let (tA, tB) := nextIssue (s.coreCycle g.core) h.stall.toNat g.clsA
  s.modLanes g.core slot m fun l t => t.waits (st l t) tA tB

/-- Lanes park in it. -/
def State.park (s : State) (g : Group) (h : Hdr) (slot : Nat) (m : Mask) (w : Nat → Wait) : State :=
  s.wait g h slot m fun l _ => .parked (w l)

/-- The lanes of a part that do not park: they have executed the instruction. -/
def State.finishRest (s : State) (g : Group) (h : Hdr) (slot : Nat) (m : Mask) (done : Bool) : State :=
  if m = 0 then s
  else s.finishPart g.core slot m g.pc (fun _ => g.next) h.stall.toNat g.clsA done

/-- A group counts as issued by a crew (R195), or no longer counts. -/
def State.counted (s : State) (c slot : Nat) : State := s.modCrew c slot fun k => k.addCntr 0 1
def State.uncount (s : State) (g : Group) : State :=
  g.parts.foldl (fun s (slot, _) => s.modCrew g.core slot fun k =>
    { k with counts := { k.counts with cntr := k.counts.cntr.set 0 (k.counts.cntr.getD 0 0 - 1) } }) s

/-- A group counts as a wide one issued by its crews (R195). -/
def State.countWide (s : State) (g : Group) : State :=
  g.parts.foldl (fun s (slot, _) => s.modCrew g.core slot fun k => k.addCntr 1 1) s

/-- The group is held (R66). -/
def State.hold (s : State) (g : Group) : State :=
  g.parts.foldl (fun s (slot, m) => s.modLanes g.core slot m fun _ t => { t with st := .held }) s

/-- The group issues again later: it could not be taken now. One that has paid stays paid (R172). -/
def State.retryLater (s : State) (g : Group) : State :=
  let s := s.uncount g
  let now := s.coreCycle g.core + 1
  if g.paid then
    let d : Demand := { kind := .group g.slot g.parts g.pc g.chunk, nominal := 0, price := 0, since := now - 1,
                        paid := true, hungry := none }
    (s.hold g).modCore g.core fun c => { c with demands := c.demands ++ [d] }
  else g.parts.foldl (fun s (slot, m) =>
    s.modLanes g.core slot m fun _ t => { t with st := .ready, nextA := now, nextB := now }) s

/-! ## Traps of a group -/

/-- A trap of one crew of the group. -/
def Group.trap (g : Group) (h : Hdr) (cls code : Nat) (arg : Word) (lt : Nat) (act lm : Mask) :
    TrapInfo :=
  ⟨cls, code, arg, lt, act, lm, g.pc, none, [], 0, g.next, h.stall.toNat⟩

/-- A trap in which no lane acts: the lane set of each crew is the lanes whose guard holds; a crew
without one has completed the instruction (R309). -/
def State.raise (s : State) (g : Group) (h : Hdr) (cls code : Nat) (arg : Word) (lt : Nat) : State :=
  (s.partsByAge g).foldl (fun s (slot, m) =>
    let on := s.on g h slot
    if on = 0 then s.finishPart g.core slot m g.pc (fun _ => g.next) h.stall.toNat g.clsA false
    else s.takeTrap g.core slot (g.trap h cls code arg lt m on)) s

/-- CONV in a group of one crew (R70); the lanes of the group where no guard holds. -/
def State.raiseConv (s : State) (g : Group) (h : Hdr) (code : Nat) (arg : Word) (act : Mask) : State :=
  let on := s.on { g with parts := [(g.slot, act)] } h g.slot
  s.takeTrap g.core g.slot (g.trap h 8 code arg 0 act (if on = 0 then act else on))

/-- The issue slot of this cycle is used (R26). -/
def State.markSlot (s : State) (g : Group) : State :=
  let now := s.coreCycle g.core
  s.modCore g.core fun c =>
    if g.clsA then { c with lastA := some now } else { c with lastB := some now }

/-- The group issues. -/
def State.useSlot (s : State) (g : Group) : State :=
  g.parts.foldl (fun s (slot, _) => s.counted g.core slot) (s.markSlot g)

/-! ## Convergence (R68 to R71, R120) -/

/-- Lanes of a set that wait at a PC in a state. -/
def Crew.waitsAt (k : Crew) (m : Mask) (st : TState) (pc : Word) : Mask :=
  maskFilter m fun l => match k.thread? l with
    | some t => decide (t.st = st) && decide (t.pc = pc)
    | none => false

/-- An exited thread among lanes: in a handler, only one of TRAPACT counts (R70, R166). -/
def Crew.exitedIn (k : Crew) (hand : Bool) (m : Mask) : Bool :=
  k.threads.any fun p => !p.2.live && m.getLsbD p.1 && (!hand || k.trap.frame.act.getLsbD p.1)

/-- Crew-collective instructions and RETT: the group that has gathered, or the group waits. -/
def State.converge (s : State) (i : Instr) (h : Hdr) (g : Group) (rett : Bool) : Gate :=
  match s.crew? g.core g.slot with
  | none => .stop s
  | some k =>
    let hand := k.handles g.mask
    let m := if hand then g.mask &&& k.trap.hact else g.mask
    let scope := if hand then k.live &&& k.trap.hact else k.live
    if !rett && k.exitedIn hand (~~~0) then .stop (s.raiseConv g h 1 0 m)
    else match k.splitAt m scope g.pc false with
      | some other => .stop (s.raiseConv g h 2 other m)
      | none =>
        let full := m ||| k.waitsAt scope .collective g.pc
        if scope &&& ~~~full ≠ 0 then
          .stop (s.modLanes g.core g.slot m fun _ t => { t with st := .collective })
        else
          let s := s.modLanes g.core g.slot full fun _ t => { t with st := .ready }
          let g := { g with parts := [(g.slot, full)] }
          let on := s.on g h g.slot
          if on ≠ 0 ∧ on ≠ full then .stop ((s.useSlot g).raiseConv g h 3 0 full)
          else if on = 0 then
            let next := match i with
              | .loop _ o => g.pc + BitVec.ofNat 32 (4 * o.endOff.toNat)
              | _ => g.next
            .stop ((s.useSlot g).finishTo g h i.completes fun _ _ => next)
          else .go s g

/-- The member mask a thread reads. -/
def Thread.member (t : Thread) (m : RegCode) : Mask := BitVec.ofNat 64 (t.pair m)

/-- The member mask of a lane; none of a lane without a thread. -/
def Crew.ownMask (k : Crew) (mr : RegCode) (l : Nat) : Mask :=
  match k.thread? l with
  | some t => t.member mr
  | none => 0

/-- Of the arriving lanes of a cross-lane PC, `same` share `mask`; another one names or is named by them (R71). DESIGN
CHOICE (log 17): of lanes that arrive together with different masks none is WAITING yet; the lowest lane's mask stands
for the group, and all of it takes MASKCYCLE. -/
def Crew.clash (k : Crew) (mr : RegCode) (inn same mask : Mask) : Bool :=
  (lanesOf (inn &&& ~~~same)).any fun l => mask.getLsbD l || decide (k.ownMask mr l &&& same ≠ 0)

/-- A waiting thread that `mask` names waits there under another mask, or waits elsewhere for one of `same`
(R71, R120). -/
def Thread.crosses (t : Thread) (pc : Word) (mask same : Mask) : Bool :=
  match t.st with
  | .crossLane m => if t.pc = pc then decide (m ≠ mask) else decide (m &&& same ≠ 0)
  | _ => false

/-- An early source of threads, in their own view of SBCHK (R30, R52). -/
def Crew.earlyIn (k : Crew) (m : Mask) (key : Nat) : Bool :=
  (lanesOf m).any fun l => match k.thread? l with
    | some t => (k.ctlOf t).fpctl.getLsbD 17 && t.early key
    | none => false

/-- Threads `m` of a crew, `on` of them with guards that hold, take STALL (R306): elsewhere the class is masked or
has no handler. -/
def Crew.stalls (k : Crew) (m on : Mask) : Bool :=
  let (hpc, masked) := k.handlerFor m 4 none
  decide (on ≠ 0) && (k.trap.handling || (!masked && decide (hpc ≠ 0)))

/-- Threads outside their own mask issue and go on: of their sources they read the guard and the mask pair, and take
STALL where one is early (R30, R120). -/
def State.passBy (s : State) (h : Hdr) (g : Group) (k : Crew) (mr : RegCode) (out : Mask) : State :=
  let s := (s.markSlot g).counted g.core g.slot
  let on := k.holding h out
  let keys := (if h.ge then [pKey h.gp] else []) ++ runKeys mr 2
  let key := if k.stalls out on then keys.find? (k.earlyIn out) else none
  match key with
  | some key => s.takeTrap g.core g.slot (g.trap h 4 0 (BitVec.ofNat 32 key) 0 out on)
  | none => s.finishPart g.core g.slot out g.pc (fun _ => g.next) h.stall.toNat g.clsA false

/-- Arriving lanes that are in their own masks: the NAMED ones gather, and issue when all are there (R71, R120).
`again`: a part of the group has issued already. -/
def State.gatherIn (s : State) (h : Hdr) (g : Group) (mr : RegCode) (inn : Mask) (again : Bool) : Gate :=
  match s.crew? g.core g.slot with
  | none => .stop s
  | some k =>
    let mask := k.ownMask mr (lowLane inn)
    let same := maskFilter inn fun l => decide (k.ownMask mr l = mask)
    let cycle := k.threads.any fun p => mask.getLsbD p.1 && p.2.crosses g.pc mask same
    if k.clash mr inn same mask || cycle then .stop (s.raiseConv g h 5 0 inn)
    else
      let full := same ||| k.waitsAt (mask &&& k.live) (.crossLane mask) g.pc
      if mask &&& k.live &&& ~~~full ≠ 0 then
        .stop (s.modLanes g.core g.slot same fun _ t => { t with st := .crossLane mask })
      else
        let s := s.modLanes g.core g.slot full fun _ t => { t with st := .ready }
        let g := { g with parts := [(g.slot, full)] }
        let s := if again then s.uncount g else s
        if k.exitedIn (k.handles full) mask then .stop ((s.useSlot g).raiseConv g h 4 0 full) else .go s g

/-- Cross-lane instructions: threads outside their own mask go on, the others gather (R71, R120). -/
def State.gather (s : State) (h : Hdr) (g : Group) (mr : RegCode) : Gate :=
  match s.crew? g.core g.slot with
  | none => .stop s
  | some k =>
    let out := maskFilter g.mask fun l => !(k.ownMask mr l).getLsbD l
    let inn := g.mask &&& ~~~out
    if out = 0 then s.gatherIn h g mr inn false
    else
      let s := s.passBy h g k mr out
      let inn := match s.crew? g.core g.slot with
        | some k => maskFilter inn k.liveAt
        | none => 0
      if inn = 0 then .stop s else s.gatherIn h g mr inn true

/-! ## CONV of the instruction itself (R70, R74) -/

/-- An instruction lies in the body of an active level. -/
def Loops.holds (o : Loops) (pc : Word) : Bool := o.levels.any fun v => v.body pc

/-- A 257th instruction of the bodies of a crew's active levels (R70 LOOPLEN, R72); else the buffer with it. -/
def Crew.buffered (k : Crew) (pc : Word) : Option Crew :=
  if !k.loops.holds pc || k.loops.buffer.contains pc then some k
  else if Config.loopBuffer ≤ k.loops.buffer.length then none
  else some { k with loops := { k.loops with buffer := k.loops.buffer ++ [pc] } }

/-- The crew in a condition of R70, for a group of it: the handler's threads, or all that are not (R166). -/
def Crew.convScope (k : Crew) (m : Mask) : Mask :=
  if k.handles m then k.live &&& k.trap.hact
  else if k.trap.handling then k.live &&& ~~~k.trap.hact else k.live

/-- Where BRA, BRX and RET would take a lane. -/
def jumpTarget (g : Group) (t : Thread) : Instr → Option Word
  | .bra _ off => some (g.pc + BitVec.ofInt 32 (4 * off.toInt))
  | .brx _ a | .ret _ a => some (t.reg a &&& 0xFFFFFFFC)
  | _ => none

/-- A taken branch leaves the innermost body for neither the body nor END (R74). -/
def Crew.loopx (k : Crew) (x : Context) (g : Group) (on : Mask) (i : Instr) : Bool :=
  (lanesOf on).any fun l =>
    match k.level? l, k.thread? l with
    | some (_, v), some t =>
      (match jumpTarget g t i with
        | some p => v.body g.pc && !v.body (x.start p) && decide (x.start p ≠ v.stop)
        | none => false)
    | _, _ => false

/-- The member number of a lane at a barrier of its block (R258, R259): a launch's barriers number blocks. -/
def State.memberOf (s : State) (k : Crew) (wide crewMem : Bool) (lane : Nat) : Nat :=
  let idx := ((tget? s.blocks k.id.block).map (·.index)).getD 0
  memberNo (if wide then idx else 0) k.id.index lane crewMem

/-- NOBAR, BARDECL and BAROVER (R70, R260). -/
def State.barFault (s : State) (g : Group) (k : Crew) (on : Mask) (o : BarOp) (arrives : Bool) :
    Option Nat :=
  if k.id.spawned then some 11
  else match s.bar? k.id.block o.bid.toNat with
    | none => some 12
    | some (wide, b) =>
      if b.level ≠ o.lvl.toNat ∨ b.crewMem ≠ o.cm then some 12
      else if arrives ∧ (lanesOf (if o.cm then g.mask else on)).any (fun l =>
          decide (b.opened + 2 ≤ (tget Member.zero b.members (s.memberOf k wide o.cm l)).count)) then some 13
      else none

/-- The CONV code of an instruction in a group of one crew, where a guard holds. -/
def State.convCode (s : State) (i : Instr) (h : Hdr) (g : Group) : Option Nat :=
  match s.crew? g.core g.slot with
  | none => none
  | some k =>
    let on := s.on g h g.slot
    if on = 0 then none
    else match i with
      | .loop _ o =>
        let n := k.loops.levels.length
        if 3 ≤ n ∨ o.lc.toNat ≠ n then some 6 else none
      | .bra _ _ | .brx _ _ | .ret _ _ =>
        if k.loopx (s.context k.id.ctx) g on i then some 8 else none
      | .lbrk _ => if (k.level? (lowLane on)).isNone then some 9 else none
      | .park _ _ _ => if k.id.spawned then none else some 10
      | .bar _ o | .bara _ o | .phase _ o => s.barFault g k on o true
      | .barw _ o => s.barFault g k on o false
      | _ => none

/-! ## STALL (R30) -/

/-- A source that a cross-lane instruction reads in PART lanes only: the others read A and the mask pair in every
NAMED lane (R120, R121, R125). -/
def partOnly (i : Instr) (key : Nat) : Bool :=
  match i with
  | .shfl _ o => decide (key = o.b.toNat) && decide (o.b ≠ o.a)
  | .vote _ o _ => decide (key = 512 + o.a.toNat)
  | _ => false

/-- The first early source of a crew's part in operand order, guard first. -/
def State.earlySource (s : State) (i : Instr) (h : Hdr) (g : Group) (slot : Nat) (m : Mask) :
    Option Nat :=
  match s.crew? g.core slot with
  | none => none
  | some k =>
    let ent := fun n => ((s.core g.core).entry k.id.ctx n).desc
    let dims := fun n => if (ent n).st = .free then 1 else (ent n).dims
    let wid := fun n => if (ent n).st = .free then 32 else (ent n).w
    let on := k.holding h m
    if h.ge && k.earlyIn m (pKey h.gp) then some (pKey h.gp)
    else (Instr.sources dims wid i).find? fun key =>
      k.earlyIn (if i.maskPair.isSome && !partOnly i key then m else on) key

/-- STALL for each crew of the group: those that trap leave it; where the class is masked or has no
handler the reads return what R30 gives. -/
def State.stallCheck (s : State) (i : Instr) (h : Hdr) (g : Group) : State × Group :=
  (s.partsByAge g).foldl (fun (s, g') (slot, m) =>
    let stay := (s, { g' with parts := g'.parts ++ [(slot, m)] })
    match s.earlySource i h g slot m, s.crew? g.core slot with
    | some key, some k =>
      let on := k.holding h m
      if !k.stalls m on then stay
      else ((s.counted g.core slot).takeTrap g.core slot (g.trap h 4 0 (BitVec.ofNat 32 key) 0 m on), g')
    | _, _ => stay) (s, { g with parts := [] })

/-! ## Payment (R66, R172) -/

/-- The oldest crew of a group. -/
def State.oldest (s : State) (g : Group) : Nat := (((s.partsByAge g).head?).map (·.1)).getD 0

/-- Debit a nominal price where the bucket covers it under the head rule, else hold the group (R66,
R182); `chunk`: the price is that of a first chunk of so many bytes, a demand of the copy unit (R176). -/
def State.payGroup (s : State) (g : Group) (nominal : Nat) (chunk : Option Nat) : Gate :=
  let price := s.priceAt g.core nominal
  let slot := s.oldest g
  let kind : DemandKind := .group slot g.parts g.pc chunk
  if g.paid then .go (s.countWide g) g
  else if price = 0 then .go s g
  else if (s.core g.core).canPay kind.party price then
    let s := s.modCore g.core fun c => { c with tok := { c.tok with level := c.tok.level - price } }
    match s.crew? g.core slot with
    | some k => .go ((s.countDebit g.core k.id.ctx k.id.crewId price).countWide g) g
    | none => .go (s.countWide g) g
  else .stop ((s.hold g).demand g.core kind nominal)

/-! ## The gate -/

/-- Nominal price of an instruction that pays as a group or as a matrix request (R173). -/
def gatePrice : Instr → Nat
  | .mma _ o => passPrice o.fa.toNat (o.prec.toNat + 1)
  | .mmas _ o => passPrice o.fa.toNat (o.prec.toNat + 1) + 64
  | .msca _ _ => 30
  | .mlda _ _ | .mdrn _ _ => 16
  | .mdra _ _ => 24
  | .atom _ _ | .atred _ _ => 1
  | i => classAPrice i

/-- PRICE and STALL, in that order (R308); `cost` is the price the check of R177 takes. -/
def State.gateTail (s : State) (i : Instr) (h : Hdr) (g : Group) (cost : State → Group → Nat) : Gate :=
  let price := cost s g
  if (s.core g.core).tok.tkcap < price then
    .stop ((s.useSlot g).raise g h 9 1 (BitVec.ofNat 32 price) 0)
  else
    let (s', g') := s.stallCheck i h g
    if g'.parts.isEmpty then .stop (s'.markSlot g)
    else if g.clsA then s'.payGroup g' (gatePrice i) none
    else .go s' g'

/-- LOOPLEN for every crew of the group, each of which traps as a whole, then the CONV codes of the instruction (R70). -/
def State.gateLoop (s : State) (i : Instr) (h : Hdr) (g : Group) (cost : State → Group → Nat) : Gate :=
  let full := g.parts.filter fun (slot, _) => match s.crew? g.core slot with
    | some k => (k.buffered g.pc).isNone
    | none => false
  let s := g.parts.foldl (fun s (slot, _) =>
    s.modCrew g.core slot fun k => (k.buffered g.pc).getD k) s
  let s := full.foldl (fun s (slot, m) =>
    let on := s.on g h slot
    let act := ((s.crew? g.core slot).map fun k => k.convScope m).getD m
    (s.counted g.core slot).takeTrap g.core slot (g.trap h 8 7 0 0 act (if on = 0 then m else on))) s
  let g := { g with parts := g.parts.filter fun p => !full.contains p }
  if g.parts.isEmpty then .stop (s.markSlot g)
  else match s.convCode i h g with
    | some code => .stop ((s.useSlot g).raiseConv g h code 0 g.mask)
    | none => s.gateTail i h g cost

/-- The checks of R308 up to STALL, and the payment of class-A groups. -/
def State.gate (s : State) (i : Instr) (h : Hdr) (g : Group) (cost : State → Group → Nat) : Gate :=
  if g.paid then .go (if g.clsA then s.countWide g else s) g
  else
    let rett := match s.crew? g.core g.slot with
      | some k => i.isRett && k.handles g.mask
      | none => false
    let first := match i.maskPair with
      | some mr => s.gather h g mr
      | none => if i.collective || rett then s.converge i h g rett else .go s g
    match first with
    | .stop s => .stop s
    | .go s g => s.gateLoop i h g cost

/-- An instruction: the gate, then its own checks and effects on the issuing group; `cost` is the
price that must not pass TKCAP. Without an issuing group nothing happens. -/
def State.runAt (s : State) (i : Instr) (h : Hdr) (cost : State → Group → Nat)
    (body : State → Group → State) : Host.Outcome State Fault Refusal :=
  match s.cur with
  | none => .next s
  | some g =>
    match { s with cur := none }.gate i h g cost with
    | .stop s => .next s
    | .go s g => .next (body (s.useSlot g) g)

/-- An instruction whose price does not depend on the state of its operands. -/
def State.run (s : State) (i : Instr) (h : Hdr) (body : State → Group → State) :
    Host.Outcome State Fault Refusal :=
  s.runAt i h (fun s g => s.priceAt g.core (gatePrice i)) body

/-- An event: its effect where it may take place, else nothing. -/
def State.event (s : State) (ok : Bool) (body : State → State) : Host.Outcome State Fault Refusal :=
  .next (if ok then body s else s)

/-! ## Shapes of execution -/

/-- Register results of an instruction without flags: per thread for a v destination, once for an s
destination (R22, R108). -/
def State.write (s : State) (g : Group) (h : Hdr) (d : RegCode) (lat : Nat)
    (f : Nat → Crew → Thread → Word) : State :=
  g.parts.foldl (fun s (slot, m) =>
    s.modCrew g.core slot fun k =>
      let on := k.holding h m
      if d.isS then
        match k.thread? (lowLane on) with
        | some t => if on = 0 then k else k.writeS m d.toNat (f (lowLane on) k t) lat
        | none => k
      else k.modLanes on fun l t => t.write d.toNat (f l k t) lat) s

/-- A 64-bit result in a pair (R100). -/
def State.writePair (s : State) (g : Group) (h : Hdr) (d : RegCode) (lat : Nat)
    (f : Nat → Crew → Thread → Nat) : State :=
  let lo := s.write g h d lat fun l k t => BitVec.ofNat 32 (f l k t)
  lo.write g h (d + 1) lat fun l k t => BitVec.ofNat 32 (f l k t / 2 ^ 32)

/-- A read that the order log keeps: each crew's lanes whose guards hold get their values, or what a replay
imposes (R322, R323); `wide`: a pair. -/
def State.readLogged (s : State) (g : Group) (h : Hdr) (d : RegCode) (wide : Bool) (lat : Nat)
    (f : Nat → Crew → Thread → Nat) : State :=
  g.parts.foldl (fun s (slot, m) =>
    match s.crew? g.core slot with
    | none => s
    | some k =>
      let on := k.holding h m
      let ls := if d.isS then (lanesOf on).take 1 else lanesOf on
      if on = 0 then s
      else
        let vals := ls.map fun l => match k.thread? l with
          | some t => f l k t
          | none => 0
        let r := s.logReads k vals
        (ls.zip r.2).foldl (fun s (l, v) => s.modCrew g.core slot fun k =>
          let k := k.writeKey l m d.toNat (BitVec.ofNat 32 v) lat
          if wide then k.writeKey l m (d.toNat + 1) (BitVec.ofNat 32 (v / 2 ^ 32)) lat else k) r.1) s

/-- A predicate result. -/
def State.writeP (s : State) (g : Group) (h : Hdr) (p : PIdx) (lat : Nat)
    (f : Nat → Crew → Thread → Bool) : State :=
  g.parts.foldl (fun s (slot, m) =>
    s.modCrew g.core slot fun k =>
      k.modLanes (k.holding h m) fun l t =>
        t.write (pKey p) (BitVec.ofNat 32 (f l k t).toNat) lat) s

/-- The predicate that a 9-bit destination names (R20). -/
def predOf (c : RegCode) : PIdx := BitVec.ofNat 6 c.toNat

/-- Results written at a completion point, in every live thread of a crew's part (R31, R363). -/
def State.putAll (s : State) (g : Group) (key : Nat) (v : Word) : State :=
  s.modLanes g.core g.slot g.mask fun _ t => t.put key v

/-- An integer-group instruction: results at a latency, then sequential flow. -/
def runInt (i : Instr) (h : Hdr) (d : RegCode) (lat : Nat) (f : Thread → Word) (s : State) :
    Host.Outcome State Fault Refusal :=
  s.run i h fun s g => (s.write g h d lat fun _ _ t => f t).finish g h

end Sys2Proof.Machine
end

