-- ==== Sys2Proof/Machine/Flags.lean ====
section
/-! DEFINITION. The functions of the integer group (R107), and how FP, packed and convert
instructions write results, raise flags and take FPX (R52, R53, R111). -/

namespace Sys2Proof.Machine

/-! ## Integer functions (R107) -/

/-- Exact results clamped to S32 or Z32 (R107 `.sat`). -/
def clampS (v : Int) : Word := BitVec.ofInt 32 (clampInt (-(2 ^ 31)) (2 ^ 31 - 1) v)
def clampZ (v : Int) : Word := BitVec.ofInt 32 (clampInt 0 (2 ^ 32 - 1) v)

/-- MOD[0] is U, MOD[1] is SAT (R106). -/
def modU (m : BitVec 3) : Bool := m.getLsbD 0
def modSat (m : BitVec 3) : Bool := m.getLsbD 1

def fnAdd (m : BitVec 3) (a b : Word) : Word :=
  if modSat m then
    (if modU m then clampZ ((a.toNat : Int) + b.toNat) else clampS (a.toInt + b.toInt))
  else a + b

def fnSub (m : BitVec 3) (a b : Word) : Word :=
  if modSat m then
    (if modU m then clampZ ((a.toNat : Int) - b.toNat) else clampS (a.toInt - b.toInt))
  else a - b

/-- Bits [63:32] of the exact product. -/
def fnMulh (m : BitVec 3) (a b : Word) : Word :=
  if modU m then BitVec.ofNat 32 (a.toNat * b.toNat / 2 ^ 32)
  else BitVec.ofInt 32 (a.toInt * b.toInt / 2 ^ 32)

/-- Order of two patterns: −1, 0 or 1. -/
def icmp (u : Bool) (a b : Word) : Int :=
  let x : Int := if u then a.toNat else a.toInt
  let y : Int := if u then b.toNat else b.toInt
  if x < y then -1 else if y < x then 1 else 0

def fnMin (m : BitVec 3) (a b : Word) : Word := if icmp (modU m) b a < 0 then b else a
def fnMax (m : BitVec 3) (a b : Word) : Word := if icmp (modU m) a b < 0 then b else a

def fnAbs (b : Word) : Word := if b.toInt < 0 then 0 - b else b

def fnShl (a b : Word) : Word := if b.toNat < 32 then a <<< b.toNat else 0
def fnShr (a b : Word) : Word := if b.toNat < 32 then a >>> b.toNat else 0
def fnSar (a b : Word) : Word := a.sshiftRight (min b.toNat 31)

/-- Field position and length of BFX and BFI. -/
def fieldPos (b : Word) : Nat := b.toNat % 32
def fieldLen (b : Word) : Nat := min (bitsOf b.toNat 8 6) (32 - fieldPos b)

def fnBfx (m : BitVec 3) (a b : Word) : Word :=
  let len := fieldLen b
  let f := bitsOf a.toNat (fieldPos b) len
  if len = 0 then 0
  else if !modU m && bitOf f (len - 1) then BitVec.ofInt 32 ((f : Int) - (2 ^ len : Nat))
  else BitVec.ofNat 32 f

def fnBfi (a b d : Word) : Word :=
  BitVec.ofNat 32 (setBits d.toNat (fieldPos b) (fieldLen b) a.toNat)

def fnPopc (b : Word) : Word :=
  BitVec.ofNat 32 ((List.range 32).filter fun i => b.getLsbD i).length

def fnClz (b : Word) : Word := BitVec.ofNat 32 (if b = 0 then 32 else 31 - Nat.log2 b.toNat)

def fnBrev (b : Word) : Word :=
  BitVec.ofNat 32 ((List.range 32).foldl (fun acc i => 2 * acc + (b.getLsbD i).toNat) 0)

/-- ISET: MOD is the condition, EXT[0] is U (R106). -/
def fnSet (m : BitVec 3) (e : BitVec 2) (a b : Word) : Bool :=
  condHolds m.toNat (icmp (e.getLsbD 0) a b)

/-! ## FP results -/

/-- The result of one lane: the destination's key and value, and the flags raised. -/
structure LaneRes where
  key : Nat
  val : Word
  flags : Nat
  deriving DecidableEq, Repr

/-- A register result. -/
def FR.to (r : FR) (d : RegCode) : LaneRes := ⟨d.toNat, BitVec.ofNat 32 r.bits, r.flags⟩

/-- The enabled flags among those raised (R51). -/
def enabledOf (fpctl : Word) (flags : Nat) : Nat := flags &&& bitsOf fpctl.toNat 8 5

/-- FTZ (R49). -/
def ftzOf (c : Ctl) : Bool := c.fpctl.getLsbD 16

/-- FPCTL as a lane reads it: the distances of R52 are those of its own thread. -/
def Crew.fpctlAt (k : Crew) (l : Nat) : Word :=
  match k.thread? l with
  | some t => (k.ctlOf t).fpctl
  | none => k.ctl.fpctl

/-- Results of a crew's part (R52, R53, R111): every raised flag is ORed into FPCTL at the latency;
lanes that raised one that they have enabled keep their destinations and FPX is taken. -/
def State.fpPart (s : State) (g : Group) (h : Hdr) (d : RegCode) (lat slot : Nat) (m : Mask)
    (res : List (Nat × LaneRes)) (all : Bool) : State :=
  match s.crew? g.core slot with
  | none => s
  | some k =>
    let raised := fun (x : Nat × LaneRes) => enabledOf (k.fpctlAt x.1) x.2.flags
    let union := res.foldl (fun acc (_, r) => acc ||| r.flags) 0
    let bad := res.filter fun x => decide (raised x ≠ 0)
    let faulty := if all && !bad.isEmpty then res else bad
    let lm := maskOf (faulty.map (·.1))
    let once := fun (l : List (Nat × LaneRes)) => if d.isS then l.take 1 else l
    let s := s.modCrew g.core slot fun k =>
      let k := (once res).foldl (fun k (l, r) =>
        if lm.getLsbD l then k else k.writeKey l m r.key r.val lat) k
      if union = 0 then k else k.writeCtl m (.fpOr (BitVec.ofNat 32 union)) lat s.serial
    let s := s.bump
    if faulty.isEmpty then
      s.finishPart g.core slot m g.pc (fun _ => g.next) h.stall.toNat g.clsA false
    else
      let code := bad.foldl (fun acc x => acc ||| raised x) 0
      let held := (once faulty).map fun (l, r) => (l, r.key, r.val)
      s.takeTrap g.core slot
        ⟨0, code, BitVec.ofNat 32 d.toNat, 0, m, lm, g.pc, none, held, lat, g.next, h.stall.toNat⟩

/-- The lanes of a part with their results, each under FTZ as its thread reads it (R52). -/
def Crew.results (k : Crew) (on : Mask) (f : Bool → Thread → LaneRes) : List (Nat × LaneRes) :=
  (lanesOf on).filterMap fun l => (k.thread? l).map fun t => (l, f (ftzOf (k.ctlOf t)) t)

/-- An FP, packed or convert instruction: `f` gets FTZ and a thread (R111). -/
def runFp (i : Instr) (h : Hdr) (d : RegCode) (lat : Nat) (f : Bool → Thread → LaneRes) (s : State) :
    Host.Outcome State Fault Refusal :=
  s.run i h fun s g => (s.partsByAge g).foldl (fun s (slot, m) =>
    match s.crew? g.core slot with
    | none => s
    | some k => s.fpPart g h d lat slot m (k.results (k.holding h m) f) false) s

end Sys2Proof.Machine
end

