-- ==== Sys2Proof/Machine/Control.lean ====
section
/-! DEFINITION. Control instructions (R85 to R93). -/

namespace Sys2Proof.Machine

/-- An instruction without an effect of its own. -/
def runNop (i : Instr) (h : Hdr) (s : State) : Host.Outcome State Fault Refusal :=
  s.run i h fun s g => s.finish g h

/-- NOP (R86). -/
def execNop (h : Hdr) (s : State) : Host.Outcome State Fault Refusal := runNop (.nop h) h s

/-- NOP in G3. -/
def execNopG3 (h : Hdr) (s : State) : Host.Outcome State Fault Refusal := runNop (.nopG3 h) h s

/-- NOP in G4. -/
def execNopG4 (h : Hdr) (s : State) : Host.Outcome State Fault Refusal := runNop (.nopG4 h) h s

/-- YIELD: a hint (R86). -/
def execYield (h : Hdr) (s : State) : Host.Outcome State Fault Refusal := runNop (.yield h) h s

/-- Where each lane goes: the target where its guard holds (R19). -/
def State.branch (s : State) (g : Group) (h : Hdr) (target : Thread → Word) : Nat → Nat → Word :=
  fun slot l =>
    match (s.crew? g.core slot).bind fun k => k.thread? l with
    | some t => if t.guard h then target t else g.next
    | none => g.next

/-- A PC-relative target. -/
def Group.rel (g : Group) (off : Int) : Word := g.pc + BitVec.ofInt 32 (4 * off)

/-- A register target, bits [1:0] cleared (R88). -/
def Thread.target (t : Thread) (a : RegCode) : Word := t.reg a &&& 0xFFFFFFFC

/-- BRA (R87). -/
def execBra (h : Hdr) (off : BitVec 24) (s : State) : Host.Outcome State Fault Refusal :=
  s.run (.bra h off) h fun s g =>
    s.finishTo g h false (s.branch g h fun _ => g.rel off.toInt)

/-- BRX (R88). -/
def execBrx (h : Hdr) (a : RegCode) (s : State) : Host.Outcome State Fault Refusal :=
  s.run (.brx h a) h fun s g => s.finishTo g h false (s.branch g h fun t => t.target a)

/-- RET (R88). -/
def execRet (h : Hdr) (a : RegCode) (s : State) : Host.Outcome State Fault Refusal :=
  s.run (.ret h a) h fun s g => s.finishTo g h false (s.branch g h fun t => t.target a)

/-- CALL (R89): the link is PC + 8, at latency 2. -/
def execCall (h : Hdr) (d : RegCode) (off : BitVec 20) (s : State) : Host.Outcome State Fault Refusal :=
  s.run (.call h d off) h fun s g =>
    let next := s.branch g h fun _ => g.rel off.toInt
    (s.write g h d 2 fun _ _ _ => g.pc + 8).finishTo g h false next

/-- CALLX (R89). -/
def execCallx (h : Hdr) (d a : RegCode) (s : State) : Host.Outcome State Fault Refusal :=
  s.run (.callx h d a) h fun s g =>
    let next := s.branch g h fun t => t.target a
    (s.write g h d 2 fun _ _ _ => g.pc + 8).finishTo g h false next

/-- EXIT (R78, R90): threads whose guard holds retire, the others go on. -/
def execExit (h : Hdr) (s : State) : Host.Outcome State Fault Refusal :=
  s.run (.exit h) h fun s g =>
    g.parts.foldl (fun s (slot, m) =>
      let on := s.on g h slot
      let s := s.finishPart g.core slot (m &&& ~~~on) g.pc (fun _ => g.next) h.stall.toNat g.clsA false
      if on = 0 then s else s.exitLanes g.core slot on true) s

/-- LBRK (R92): threads whose guard holds are broken out of the innermost level and wait at its END. -/
def execLbrk (h : Hdr) (s : State) : Host.Outcome State Fault Refusal :=
  s.run (.lbrk h) h fun s g =>
    match s.crew? g.core g.slot with
    | none => s
    | some k =>
      let on := k.holding h g.mask
      let stop := ((k.level? (lowLane on)).map fun v => v.2.stop).getD g.next
      let next := s.branch g h fun _ => stop
      (s.modLanes g.core g.slot on fun _ t => { t with broken := true }).finishTo g h false next

/-- The session stops and prints this crew: it is on the crew's context, and on its block where a focus names
one (R86, R360). -/
def State.watched (s : State) (k : Crew) : Bool :=
  let v := s.device.session
  decide (v.attached = some k.id.ctx) && match v.focus with
    | none => true
    | some (x, y) => match tget? s.blocks k.id.block with
      | some b => decide (b.xyz.take 2 = [x, y])
      | none => false

/-- A crew stops: commands speak of it, and it may not issue until one lets it go on. -/
def Session.stop (v : Session) (r : SlotRef) (age : Nat) (pc : Word) (code : Nat) : Session :=
  { v with stops := ⟨r, none⟩ :: v.stops.filter fun x => decide (x.ref ≠ r)
           stopPc := pc, code := code, speaks := some (r, age), spent := 0 }

/-- BKPT (R86): with a debug session on the context, the group stops after the instruction and nupdb
receives the code and the PC. -/
def execBkpt (h : Hdr) (code : BitVec 16) (s : State) : Host.Outcome State Fault Refusal :=
  s.run (.bkpt h code) h fun s g =>
    match s.crew? g.core g.slot with
    | none => s
    | some k =>
      let on := k.holding h g.mask
      let s := s.finish g h
      if on ≠ 0 ∧ s.watched k then
        let s := s.modLanes g.core g.slot g.mask fun _ t =>
          if t.st = .ready then { t with st := .parked .debugger } else t
        let v := s.device.session.stop ⟨g.core, g.slot⟩ k.id.age g.pc code.toNat
        { s with device := { s.device with session := v } }
      else s

/-- SLEEPT (R93): lanes sleep until TICK reaches the pair; a completion point. -/
def execSleept (h : Hdr) (a : RegCode) (s : State) : Host.Outcome State Fault Refusal :=
  s.run (.sleept h a) h fun s g =>
    match s.crew? g.core g.slot with
    | none => s
    | some k =>
      let tick := s.coreTick g.core
      let sleeps := maskFilter (k.holding h g.mask) fun l => match k.thread? l with
        | some t => decide (tick < t.pair a)
        | none => false
      let s := s.finishRest g h g.slot (g.mask &&& ~~~sleeps) true
      if sleeps = 0 then s
      else s.wait g h g.slot sleeps fun _ t => .sleeping (t.pair a)

/-- LOOP (R91): opens a level, or goes on at END when the count is 0. -/
def execLoop (h : Hdr) (o : LoopOp) (s : State) : Host.Outcome State Fault Refusal :=
  s.run (.loop h o) h fun s g =>
    match s.leader? g h with
    | none => s.finishDone g h
    | some (k, t) =>
      let count : Word := if o.cs then t.reg o.c else BitVec.ofNat 32 o.count.toNat
      let x := s.context k.id.ctx
      let stop := x.start (g.pc + BitVec.ofNat 32 (4 * o.endOff.toNat))
      let v : LoopLevel :=
        ⟨x.start (g.pc + 12), stop, k.trap.handling && decide (g.mask &&& k.trap.hact ≠ 0)⟩
      let levels := if count = 0 then k.loops.levels else k.loops.levels ++ [v]
      let s := s.modCrew g.core g.slot fun k =>
        { k with loops := ⟨k.loops.lc.set o.lc.toNat count, levels, k.loops.buffer⟩ }
      s.finishTo g h true fun _ _ => if count = 0 then stop else v.start

end Sys2Proof.Machine
end

