-- ==== Sys2Proof/Machine/Access.lean ====
section
/-! DEFINITION. Thread accesses to the scratchpad (R137 to R146, R159, R163 to R165). -/

namespace Sys2Proof.Machine

/-! ## The entry -/

/-- The lanes of a group that act on an entry, in lane order, with their elements' coordinates. -/
abbrev Touch := Nat × Nat × List (List Nat)

/-- Guard-holding threads of the group in lane order, whichever their crew (R139). -/
def State.actors (s : State) (g : Group) (h : Hdr) : List (Nat × Nat × Thread) :=
  let parts := g.parts.map fun (slot, _) => (slot, s.on g h slot)
  (List.range 64).flatMap fun l => parts.filterMap fun (slot, on) =>
    if on.getLsbD l then ((s.crew? g.core slot).bind fun k => k.thread? l).map fun t => (slot, l, t)
    else none

/-- BOUNDS with a code under which no lane acts (R138). -/
def State.bounds (s : State) (g : Group) (h : Hdr) (code n : Nat) (arg : Word) : State :=
  s.raise g h 3 code arg n

/-- A part of the group parks behind an entry, keeping its place in the order (R160, R165). -/
def State.parkBehind (s : State) (g : Group) (slot n : Nat) (m : Mask) : State :=
  let order := s.serial
  (s.modLanes g.core slot m fun _ t => { t with st := .parked (.entry n order), released := none }).bump

/-- The group is threads of the handler that rebuilds the entry (R165). -/
def State.inHandler (s : State) (g : Group) (n slot : Nat) (e : Entry) (m : Mask) : Bool :=
  match s.crew? g.core slot with
  | none => false
  | some k => decide (e.rebuilder = some slot) && k.trap.handling && decide (k.trap.frame.cls = 1)
      && decide (k.trap.frame.lt.toNat = n) && decide (m &&& k.trap.hact ≠ 0)

/-- LOSS of one part (R164): `code` LOST makes its crew the rebuilder. -/
def State.loss (s : State) (g : Group) (h : Hdr) (ctx n slot : Nat) (m : Mask) (code : Nat) : State :=
  let e := (s.core g.core).entry ctx n
  let on := s.on g h slot
  let s := if code = 1 ∧ e.desc.st = .lost then
      s.modCore g.core fun c => c.setEntry ctx n
        { e with desc := { e.desc with st := .rebuild }, rebuilder := some slot, revived := false,
                 doomed := false }
    else s
  let s := s.modLanes g.core slot m fun _ t => { t with released := none }
  let info := g.trap h 1 code (BitVec.ofNat 32 e.desc.rank) n m on
  s.takeTrap g.core slot { info with lossPc := some e.desc.handler }

/-- Where the rebuild of an entry was given up before a thread parked behind it executed its access again (R165). -/
def Thread.gaveUp (t : Thread) (n : Nat) : Bool :=
  match t.released with
  | some r => decide (r.entry = n) && r.given
  | none => false

/-- A thread's place among those released from an entry. -/
def Thread.placeAt (t : Thread) (n : Nat) : Option Nat :=
  match t.released with
  | some r => if r.entry = n then some r.order else none
  | none => none

/-- A part of the group holds a thread that takes ABANDONED. -/
def State.gaveUp (s : State) (g : Group) (n slot : Nat) (m : Mask) : Bool :=
  match s.crew? g.core slot with
  | some k => k.lanesWhere (·.gaveUp n) &&& m != 0
  | none => false

/-- The places of the group's threads among those released from an entry. -/
def State.placesOf (s : State) (g : Group) (n : Nat) : List Nat :=
  g.parts.flatMap fun (slot, m) => match s.crew? g.core slot with
    | some k => (lanesOf m).filterMap fun l => (k.thread? l).bind fun t => t.placeAt n
    | none => []

/-- A crew that may issue has a released thread that parked behind the entry earlier: it goes first (R165). -/
def State.mustYield (s : State) (g : Group) (ctx n : Nat) : Bool :=
  (s.placesOf g n).any fun o => (s.core g.core).slots.any fun (_, k) =>
    decide (k.id.ctx = ctx) && decide (k.st = .run) && k.evict.isNone
      && k.threads.any fun (_, t) => decide (t.st = .ready) && match t.placeAt n with
        | some p => decide (p < o)
        | none => false

/-- An access to an entry that is not open, or whose rebuild was given up (R160, R163 to R165): the parts that take
LOSS, and the others, which park behind the entry. -/
def State.notOpen (s : State) (g : Group) (h : Hdr) (ctx n : Nat) (e : Entry) : State :=
  let (given, rest) := (s.partsByAge g).partition fun (slot, m) => s.gaveUp g n slot m
  let (lost, wait) := match e.desc.st with
    | .lost => (rest.take 1, rest.drop 1)
    | .rebuild => rest.partition fun (slot, m) => s.inHandler g n slot e m && !e.revived
    | _ => ([], rest)
  let s := wait.foldl (fun s (slot, m) => s.parkBehind g slot n m) s
  let s := given.foldl (fun s (slot, m) => s.loss g h ctx n slot m 2) s
  lost.foldl (fun s (slot, m) => s.loss g h ctx n slot m 1) s

/-- The entry is open to the group (R165). -/
def State.openTo (s : State) (g : Group) (n : Nat) (e : Entry) : Bool :=
  match e.desc.st with
  | .live => true
  | .rebuild => e.revived && !e.doomed && g.parts.all fun (slot, m) => s.inHandler g n slot e m
  | _ => false

/-- Whether every element of a lane may be acted on (R137). -/
def Desc.allOk (d : Desc) (es : List (List Nat)) : Bool := d.clampz || es.all d.inBounds

/-- The checks of a thread access in order (R138, R308): the entry's descriptor and the lanes that act
with their elements, or the group has trapped, parked or done nothing. -/
def State.accessEntry (s : State) (g : Group) (h : Hdr) (n : Nat) (accept : Desc → Bool)
    (runs : Desc → List (RegCode × Nat)) (elems : Desc → List (Nat × Nat × Thread) → List Touch) :
    State ⊕ (Desc × List Touch) :=
  let ctx := s.ctxOf g
  let e := (s.core g.core).entry ctx n
  let d := e.desc
  let vallot := ((s.crew? g.core g.slot).map (·.id.vallot)).getD 256
  let who := s.actors g h
  if s.mustYield g ctx n then .inl (s.retryLater g)
  else if d.st = .free ∨ e.freeing then .inl (s.bounds g h 2 n 0)
  else if !accept d then .inl (s.bounds g h 3 n 0)
  else if !(runs d).all (fun (c, k) => regRunOk vallot c k) then .inl (s.bounds g h 6 n 0)
  else
    let ts := elems d who
    let shut := !s.openTo g n e || g.parts.any fun (slot, m) => s.gaveUp g n slot m
    if shut && ts.any (fun (_, _, es) => d.allOk es) then .inl (s.notOpen g h ctx n e)
    else .inr (d, ts)

/-! ## Passes (R140) -/

/-- The units of an element. -/
def Desc.unitsOf (d : Desc) (c : List Nat) : List Nat :=
  let (u, _) := d.posOf (linear d.exts c)
  if d.isPlane then (List.range (fmtPlanes d.fmt)).map (u + ·) else [u]

/-- The largest number of distinct units that elements touch in one bank. -/
def Desc.passes (d : Desc) (cs : List (List Nat)) : Nat :=
  let us := (cs.flatMap d.unitsOf).eraseDups
  let banks := us.map fun u => (d.cellOf u).1
  banks.foldl (fun best b => max best (banks.filter fun x => decide (x = b)).length) 0

/-- The next thread access issues no earlier than issue + c (R140, R144). -/
def State.spend (s : State) (g : Group) (c : Nat) : State :=
  let now := s.coreCycle g.core
  s.modCore g.core fun k => { k with nextAccess := now + c }

/-! ## One shape for all accesses -/

/-- After the lanes outside TRAPLM have acted: crews with faulting lanes take BOUNDS COORD, the others
go on (R138, R142). -/
def State.coord (s : State) (g : Group) (h : Hdr) (n : Nat) (d : Desc) (bad : List Touch) (done : Bool) :
    State :=
  (s.partsByAge g).foldl (fun s (slot, m) =>
    match bad.filter fun (sl, _, _) => decide (sl = slot) with
    | [] => s.finishPart g.core slot m g.pc (fun _ => g.next) h.stall.toNat g.clsA done
    | (sl, l, es) :: r =>
      let dim := ((es.find? fun c => !d.inBounds c).map d.badDim).getD 0
      let lm := maskOf (((sl, l, es) :: r).map fun x => x.2.1)
      s.takeTrap g.core slot (g.trap h 3 1 (BitVec.ofNat 32 dim) n m lm)) s

/-- A thread access: checks, the acting lanes' effect, passes, COORD. -/
def runAccess (i : Instr) (h : Hdr) (n : Nat) (accept : Desc → Bool)
    (runs : Desc → List (RegCode × Nat)) (elems : Desc → List (Nat × Nat × Thread) → List Touch)
    (effect : State → Group → Desc → List Touch → State) (s : State) :
    Host.Outcome State Fault Refusal :=
  s.run i h fun s g =>
    if s.coreCycle g.core < (s.core g.core).nextAccess then s.retryLater g
    else match s.accessEntry g h n accept runs elems with
      | .inl s => s
      | .inr (d, ts) =>
        let (good, bad) := ts.partition fun (_, _, es) => d.allOk es
        let es := (good.flatMap fun (_, _, es) => es).filter d.inBounds
        ((effect s g d good).spend g (d.passes es)).coord g h n d bad false

/-- The scratchpad kinds (R129). -/
def Desc.isScratch (d : Desc) : Bool := !d.isGlobal

/-- The elements of a vector access: the innermost coordinate increased by 0 to n − 1 (R142). -/
def vecElems (c : RegCode) (n : Nat) (d : Desc) (who : List (Nat × Nat × Thread)) : List Touch :=
  who.map fun (slot, l, t) => (slot, l, (List.range n).map fun j => bumpInner (t.coords c d.dims) j)

/-- An element read at the port (R137). -/
def State.loadElem (s : State) (core : Nat) (d : Desc) (c : List Nat) : Nat :=
  if d.inBounds c then d.readElem (s.core core).cells c else 0

/-- An element written at the port. -/
def State.storeElem (s : State) (core : Nat) (d : Desc) (c : List Nat) (v : Nat) : State :=
  if d.inBounds c then s.modCore core fun k => { k with cells := d.writeElem k.cells c v } else s

/-- A register run waits for the values that an access brings, at a latency. -/
def Thread.awaitRun (t : Thread) (c : RegCode) (n serial lat : Nat) : Thread :=
  (List.range n).foldl (fun t i => t.await (c.toNat + i) serial lat) t

/-- The registers of a run with a packed value, by key. -/
def runVals (c : RegCode) (n v : Nat) : Tab Word :=
  (List.range n).map fun i => (c.toNat + i, BitVec.ofNat 32 (v / 2 ^ (32 * i)))

/-- The packed value of a register run. -/
def Thread.readRun (t : Thread) (c : RegCode) (n : Nat) : Nat :=
  (List.range n).foldl (fun v i => v + 2 ^ (32 * i) * (t.read (c.toNat + i)).toNat) 0

/-- Effects in the order of their cycles. -/
def insertLate (due : Nat) (op : LateOp) : List (Nat × LateOp) → List (Nat × LateOp)
  | [] => [(due, op)]
  | (d, o) :: r => if d ≤ due then (d, o) :: insertLate due op r else (due, op) :: (d, o) :: r

/-- An effect reaches the cells or the entry at a core cycle. -/
def State.later (s : State) (c due : Nat) (op : LateOp) : State :=
  s.modCore c fun k => { k with late := insertLate due op k.late }

/-- A thread access reaches the banks at issue + 6, under a number of its own (R29, R139). -/
def State.reach (s : State) (g : Group) (op : Nat → LateOp) : State :=
  (s.later g.core (s.coreCycle g.core + 6) (op s.serial)).bump

/-- The packed value of elements at the port (R142). -/
def State.loadVal (s : State) (core : Nat) (d : Desc) (es : List (List Nat)) : Nat :=
  (es.zipIdx).foldl (fun acc (c, j) => acc + 2 ^ (j * d.w) * s.loadElem core d c) 0

/-- Loads: each lane's run waits for its elements (R142). -/
def loadLanes (v : RegCode) (s : State) (g : Group) (d : Desc) (ts : List Touch) : State :=
  if ts.isEmpty then s
  else
    let n := s.serial
    let s := ts.foldl (fun s (slot, l, es) =>
      s.modThread g.core slot l fun t => t.awaitRun v (dataRun es.length d.w) n 6) s
    s.reach g fun n => .load n d v ts

/-- The values arrive in the threads that wait for them. -/
def State.loaded (s : State) (c serial : Nat) (d : Desc) (v : RegCode) (ts : List Touch) : State :=
  ts.foldl (fun s (slot, l, es) =>
    let vals := runVals v (dataRun es.length d.w) (s.loadVal c d es)
    s.modThread c slot l fun t => t.arrive serial vals) s

/-- The elements that a lane stores, with the bits that its run holds for them. -/
def Thread.stores (t : Thread) (v : RegCode) (d : Desc) (es : List (List Nat)) : List (List Nat × Nat) :=
  let val := t.readRun v (dataRun es.length d.w)
  (es.zipIdx).map fun (c, j) => (c, bitsOf val (j * d.w) d.w)

/-- A store writes elements in ascending lane order: the highest lane's value remains (R139). -/
def State.storing (s : State) (g : Group) (d : Desc) (ts : List Touch)
    (f : Thread → List (List Nat) → List (List Nat × Nat)) : State :=
  if ts.isEmpty then s
  else s.reach g fun n => .store n (ts.map (·.1)).eraseDups d (ts.flatMap fun (slot, l, es) =>
    match (s.crew? g.core slot).bind fun k => k.thread? l with
    | none => []
    | some t => f t es)

/-- Stores: each element takes its bits from the lane's run, as it stands at issue. -/
def storeLanes (v : RegCode) (s : State) (g : Group) (d : Desc) (ts : List Touch) : State :=
  s.storing g d ts fun t es => t.stores v d es

/-- The elements are written. -/
def State.stored (s : State) (c : Nat) (d : Desc) (xs : List (List Nat × Nat)) : State :=
  xs.foldl (fun s (x, v) => s.storeElem c d x v) s

/-- Coordinate and data runs (R138 REGRUN). -/
def accRuns (o : AccOp) (n : Nat) (d : Desc) : List (RegCode × Nat) :=
  [(o.c, d.dims), (o.v, dataRun n d.w)]

/-- LDT (R142). -/
def execLdt (h : Hdr) (o : AccOp) (s : State) : Host.Outcome State Fault Refusal :=
  runAccess (.ldt h o) h o.n.toNat Desc.isScratch (accRuns o 1) (vecElems o.c 1) (loadLanes o.v) s

/-- STT (R142). -/
def execStt (h : Hdr) (o : AccOp) (s : State) : Host.Outcome State Fault Refusal :=
  runAccess (.stt h o) h o.n.toNat Desc.isScratch (accRuns o 1) (vecElems o.c 1) (storeLanes o.v) s

/-- LDV (R142). -/
def execLdv (h : Hdr) (o : AccOp) (s : State) : Host.Outcome State Fault Refusal :=
  runAccess (.ldv h o) h o.n.toNat Desc.isScratch (accRuns o (vnCount o.vn)) (vecElems o.c (vnCount o.vn))
    (loadLanes o.v) s

/-- STV (R142). -/
def execStv (h : Hdr) (o : AccOp) (s : State) : Host.Outcome State Fault Refusal :=
  runAccess (.stv h o) h o.n.toNat Desc.isScratch (accRuns o (vnCount o.vn)) (vecElems o.c (vnCount o.vn))
    (storeLanes o.v) s

/-- LDX accepts ELEM or PLANE of two or more dimensions and 8, 16 or 32 bits (R141). -/
def ldxOk (d : Desc) : Bool := decide (d.kind ≤ 1) && decide (1 ≤ d.ndim) && decide (d.w ∈ [8, 16, 32])

/-- The block of a lane (R143): the origin is that of the lowest active lane of its lane group. -/
def ldxElems (c : RegCode) (d : Desc) (who : List (Nat × Nat × Thread)) : List Touch :=
  who.map fun (slot, l, t) =>
    let lead := ((who.find? fun (_, x, _) => decide (x / 16 = l / 16)).map fun x => x.2.2).getD t
    let o := lead.coords c d.dims
    let k := l % 16
    let r0 := o.getD (d.ndim - 1) 0 + 4 * (k / 4)
    (slot, l, (List.range 4).map fun j =>
      o.take (d.ndim - 1) ++ [r0 + j, o.getD d.ndim 0 + k % 4])

/-- LDX (R143). -/
def execLdx (h : Hdr) (o : AccOp) (s : State) : Host.Outcome State Fault Refusal :=
  runAccess (.ldx h o) h o.n.toNat ldxOk (accRuns o 4) (ldxElems o.c) (loadLanes o.v) s

/-- TFILL's elements (R144): a run along the innermost dimension, or every element once. A count beyond
the largest extent is cut to one past it, which is out of bounds just the same. -/
def tfillElems (o : AccOp) (d : Desc) (who : List (Nat × Nat × Thread)) : List Touch :=
  if o.all then
    match who with
    | [] => []
    | (slot, l, _) :: _ => [(slot, l, (List.range d.count).map (coordOf d.exts))]
  else who.map fun (slot, l, t) =>
    (slot, l, (List.range (min (t.reg o.b).toNat 65536)).map fun j => bumpInner (t.coords o.c d.dims) j)

/-- TFILL (R144). -/
def execTfill (h : Hdr) (o : AccOp) (s : State) : Host.Outcome State Fault Refusal :=
  runAccess (.tfill h o) h o.n.toNat Desc.isScratch
    (fun d => if o.all then [] else [(o.c, d.dims)]) (tfillElems o)
    (fun s g d ts => s.storing g d ts fun t es => es.map fun c => (c, bitsOf (t.reg o.v).toNat 0 d.w)) s

/-! ## FULL (R145, R146) -/

/-- FULL is set or cleared; setting it wakes the threads that wait for it (R146), but for an entry whose cells are going:
they stay parked until it is LOST (R160). -/
def State.setFull (s : State) (c ctx n : Nat) (v : Bool) : State :=
  let s := s.modCore c fun k => k.modEntry ctx n fun e =>
    if e.desc.st = .free then e else { e with desc := { e.desc with full := v } }
  let e := (s.core c).entry ctx n
  if !v || !(decide (e.desc.st = .live) || (decide (e.desc.st = .rebuild) && e.revived && !e.doomed)) then s
  else (s.core c).slots.foldl (fun s (slot, k) =>
    if k.id.ctx = ctx then
      s.wakeWhere c slot (fun _ w => match w with
        | .full m => decide (m = n)
        | _ => false) (fun _ t => t)
    else s) s

/-- MARK: FULL changes at issue + 6, once for the group (R145, R146). -/
def execMark (h : Hdr) (set : Bool) (n : BitVec 8) (s : State) : Host.Outcome State Fault Refusal :=
  runAccess (.mark h set n) h n.toNat Desc.isScratch (fun _ => [])
    (fun _ who => who.map fun (slot, l, _) => (slot, l, []))
    (fun s g _ ts => if ts.isEmpty then s
      else s.later g.core (s.coreCycle g.core + 6) (.mark (entryKey (s.ctxOf g) n.toNat) set)) s

/-- WAITF: the threads whose guards hold park until FULL = 1; a completion point (R146). -/
def execWaitf (h : Hdr) (n : BitVec 8) (s : State) : Host.Outcome State Fault Refusal :=
  s.run (.waitf h n) h fun s g =>
    if s.coreCycle g.core < (s.core g.core).nextAccess then s.retryLater g
    else match s.accessEntry g h n.toNat Desc.isScratch (fun _ => [])
        (fun _ who => who.map fun (slot, l, _) => (slot, l, [])) with
      | .inl s => s
      | .inr (d, _) =>
        if d.full then s.finishDone g h
        else
          let on := s.on g h g.slot
          let s := s.finishRest g h g.slot (g.mask &&& ~~~on) true
          if on = 0 then s else s.park g h g.slot on fun _ => .full n.toNat

end Sys2Proof.Machine
end

