-- ==== Sys2Proof/Machine/LayoutOps.lean ====
section
/-! DEFINITION. Creating, querying, freeing and reviving entries; capacity instructions (R147 to R151,
R167 to R171). -/

namespace Sys2Proof.Machine

/-- A predicate written at a completion point in every live thread of the crew-collective group. -/
def State.doneP (s : State) (g : Group) (h : Hdr) (p : PIdx) (v : Bool) : State :=
  (s.finishDone g h).putAll g (pKey p) (BitVec.ofNat 32 v.toNat)

/-- Eight consecutive s registers as a descriptor, word 0 first (R131). -/
def Thread.descBits (t : Thread) (c : RegCode) : Nat :=
  (List.range 8).foldl (fun v i => v + 2 ^ (32 * i) * (t.read (c.toNat + i)).toNat) 0

/-- The descriptor with OWN from granule 1 (R147). -/
def descWith (n : Nat) (own : Bool) : Nat := setBits n 20 1 own.toNat

/-- Who owns an entry that a crew makes (R130). -/
def ownerOf (k : Crew) (own : Bool) : Owner := if own then .launch k.id.launch else .block k.id.block

/-- Banks claimed by crews other than the one in a slot (R168). -/
def State.claimed (s : State) (c slot : Nat) : Nat :=
  (s.core c).slots.foldl (fun n (i, k) =>
    match k.claim with
    | some x => if i ≠ slot ∧ s.coreTick c < x.expires then n + x.banks else n
    | none => n) 0

/-- Light the DARK banks of a set: they are WAKING for 400 of TICK (R148, R156). -/
def Core.light (c : Core) (b0 k tick : Nat) : Core :=
  (List.range (2 ^ k)).foldl (fun c i =>
    if c.bank (b0 + i) = .dark then { c with banks := tset c.banks (b0 + i) (.waking (tick + 400)) }
    else c) c

/-- The TICK at which every bank of a set is LIT. -/
def Core.litAt (c : Core) (b0 k : Nat) : Nat :=
  (List.range (2 ^ k)).foldl (fun m i =>
    match c.bank (b0 + i) with
    | .waking t => max m t
    | _ => m) 0

/-- Begin to place an entry (R147, R167): the placement is reserved, DARK banks are lit, and the group
parks until the cells are zeroed. -/
def State.place (s : State) (g : Group) (h : Hdr) (ctx n : Nat) (e : Entry) (p : PIdx) (b0 row : Nat) : State :=
  let k := e.desc.banklog
  let tick := s.coreTick g.core
  let e := { e with placing := some (b0, row) }
  let s := s.modCore g.core fun c => (c.setEntry ctx n e).light b0 k tick
  let lit := (s.core g.core).litAt b0 k
  let cyc := if lit = 0 then s.coreCycle g.core + e.desc.nrows else 0
  s.park g h g.slot g.mask fun _ => .place n p lit cyc

/-- ALLOC (R147). -/
def execAlloc (h : Hdr) (o : AllocOp) (s : State) : Host.Outcome State Fault Refusal :=
  s.run (.alloc h o) h fun s g =>
    match s.leader? g h with
    | none => s
    | some (k, t) =>
      let ctx := k.id.ctx
      let n := o.n.toNat
      let x := s.context ctx
      let e := (s.core g.core).entry ctx n
      let bits := descWith (t.descBits o.s) o.own
      if e.desc.st ≠ .free ∨ e.reserved then s.bounds g h 5 n 0
      else match descCheck false x.codeBase x.codeSize bits with
        | some chk => s.bounds g h 4 n (BitVec.ofNat 32 chk)
        | none =>
          let d := Desc.ofNat bits
          let d := { d with nrows := d.needRows }
          match (s.core g.core).find d.banklog d.nrows d.rank (s.claimed g.core g.slot) with
          | none =>
            (s.modCrew g.core g.slot fun k => { k with claim := none }).doneP g h o.p false
          | some (b0, row, _) =>
            let e := { Entry.free with desc := d, owner := ownerOf k o.own }
            s.place g h ctx n e o.p b0 row

/-- REVIVE (R167). -/
def execRevive (h : Hdr) (p : PIdx) (n : BitVec 8) (s : State) : Host.Outcome State Fault Refusal :=
  s.run (.revive h p n) h fun s g =>
    let ctx := s.ctxOf g
    let n := n.toNat
    let e := (s.core g.core).entry ctx n
    if e.desc.st = .free then s.bounds g h 2 n 0
    else if e.desc.isGlobal then s.bounds g h 3 n 0
    else if e.desc.st ≠ .rebuild ∨ e.rebuilder ≠ some g.slot then s.bounds g h 7 n 0
    else if e.revived then s.doneP g h p true
    else match (s.core g.core).find e.desc.banklog e.desc.nrows e.desc.rank
        (s.claimed g.core g.slot) with
      | none => (s.modCrew g.core g.slot fun k => { k with claim := none }).doneP g h p false
      | some (b0, row, _) => s.place g h ctx n e p b0 row

/-- The placement of an entry ends (R147, R162, R167): its cells are zero and it is LIVE or revived, or
a doom has taken its banks. -/
def State.placed (s : State) (c slot ctx n : Nat) (ok : Bool) : State :=
  let e := (s.core c).entry ctx n
  let (b0, row) := e.spot
  let d := { e.desc with bank0 := b0, row0 := row, full := false }
  let s := s.modCore c fun k =>
    let k := if ok then { k with cells := zeroCells k.cells b0 d.banklog row d.nrows } else k
    if d.st = .rebuild then
      k.setEntry ctx n { e with placing := none, revived := ok, doomed := false, desc := if ok then d else e.desc }
    else if ok then k.setEntry ctx n { e with placing := none, desc := { d with st := .live } }
    else k.freeEntry ctx n
  let s := s.modCrew c slot fun k => { k with claim := none }
  match s.crew? c slot with
  | none => s
  | some k =>
    let p := (k.threads.findSome? fun (_, t) => match t.st with
      | .parked (.place m p _ _) => if m = n then some p else none
      | _ => none).getD 0
    s.wakeWhere c slot (fun _ w => match w with
      | .place m _ _ _ => decide (m = n)
      | _ => false) fun _ t => t.put (pKey p) (BitVec.ofNat 32 ok.toNat)

/-! ## MAPG (R149) -/

/-- The core and the entry that a QSCR handle names (R131). -/
def qscrCore (quad : Nat) (hnd : BitVec 64) : Nat := 4 * quad + bitsOf hnd.toNat 0 2
def qscrEntry (hnd : BitVec 64) : Nat := bitsOf hnd.toNat 8 8

/-- HANDLE names something the context may map (R149). -/
def State.handleOk (s : State) (c ctx : Nat) (d : Desc) : Bool :=
  if d.space = 1 then
    decide (bitsOf d.handle.toNat 2 6 = 0) && decide (d.handle.toNat < 2 ^ 16)
      && decide (qscrCore (quadOf c) d.handle ≠ c)
  else (s.context ctx).allocs.any fun a =>
    decide (a.handle = d.handle) && decide (a.space = d.space) && decide (d.span ≤ a.size)

/-- MAPG: once for the group; P in the threads whose guard holds (R149). -/
def execMapg (h : Hdr) (o : AllocOp) (s : State) : Host.Outcome State Fault Refusal :=
  s.run (.mapg h o) h fun s g =>
    match s.leader? g h with
    | none => s.finishDone g h
    | some (k, t) =>
      let ctx := k.id.ctx
      let n := o.n.toNat
      let x := s.context ctx
      let e := (s.core g.core).entry ctx n
      let bits := descWith (t.descBits o.s) o.own
      if e.desc.st ≠ .free ∨ e.reserved then s.bounds g h 5 n 0
      else match descCheck true x.codeBase x.codeSize bits with
        | some chk => s.bounds g h 4 n (BitVec.ofNat 32 chk)
        | none =>
          let d := Desc.ofNat bits
          let ok := s.handleOk g.core ctx d
          let s := if ok then s.modCore g.core fun c => c.setEntry ctx n
              { Entry.free with desc := { d with st := .live }, owner := ownerOf k o.own } else s
          let on := k.holding h g.mask
          (s.finishDone g h).modLanes g.core g.slot on fun _ t =>
            t.put (pKey o.p) (BitVec.ofNat 32 ok.toNat)

/-! ## FREE and LTQ (R150, R151) -/

/-- An end of a copy or of a matrix request is an entry. -/
def CopyEnd.names (e : CopyEnd) (c n : Nat) : Bool :=
  decide (e.core = c) && decide (e.entry = n)

/-- An engine operation that names an entry is in flight, or a deferred write has it as its source. -/
def State.engineUses (s : State) (c ctx n : Nat) : Bool :=
  s.cores.any (fun (_, k) => k.reqs.any fun r =>
    decide (r.ctx = ctx) && (r.src.names c n || r.dst.names c n))
  || s.quads.any (fun (_, q) => q.table.any fun r =>
    decide (r.ctx = ctx) && r.ends.any fun e => e.names c n)

/-- FREE: refused, or the entry is FREE at issue + 6 and the crew goes on (R150). -/
def execFree (h : Hdr) (p : PIdx) (n : BitVec 8) (s : State) : Host.Outcome State Fault Refusal :=
  s.run (.free h p n) h fun s g =>
    let ctx := s.ctxOf g
    let n := n.toNat
    let e := (s.core g.core).entry ctx n
    if e.desc.st = .free ∨ e.desc.st = .rebuild ∨ e.freeing ∨ s.engineUses g.core ctx n then
      s.doneP g h p false
    else
      let s := s.modCore g.core fun c => c.setEntry ctx n { e with freeing := true }
      (s.later g.core (s.coreCycle g.core + 6) (.free (entryKey ctx n))).park g h g.slot g.mask
        fun _ => .freeing n p

/-- The entry of an accepted FREE goes FREE and its crew goes on. -/
def State.freed (s : State) (c ctx n : Nat) : State :=
  let s := s.modCore c fun k => k.freeEntry ctx n
  (s.core c).slots.foldl (fun s (slot, k) =>
    if k.id.ctx = ctx then
      let p := (k.threads.findSome? fun (_, t) => match t.st with
        | .parked (.freeing m p) => if m = n then some p else none
        | _ => none)
      match p with
      | none => s
      | some p => s.wakeWhere c slot (fun _ w => match w with
          | .freeing m _ => decide (m = n)
          | _ => false) fun _ t => t.put (pKey p) 1
    else s) s

/-- LTQ (R151). -/
def execLtq (h : Hdr) (d : RegCode) (n : BitVec 8) (s : State) : Host.Outcome State Fault Refusal :=
  s.run (.ltq h d n) h fun s g =>
    let w := ((s.core g.core).entry (s.ctxOf g) n.toNat).ltqWord
    (s.readLogged g h d false 4 fun _ _ _ => w.toNat).finish g h

/-! ## WAITCAP, RERANK, CAPQ (R168 to R171) -/

/-- The condition of a capacity wait for the crew in a slot (R168). -/
def State.capHolds (s : State) (c slot banks rank : Nat) : Bool :=
  let k := s.core c
  decide (banks + s.claimed c slot ≤ k.spare)
    && (decide (rank ≠ 7) || decide (k.nPinned + banks ≤ k.cap.pinq))

/-- A claim of 1,000 of TICK. -/
def State.takeClaim (s : State) (c slot banks : Nat) : State :=
  s.modCrew c slot fun k => { k with claim := some ⟨banks, s.coreTick c + 1000⟩ }

/-- WAITCAP (R168). -/
def execWaitcap (h : Hdr) (o : WaitcapOp) (s : State) : Host.Outcome State Fault Refusal :=
  s.run (.waitcap h o) h fun s g =>
    match s.leader? g h with
    | none => s
    | some (_, t) =>
      let banks := o.nb.toNat
      let rank := o.rank.toNat
      let deadline := if o.nd then none else some (t.pair o.d)
      if s.capHolds g.core g.slot banks rank then
        (s.takeClaim g.core g.slot banks).doneP g h o.p true
      else
        let past := match deadline with
          | some x => decide (x ≤ s.coreTick g.core)
          | none => false
        if past then s.doneP g h o.p false
        else s.park g h g.slot g.mask fun _ => .cap banks rank o.p deadline

/-- RERANK is accepted (R170). -/
def Core.rerankOk (c : Core) (e : Entry) (r : Nat) : Bool :=
  decide (e.desc.st = .live) && decide (r ≤ 7)
    && (decide (r ≠ 7) || decide (e.desc.rank = 7) || c.pinOk e.desc.bank0 e.desc.banklog 7)

/-- RERANK: tested at issue, written at issue + 6 (R169, R170). -/
def execRerank (h : Hdr) (o : RerankOp) (s : State) : Host.Outcome State Fault Refusal :=
  s.run (.rerank h o) h fun s g =>
    match s.leader? g h with
    | none => s.finish g h
    | some (k, t) =>
      let n := o.n.toNat
      let e := (s.core g.core).entry k.id.ctx n
      let r := if o.rs then (t.reg o.a).toNat else o.rimm.toNat
      if e.desc.st = .free then s.bounds g h 2 n 0
      else if e.desc.isGlobal then s.bounds g h 3 n 0
      else
        let ok := (s.core g.core).rerankOk e r
        let s := if ok then
            s.later g.core (s.coreCycle g.core + 6) (.rerank (entryKey k.id.ctx n) r) else s
        (s.writeP g h o.p 4 fun _ _ _ => ok).finish g h

/-- The words of CAPQ (R171). -/
def Core.capWord (c : Core) (st : Bool) : Word :=
  BitVec.ofNat 32
    (if st then c.nDoomed + 2 ^ 8 * c.nWaking + 2 ^ 16 * c.nFreeLit + 2 ^ 24 * c.nShort
     else c.nLit + 2 ^ 8 * c.cap.target + 2 ^ 16 * c.nPinned + 2 ^ 24 * c.cap.pinq)

/-- CAPQ (R171). -/
def execCapq (h : Hdr) (st : Bool) (d : RegCode) (s : State) : Host.Outcome State Fault Refusal :=
  s.run (.capq h st d) h fun s g =>
    let w := (s.core g.core).capWord st
    (s.readLogged g h d false 4 fun _ _ _ => w.toNat).finish g h

end Sys2Proof.Machine
end

