-- ==== Sys2Proof/Machine/Special.lean ====
section
/-! DEFINITION. Predicates and special registers (R101 to R105, R117, R118), and effects that reach
the bank or the entry after issue (R29, R104). -/

namespace Sys2Proof.Machine

/-! ## Predicates -/

/-- PLOP (R117): all sources are read before either write; E's value stays where D = E. -/
def execPlop (h : Hdr) (o : PlopOp) (s : State) : Host.Outcome State Fault Refusal :=
  s.run (.plop h o) h fun s g =>
    let idx := fun (t : Thread) =>
      4 * (t.pred o.a).toNat + 2 * (t.pred o.b).toNat + (t.pred o.c).toNat
    let s := s.writeP g h o.d 2 fun _ _ t => o.lut.getLsbD (idx t)
    let s := if o.ev then s.writeP g h o.e 2 fun _ _ t => o.lut2.getLsbD (idx t) else s
    s.finish g h

/-- PMOV (R118). -/
def execPmov (h : Hdr) (dir half : Bool) (r : RegCode) (s : State) : Host.Outcome State Fault Refusal :=
  s.run (.pmov h dir half r) h fun s g =>
    let p := fun (i : Nat) => BitVec.ofNat 6 (32 * half.toNat + i)
    let s := if dir then
        (List.range 32).foldl (fun s i =>
          s.writeP g h (p i) 2 fun _ _ t => (t.reg r).getLsbD i) s
      else s.write g h r 2 fun _ _ t =>
        BitVec.ofNat 32 ((List.range 32).foldl (fun v i => v + 2 ^ i * (t.pred (p i)).toNat) 0)
    s.finish g h

/-! ## Special registers -/

/-- IMGSEQ: the number before that of the oldest image-bearing write that has not settled (R303). -/
def Counts.imgseq (n : Counts) : Nat :=
  match n.unsettled with
  | [] => n.issued
  | u :: _ => (u + 2 ^ 32 - 1) % 2 ^ 32

/-- Grid extents of a launch. -/
def State.gridOf (s : State) (l d : Nat) : Nat :=
  ((tget? s.launches l).map fun x => x.record.grid.getD d 0).getD 0

/-- Fields of a crew's block. -/
def State.blockOf (s : State) (k : Crew) (f : Block → Nat) (d : Nat) : Nat :=
  ((tget? s.blocks k.id.block).map f).getD d

/-- The descriptor that LTDAT reads: a FREE entry's fields have their reset values (R131). -/
def Entry.shown (e : Entry) : Desc := if e.desc.st = .free then Desc.free else e.desc

/-- The value of a special register in a thread (R101). -/
def State.special (s : State) (c lane : Nat) (k : Crew) (t : Thread) (code : Nat) : Nat :=
  let core := s.core c
  let f := k.trap.frame
  match code with
  | 0x00 => Config.lanes
  | 0x01 => lane
  | 0x02 => if k.id.spawned then 0 else k.id.index
  | 0x03 => k.id.crewId.toNat
  | 0x04 | 0x05 | 0x06 =>
    if k.id.spawned then 0xFFFFFFFF else s.blockOf k (fun b => b.xyz.getD (code - 4) 0) 0
  | 0x07 | 0x08 | 0x09 => s.gridOf k.id.launch (code - 7)
  | 0x0A => c % 64
  | 0x0B => c % 64 / 4
  | 0x0C => dieOf c
  | 0x0D => s.device.pkg.toNat
  | 0x0E => k.id.vallot
  | 0x10 => s.coreTick c
  | 0x12 => s.coreCycle c
  | 0x14 => (k.ctlOf t).fpctl.toNat
  | 0x15 => core.tok.level
  | 0x16 => k.hungry.toNat + 2 * core.tok.holds.toNat
  | 0x17 => core.nLit
  | 0x18 => f.pc.toNat
  | 0x19 => f.code.toNat
  | 0x1A => f.arg.toNat
  | 0x1B => f.lt.toNat
  | 0x1C => f.lm.toNat
  | 0x1E => f.act.toNat
  | 0x20 => if k.id.spawned then 1 else s.blockOf k (·.orbit) 1
  | 0x21 => if k.id.spawned then 1 else s.blockOf k (·.stab) 1
  | 0x22 => k.counts.imgseq
  | 0x24 | 0x25 | 0x26 => (k.loops.lc.getD (code - 0x24) 0).toNat
  | 0x30 => (k.ctlOf t).ltsel.toNat
  | 0x31 =>
    let sel := (k.ctlOf t).ltsel.toNat
    bitsOf (core.entry k.id.ctx (bitsOf sel 0 8)).shown.toNat (32 * bitsOf sel 8 3) 32
  | _ => 0

/-- Reads that the order log keeps (R322). -/
def specialLogged (sc : BitVec 8) : Bool := decide (sc.toNat ∈ [0x10, 0x12, 0x15, 0x16, 0x17])

/-- SRD (R101, R105). -/
def execSrd (h : Hdr) (d : RegCode) (sc : BitVec 8) (s : State) : Host.Outcome State Fault Refusal :=
  s.run (.srd h d sc) h fun s g =>
    let v := fun l k t => s.special g.core l k t sc.toNat
    let s := if specialLogged sc then s.readLogged g h d (specialWide sc) 2 v
      else if specialWide sc then s.writePair g h d 2 v
      else s.write g h d 2 fun l k t => BitVec.ofNat 32 (v l k t)
    s.finish g h

/-- SWR in a crew of the group: its control register, from its lowest lane whose guard holds (R65, R104). -/
def State.swrPart (s : State) (g : Group) (h : Hdr) (sc : BitVec 8) (a : RegCode) (slot : Nat) (m : Mask) : State :=
  match s.crew? g.core slot with
  | none => s
  | some k =>
    let on := k.holding h m
    match k.thread? (lowLane on) with
    | none => s
    | some t =>
      let v := t.reg a
      let ctl := fun (op : CtlOp) => (s.modCrew g.core slot fun k => k.writeCtl m op 2 s.serial).bump
      if on = 0 then s
      else match sc.toNat with
        | 0x14 => ctl (.fpSet (v &&& 0x00031F1F))
        | 0x30 => ctl (.ltsel (v &&& 0x7FF))
        | _ =>
          let sel := (k.ctlOf t).ltsel.toNat
          s.later g.core (s.coreCycle g.core + 2)
            (.ltdat (entryKey k.id.ctx (bitsOf sel 0 8)) (bitsOf sel 8 3) v slot g.pc)

/-- SWR (R104, R105): FPCTL, LTSEL or LTDAT of each crew of the group. -/
def execSwr (h : Hdr) (sc : BitVec 8) (a : RegCode) (s : State) : Host.Outcome State Fault Refusal :=
  s.run (.swr h sc a) h fun s g =>
    ((s.partsByAge g).foldl (fun s (slot, m) => s.swrPart g h sc a slot m) s).finish g h

/-! ## Effects after issue -/

/-- What a write through LTDAT changes in a LIVE entry; none: it is ignored as a whole and recorded
(R152). -/
def Desc.patch (d : Desc) (codeBase codeSize word : Nat) (v : Word) : Option Desc :=
  let n := setBits d.toNat (32 * word) 32 v.toNat
  let e := Desc.ofNat n
  if (descCheck d.isGlobal codeBase codeSize n).isSome ∨ e.kind ≠ d.kind ∨ e.ext ≠ d.ext
    ∨ e.ndim ≠ d.ndim ∨ e.fmt ≠ d.fmt ∨ e.banklog ≠ d.banklog then none
  else some { d with rank := e.rank, clampz := e.clampz, perm := e.perm, handler := e.handler,
                     space := e.space, stride := e.stride, handle := e.handle }

end Sys2Proof.Machine
end

