-- ==== Sys2Proof/Machine/Sym.lean ====
section
/-! DEFINITION. The group of a symmetric launch acting on block indices, coordinates and values
(R289 to R298), and the order log of a context under replay (R322). -/

namespace Sys2Proof.Machine

/-! ## Generators (R290) -/

/-- Generator i of a descriptor and its fields. -/
def LaunchRec.gen (r : LaunchRec) (i : Nat) : Nat := bitsOf r.sym.toNat (2 + 16 * i) 16
def genKind (g : Nat) : Nat := bitsOf g 0 4
def genA (g : Nat) : Nat := bitsOf g 4 3
def genB (g : Nat) : Nat := bitsOf g 7 3
def genK (g : Nat) : Nat := bitsOf g 10 5
def genNeg (g : Nat) : Bool := bitOf g 15

/-- Exchange two places of a list. -/
def swapAt (l : List Nat) (i j : Nat) : List Nat := (l.set i (l.getD j 0)).set j (l.getD i 0)

/-- A generator on a block index (x, y, z). -/
def actIndex (grid : List Nat) (g : Nat) (i : List Nat) : List Nat :=
  let a := genA g
  let e := grid.getD a 1
  match genKind g with
  | 1 => swapAt i a (genB g)
  | 2 => i.set a (e - 1 - i.getD a 0)
  | 3 => i.set a ((i.getD a 0 + genK g) % e)
  | _ => i

/-- A generator on a coordinate of an imaged entry, outermost dimension first (R290, R295). -/
def actCoord (grid exts : List Nat) (g : Nat) (c : List Nat) : List Nat :=
  let n := exts.length
  let a := n - 1 - genA g
  let e := exts.getD a 1
  if n ≤ genA g then c
  else match genKind g with
    | 1 => if n ≤ genB g then c else swapAt c a (n - 1 - genB g)
    | 2 => c.set a (e - 1 - c.getD a 0)
    | 3 => c.set a ((c.getD a 0 + genK g * (e / grid.getD (genA g) 1)) % e)
    | _ => c

/-- An element: its generators in the order they act. -/
def SymElem.index (x : SymElem) (grid i : List Nat) : List Nat :=
  x.gens.foldl (fun i g => actIndex grid g i) i
def SymElem.coord (x : SymElem) (grid exts c : List Nat) : List Nat :=
  x.gens.foldl (fun c g => actCoord grid exts g c) c

/-- NEG of a value (R290). -/
def negValue (fmt v : Nat) : Nat :=
  let w := fmtWidth fmt
  if fmtFloat fmt then v ^^^ 2 ^ (w - 1) else (2 ^ w - v % 2 ^ w) % 2 ^ w

/-! ## Blocks and images -/

/-- ORDER (R291). -/
def Launch.order (l : Launch) : Nat := max 1 l.elems.length

/-- Element e; the identity where the launch has none. -/
def Launch.elem (l : Launch) (e : Nat) : SymElem := l.elems.getD e ⟨[], false⟩

/-- STAB and ORBIT of a block index (R294). -/
def Launch.stabOf (l : Launch) (xyz : List Nat) : Nat :=
  (List.range l.order).foldl (fun acc e =>
    if (l.elem e).index l.record.grid xyz = xyz then acc + 2 ^ e else acc) 0
def Launch.orbitOf (l : Launch) (xyz : List Nat) : Nat :=
  l.order / ((List.range l.order).filter fun e =>
    decide ((l.elem e).index l.record.grid xyz = xyz)).length

/-- The lowest element of each coset other than the stabilizer, ascending (R298). -/
def Launch.cosets (l : Launch) (xyz : List Nat) : List Nat :=
  ((List.range l.order).foldl (fun (acc : List Nat × List (List Nat)) e =>
    let i := (l.elem e).index l.record.grid xyz
    if acc.2.contains i then acc else (acc.1 ++ [e], acc.2 ++ [i])) ([], [xyz])).1

/-- The launch and the block index of a crew. -/
def State.launchOf (s : State) (k : Crew) : Option Launch := tget? s.launches k.id.launch
def State.xyzOf (s : State) (k : Crew) : List Nat :=
  ((tget? s.blocks k.id.block).map (·.xyz)).getD [0, 0, 0]

/-- An entry is imaged in the launch of a crew (R295). -/
def State.isImaged (s : State) (k : Crew) (n : Nat) : Bool :=
  match s.launchOf k with
  | some l => l.record.images.contains n
  | none => false

/-- The elements by which a write of a crew to an entry is imaged. -/
def State.imagesOf (s : State) (k : Crew) (n : Nat) : List Nat :=
  match s.launchOf k with
  | some l => if l.record.images.contains n && !k.id.spawned then l.cosets (s.xyzOf k) else []
  | none => []

/-- The first dimension, from the outermost, in which a coordinate lies outside a block's tile (R297). -/
def outsideTile (grid exts xyz c : List Nat) : Option Nat :=
  let n := exts.length
  (List.range n).find? fun a =>
    let d := n - 1 - a
    let t := exts.getD a 1 / grid.getD d 1
    decide (d < 3) && !(decide (xyz.getD d 0 * t ≤ c.getD a 0)
      && decide (c.getD a 0 < (xyz.getD d 0 + 1) * t))

/-- R297 OUTSIDE for one element. -/
def State.outside (s : State) (k : Crew) (d : Desc) (c : List Nat) : Option Nat :=
  match s.launchOf k with
  | some l => outsideTile l.record.grid d.exts (s.xyzOf k) c
  | none => none

/-- IMAGE under which no lane acts (R297). -/
def State.imageTrap (s : State) (g : Group) (h : Hdr) (code n : Nat) (arg : Word) : State :=
  s.raise g h 6 code arg n

end Sys2Proof.Machine
end

