-- ==== Sys2Proof/Machine/CopyUnit.lean ====
section
/-! DEFINITION. The copy unit: ends and units of requests, reading and landing, what global memory a
copy reads (R216), chunks (R176), completion and the waits it ends (R204, R205, R207, R212, R305). -/

namespace Sys2Proof.Machine

/-! ## Ports: where the bytes of an end stand -/

/-- The memory of an end (a core's cells, or global memory), the address of its 32-byte units and
how many bits of each the port serves. -/
structure Port where
  core : Option Nat
  unit : Nat → Nat
  serves : Nat → Nat

/-- The bits of a unit of a scratchpad entry that hold elements: the others hold 0, and ports ignore them (R133). -/
def Desc.unitBits (d : Desc) (u : Nat) : Nat :=
  min 256 (if d.isPlane then d.count - u / fmtPlanes d.fmt * 256 else d.count * d.w - 256 * u)

/-- The core and the descriptor behind a QSCR window (R131). -/
def State.behind (s : State) (c ctx : Nat) (d : Desc) : Nat × Desc :=
  let k := qscrCore (quadOf c) d.handle
  (k, ((s.core k).entry ctx (qscrEntry d.handle)).desc)

/-- The port of an end named by a core. Byte o of a QSCR window is byte o mod 32 of unit ⌊o / 32⌋ of
the entry behind it (log 20). -/
def State.port (s : State) (c ctx : Nat) (d : Desc) : Port :=
  if !d.isGlobal then ⟨some c, d.unitAddr, d.unitBits⟩
  else if d.space = 1 then
    let (k, t) := s.behind c ctx d
    ⟨some k, t.unitAddr, t.unitBits⟩
  else ⟨none, fun u => gaddr d.handle (32 * u), fun _ => 256⟩

/-- A window's entry in the other core can be reached; every other end can (R165, R273). -/
def State.reachable (s : State) (c ctx : Nat) (d : Desc) : Bool :=
  if d.isGlobal && decide (d.space = 1) then
    let t := (s.behind c ctx d).2
    decide (t.st = .live) && !t.isGlobal
  else true

/-- The memory a port reads: a core's cells, or the view of global memory given. -/
def State.memOf (s : State) (p : Port) (view : Mem) : Mem :=
  match p.core with
  | some k => (s.core k).cells
  | none => view

/-- Change the memory behind a port. -/
def State.setMem (s : State) (p : Port) (f : Mem → Mem) : State :=
  match p.core with
  | some k => s.modCore k fun x => { x with cells := f x.cells }
  | none => { s with globalMem := f s.globalMem }

/-- How many bits of byte o the port serves. -/
def Port.live (p : Port) (o : Nat) : Nat := min 8 (p.serves (o / 32) - 8 * (o % 32))

/-- Byte o of an end; bits that it does not serve read 0. -/
def Port.byte (p : Port) (m : Mem) (o : Nat) : Byte :=
  let n := p.live o
  if n = 0 then 0 else BitVec.ofNat 8 ((Memory.read m (p.unit (o / 32) + o % 32)).toNat % 2 ^ n)

/-- Write byte o; bits that it does not serve stay as they are. -/
def Port.setByte (p : Port) (m : Mem) (o : Nat) (b : Byte) : Mem :=
  let n := p.live o
  let a := p.unit (o / 32) + o % 32
  if n = 0 then m else Memory.write m a (BitVec.ofNat 8 (Machine.setBits (Memory.read m a).toNat 0 n b.toNat))

/-- `w` bits at bit offset b: one nibble or whole bytes (R39). -/
def Port.bits (p : Port) (m : Mem) (b w : Nat) : Nat :=
  if w < 8 then bitsOf (p.byte m (b / 8)).toNat (b % 8) w
  else leNat ((List.range (w / 8)).map fun i => p.byte m (b / 8 + i))

/-- Bytes from offset o on. -/
def Port.putBytes (p : Port) (m : Mem) (o : Nat) (bs : List Byte) : Mem :=
  (bs.zipIdx).foldl (fun m (b, i) => p.setByte m (o + i) b) m

/-- Write them. -/
def Port.setBits (p : Port) (m : Mem) (b w v : Nat) : Mem :=
  if w < 8 then
    p.setByte m (b / 8) (BitVec.ofNat 8 (Machine.setBits (p.byte m (b / 8)).toNat (b % 8) w v))
  else p.putBytes m (b / 8) (leBytes v (w / 8))

/-- Elements in plane form. -/
def Desc.planar (d : Desc) : Bool := d.isPlane || d.gpl

/-- Bit offset of a coordinate in an end of element form. -/
def Desc.bitPos (d : Desc) (c : List Nat) : Nat :=
  if d.isGlobal then d.bitOff c else linear d.exts c * d.w

/-- An element of an end. -/
def Port.elem (p : Port) (m : Mem) (d : Desc) (c : List Nat) : Nat :=
  if d.planar then readElemAt m p.unit true d.fmt (linear d.exts c) else p.bits m (d.bitPos c) d.w

/-- The bits of an element's planes as they stand, plane j at bit j (R134). -/
def Port.planes (p : Port) (m : Mem) (d : Desc) (c : List Nat) : Nat :=
  let l := linear d.exts c
  (List.range (fmtPlanes d.fmt)).foldl (fun v j =>
    v + 2 ^ j * (bitOf (Memory.read m (p.unit (l / 256 * fmtPlanes d.fmt + j) + l % 256 / 8)).toNat (l % 8)).toNat) 0

/-- Write plane j of an element. -/
def Port.setPlane (p : Port) (m : Mem) (d : Desc) (c : List Nat) (v : Bool) (j : Nat) : Mem :=
  let l := linear d.exts c
  let a := p.unit (l / 256 * fmtPlanes d.fmt + j) + l % 256 / 8
  Memory.write m a (BitVec.ofNat 8 (Machine.setBits (Memory.read m a).toNat (l % 8) 1 v.toNat))

/-! ## Requests -/

/-- A write that waits for a publish (R213). -/
def Req.deferred (r : Req) : Bool :=
  match r.kind with
  | .deferThread _ _ | .deferBulk => true
  | _ => false

/-- A request of one lane. -/
def Req.isThread (r : Req) : Bool :=
  match r.kind with
  | .thread _ _ _ | .deferThread _ _ => true
  | _ => false

/-- The bytes of a request of one lane. -/
def Req.count (r : Req) : Nat :=
  match r.kind with
  | .thread _ n _ | .deferThread n _ => n
  | _ => 0

/-- The box of a bulk request: the whole scratchpad entry (R209, R210). -/
def Req.box (r : Req) : Desc := if r.dst.desc.isGlobal then r.src.desc else r.dst.desc

/-- The size that prices count, in bytes (R173). -/
def Req.bytes (r : Req) : Nat :=
  match r.kind with
  | .migr _ _ _ _ => 65536
  | _ => if r.isThread then r.count else ceilDiv (r.box.count * r.box.w) 8

/-- Both ends are in plane form and nothing is converted: planes move unchanged (R134). -/
def Req.raw (r : Req) : Bool :=
  r.src.desc.planar && r.dst.desc.planar && match r.kind with
    | .binding w _ => !bitOf w.toNat 16 && !bitOf w.toNat 18
    | _ => true

/-- The units in which a request lands. -/
def Req.units (r : Req) : Nat :=
  match r.kind with
  | .migr _ _ _ _ => 2048
  | .atom _ _ _ _ _ _ _ => 0
  | _ =>
    if r.isThread then 1
    else if r.dst.desc.planar then ceilDiv r.box.count 256 * fmtPlanes r.dst.desc.fmt
    else ceilDiv (r.box.count * r.box.w) 256

/-- Linear indices, in the box, of the elements of unit u. -/
def Req.elemsOf (r : Req) (u : Nat) : List Nat :=
  let (lo, n) := if r.dst.desc.planar then (u / fmtPlanes r.dst.desc.fmt * 256, 256)
    else (u * 256 / r.box.w, 256 / r.box.w)
  (List.range (min n (r.box.count - lo))).map (lo + ·)

/-- Sum of two coordinates. -/
def addCoord (a b : List Nat) : List Nat := (a.zip b).map fun (x, y) => x + y

/-- The two innermost dimensions exchanged (R221 TRN). -/
def swapInner (c : List Nat) : List Nat := swapAt c (c.length - 1) (c.length - 2)

/-- Source and destination coordinate of an element of the box. -/
def Req.srcCoord (r : Req) (l : Nat) : List Nat :=
  let e := coordOf r.box.exts l
  match r.kind with
  | .binding w _ => addCoord r.src.coord (if bitOf w.toNat 17 then swapInner e else e)
  | _ => addCoord r.src.coord e
def Req.dstCoord (r : Req) (l : Nat) : List Nat := addCoord r.dst.coord (coordOf r.box.exts l)

/-- The conversion of a binding (R221): CVT under R114, QNT under R116; else the value as it is. -/
def bindValue (fpctl : Word) (sf df : Nat) (w scale : Word) (v : Nat) : Nat :=
  let ftz := fpctl.getLsbD 16
  let mode := rmodeOf (bitsOf w.toNat 19 2)
  let sat := bitOf w.toNat 21
  if bitOf w.toNat 16 then (cvt sf df mode sat ftz v).bits
  else if bitOf w.toNat 18 then (qnt (ffmtOf df) sat ftz v scale.toNat).bits
  else v

/-- FPCTL of a launch. -/
def State.fpctlOf (s : State) (l : Nat) : Word :=
  ((tget? s.launches l).map (·.record.fpctl)).getD 0

/-- The bytes that a request of one lane reads: past the span of a window, or past the last element of
an entry, they are 0 (R202, R203). -/
def State.laneBytes (s : State) (c : Nat) (r : Req) (view : Mem) : List Byte :=
  let d := r.src.desc
  let p := s.port c r.ctx d
  let m := s.memOf p view
  let o := d.bitPos r.src.coord / 8
  let lim := if d.isGlobal then d.reach
    else if d.inBounds r.src.coord then ceilDiv (d.count * d.w) 8 else 0
  (List.range r.count).map fun i => if o + i < lim then p.byte m (o + i) else 0

/-- What a request reads for unit u: bytes, or element values, or the bits of their planes. -/
def State.readUnit (s : State) (c : Nat) (r : Req) (view : Mem) (u : Nat) : List Nat :=
  if r.isThread then (s.laneBytes c r view).map (·.toNat)
  else
    let d := r.src.desc
    let p := s.port c r.ctx d
    let m := s.memOf p view
    (r.elemsOf u).map fun l =>
      let x := r.srcCoord l
      let v := if !d.inBounds x then 0 else if r.raw then p.planes m d x else p.elem m d x
      match r.kind with
      | .binding w sc => bindValue (s.fpctlOf r.launch) d.fmt r.dst.desc.fmt w sc v
      | _ => v

/-- An element, or part of one, that a request writes: its coordinate, its bits and their value. -/
structure Piece where
  coord : List Nat
  bits : Nat
  val : Nat

/-- The pieces of unit u of a request, for an image as for the base (R298). -/
def Req.pieces (r : Req) (u : Nat) (vals : List Nat) : List Piece :=
  let w := r.dst.desc.w
  if r.isThread then
    let v := leNat (vals.map (BitVec.ofNat 8 ·))
    (List.range (ceilDiv (8 * r.count) w)).map fun i =>
      ⟨bumpInner r.dst.coord i, min w (8 * r.count - i * w), v / 2 ^ (i * w)⟩
  else ((r.elemsOf u).zip vals).filterMap fun (l, v) =>
    let x := r.dstCoord l
    if r.dst.desc.inBounds x then some ⟨x, w, v⟩ else none

/-- A piece under a group element (R298). -/
def Piece.image (p : Piece) (grid : List Nat) (d : Desc) (x : SymElem) : Piece :=
  ⟨x.coord grid d.exts p.coord, p.bits, if x.neg then negValue d.fmt p.val else p.val⟩

/-- Write a piece into memory; `j`: one plane of it, from its bits where it comes in planes (`raw`). -/
def Port.setPiece (p : Port) (m : Mem) (d : Desc) (raw : Bool) (j : Option Nat) (x : Piece) : Mem :=
  match j with
  | some j => p.setPlane m d x.coord (if raw then bitOf x.val j else planeBit d.fmt x.val j) j
  | none => p.setBits m (d.bitPos x.coord) x.bits x.val

/-- The memory after unit u has landed. A copy into the scratchpad by a lane writes a whole unit,
zeros after its bytes (R202). -/
def Req.landMem (r : Req) (p : Port) (u : Nat) (vals : List Nat) (m : Mem) : Mem :=
  let d := r.dst.desc
  if r.isThread && !d.isGlobal then
    p.putBytes m (d.bitPos r.dst.coord / 8)
      ((vals ++ List.replicate (32 - r.count) 0).map (BitVec.ofNat 8 ·))
  else
    let j := if d.planar then some (u % fmtPlanes d.fmt) else none
    (r.pieces u vals).foldl (fun m x => p.setPiece m d r.raw j x) m

/-- Global memory as a copy of a crew of a context on core c reads it: every pending request of that
core and context stands at its base range (R216). -/
def State.forwarded (s : State) (c ctx : Nat) : Mem :=
  (s.core c).reqs.foldl (fun m r =>
    if r.deferred && decide (r.ctx = ctx) then
      let p := s.port c ctx r.dst.desc
      (List.range r.units).foldl (fun m u => r.landMem p u (s.readUnit c r m u) m) m
    else m) s.globalMem

/-- What a request reads of global memory. -/
def State.viewOf (s : State) (c : Nat) (r : Req) : Mem :=
  match r.kind with
  | .thread _ _ _ | .bulk _ => s.forwarded c r.ctx
  | _ => s.globalMem

/-- The elements by which a request is imaged (R298). -/
def State.reqImages (s : State) (r : Req) : List Nat :=
  match tget? s.launches r.launch, tget? s.blocks r.block with
  | some l, some b =>
    if r.seqNo.isSome && l.record.images.contains r.dst.entry then l.cosets b.xyz else []
  | _, _ => []

/-- The journal keeps the words of elements about to be written (R322). -/
def State.keepElems (s : State) (d : Desc) (cs : List (List Nat)) : State :=
  cs.foldl (fun s c => s.keepBytes (gaddr d.handle (d.bitPos c / 8)) 4) s

/-- Unit u lands, in the base or in the image in turn. -/
def State.landUnit (s : State) (c : Nat) (r : Req) (u : Nat) (vals : List Nat) : State :=
  let d := r.dst.desc
  let p := s.port c r.ctx d
  let s := match p.core with
    | none => s.keepElems d ((r.pieces u vals).map (·.coord))
    | some _ => s
  if r.image = 0 then s.setMem p (r.landMem p u vals)
  else match tget? s.launches r.launch with
    | none => s
    | some l =>
      let x := l.elem ((s.reqImages r).getD (r.image - 1) 0)
      let ps := (r.pieces u vals).map fun q => q.image l.record.grid d x
      let s := s.keepElems d (ps.map (·.coord))
      s.setMem p fun m => ps.foldl (fun m q => p.setPiece m d false none q) m

/-! ## Pages and migrating tiles (R199, R218, R220) -/

/-- The bytes of a run of bits. -/
def bytesOf (b w : Nat) : List Nat := (List.range (ceilDiv (b % 8 + w) 8)).map (b / 8 + ·)

/-- The bytes of an end that hold an element. -/
def Desc.bytesAt (d : Desc) (c : List Nat) : List Nat :=
  if d.planar then
    let l := linear d.exts c
    (List.range (fmtPlanes d.fmt)).map fun j => 32 * (l / 256 * fmtPlanes d.fmt + j) + l % 256 / 8
  else bytesOf (d.bitPos c) d.w

/-- Byte offsets of the record that LAUNCH reads at a coordinate of a window, within what the window reaches (log 72). -/
def Desc.recordOffs (d : Desc) (c : List Nat) : List Nat :=
  let o := if d.gpl then 32 * (linear d.exts c / 256 * fmtPlanes d.fmt) else d.bitPos c / 8
  ((List.range 2048).map (o + ·)).filter fun i => decide (i < d.reach)

/-- Byte offsets at which a request touches an end, but for the bytes past a window's span that CLAMPZ makes read 0
(R202). -/
def Req.offsets (r : Req) (e : CopyEnd) : List Nat :=
  let d := e.desc
  match r.kind with
  | .migr _ tile _ _ => (List.range 65536).map (65536 * tile + ·)
  | .atom _ _ _ _ _ ls _ => ls.flatMap fun l => bytesOf (d.bitPos l.coord) 32
  | .launch _ _ => d.recordOffs e.coord
  | _ =>
    if r.isThread then ((List.range r.count).map (d.bitPos e.coord / 8 + ·)).filter fun o => decide (o < d.reach)
    else (List.range r.box.count).flatMap fun l =>
      let x := addCoord e.coord (coordOf r.box.exts l)
      if d.inBounds x then d.bytesAt x else []

/-- Byte offsets at which the base (0) or an image lands (R302). -/
def State.offsetsOf (s : State) (r : Req) (image : Nat) : List Nat :=
  if image = 0 then r.offsets r.dst
  else match tget? s.launches r.launch with
    | none => []
    | some l =>
      let x := l.elem ((s.reqImages r).getD (image - 1) 0)
      (List.range r.units).flatMap fun u => (r.pieces u (List.replicate 256 0)).flatMap fun q =>
        bytesOf (r.dst.desc.bitPos (q.image l.record.grid r.dst.desc x).coord) q.bits

/-- Where the base, or the image in turn, lands. -/
def State.dstOffsets (s : State) (r : Req) : List Nat := s.offsetsOf r r.image

/-- Every byte that a request writes, its images included. -/
def State.writesOf (s : State) (r : Req) : List Nat :=
  (List.range ((s.reqImages r).length + 1)).flatMap (s.offsetsOf r)

/-- The global allocation of an end. -/
def State.allocOf (s : State) (ctx : Nat) (d : Desc) : Option Alloc :=
  if d.isGlobal && decide (2 ≤ d.space) then
    (s.context ctx).allocs.find? fun a => decide (a.handle = d.handle)
  else none

/-- The map entry of a home tile (R218). -/
def Alloc.home (a : Alloc) (tile : Nat) : Home := tget ⟨a.space, a.base + tile, false, false⟩ a.homes tile

/-- Translation reads the map (R199, R218): the space and the frame of a page; none where it has no translation. -/
def Alloc.translate (a : Alloc) (page : Nat) : Option (Nat × Nat) :=
  if a.unmapped.contains page then none else some ((a.home page).space, (a.home page).frame)

/-- The first page without a translation among offsets of an end. -/
def State.missingAt (s : State) (r : Req) (d : Desc) (offs : List Nat) : Option Nat :=
  match s.allocOf r.ctx d with
  | none => none
  | some a =>
    if a.unmapped.isEmpty then none
    else offs.findSome? fun o => if (a.translate (o / 65536)).isNone then some (o / 65536) else none

/-- The page, with the end's window, for which a request parks (R199); the images of a request have its
source already. -/
def State.missing (s : State) (r : Req) : Option (Desc × Nat) :=
  let src := if r.image = 0 then s.missingAt r r.src.desc (r.offsets r.src) else none
  match src with
  | some p => some (r.src.desc, p)
  | none => (s.missingAt r r.dst.desc (s.dstOffsets r)).map fun p => (r.dst.desc, p)

/-- Home tiles of an allocation that a migration is copying (R220). -/
def State.moving (s : State) (h : BitVec 64) : List Nat :=
  s.cores.flatMap fun (_, k) => k.reqs.filterMap fun r => match r.kind with
    | .migr h' t _ _ => if h' = h ∧ r.started then some t else none
    | _ => none

/-- A write of the request would land in a tile that is being migrated: it is held (R220). -/
def State.heldByMove (s : State) (r : Req) : Bool :=
  let ts := s.moving r.dst.desc.handle
  match r.kind with
  | .migr _ _ _ _ | .launch _ _ => false
  | _ => !ts.isEmpty && r.dst.desc.isGlobal && decide (2 ≤ r.dst.desc.space)
      && (s.dstOffsets r).any fun o => ts.contains (o / 65536)

/-! ## Waits that completion objects end -/

/-- A ticket that a CWAIT or MWAIT waits for (R212). -/
def Ticket.unfinished (t : Ticket) : Bool :=
  match t.st with
  | .pend | .run | .parked => true
  | _ => false

/-- What a wait for an id gives (R212). -/
def Core.verdict (c : Core) (id : Word) : Bool :=
  if id = 0xFFFFFFFF then false
  else match c.lookup id with
    | some t => decide (t.st = .done)
    | none => true

/-- An id names an unfinished ticket. -/
def Core.waitsFor (c : Core) (id : Word) : Bool :=
  match c.lookup id with
  | some t => t.unfinished
  | none => false

/-- The writes of a crew that still wait for a publish that has not begun (R305). -/
def Core.queuedWrites (c : Core) (k : Crew) : List Nat :=
  c.reqs.filterMap fun r =>
    if r.deferred && r.publishing.isNone && decide (r.ctx = k.id.ctx) && decide (r.crewId = k.id.crewId)
    then r.seqNo else none

/-- Number u was given to a later write than number n, both modulo 2^32 (R303). -/
def laterImage (u n : Nat) : Bool := decide (2 ^ 31 ≤ (n + 2 ^ 32 - u) % 2 ^ 32)

/-- IMGW may return (R305). -/
def Core.imagesSettled (c : Core) (k : Crew) (upTo : Nat) : Bool :=
  let q := c.queuedWrites k
  k.counts.unsettled.all fun u => laterImage u upTo || q.contains u

/-- IMGW's result. -/
def Crew.imagesDone (k : Crew) (upTo : Nat) : Bool :=
  k.counts.unsettled.all fun u => laterImage u upTo

/-- Copies outstanding under a tag (R205). -/
def Crew.tagIds (k : Crew) (t : Nat) : List Nat := ((tget? k.copy.tags t).map (·.ids)).getD []

/-- End the waits of a crew that its tags, tickets and image-bearing writes allow to end. -/
def State.wakeCrew (s : State) (c slot : Nat) : State :=
  match s.crew? c slot with
  | none => s
  | some k =>
    let core := s.core c
    let s := s.wakeWhere c slot (fun _ w => match w with
      | .tag t => (k.tagIds t).isEmpty
      | _ => false) (fun _ t => t)
    let ended := fun (w : Wait) => match w with
      | .ticket _ _ all => !all.any core.waitsFor
      | .image _ n => core.imagesSettled k n
      | _ => false
    let res := fun (l : Nat) => match (k.thread? l).map (·.st) with
      | some (.parked (.ticket p own _)) => some (p, core.verdict own)
      | some (.parked (.image p n)) => some (p, k.imagesDone n)
      | _ => none
    s.wakeWhere c slot (fun _ w => ended w) fun l t =>
      match res l with
      | some (p, v) => t.put (pKey p) (BitVec.ofNat 32 v.toNat)
      | none => t

/-- End the engine waits of every crew of a core. -/
def State.wakeEngine (s : State) (c : Nat) : State :=
  ((s.core c).slots.map (·.1)).foldl (fun s slot => s.wakeCrew c slot) s

/-! ## Completion (R205, R207) -/

/-- A tag's count falls; LOST and FAULT leave their bit. -/
def CopySt.settle (p : CopySt) (tag serial : Nat) (st : TickSt) : CopySt :=
  let t := tget { ids := [], loss := false, fault := false } p.tags tag
  let t' : TagSt := ⟨t.ids.filter fun i => decide (i ≠ serial), t.loss || decide (st = .lost),
    t.fault || decide (st = .fault)⟩
  { p with tags := tset p.tags tag t' }

/-- The outbound bits. -/
def CopySt.out (p : CopySt) (st : TickSt) : CopySt :=
  { p with oloss := p.oloss || decide (st = .lost), ofault := p.ofault || decide (st = .fault) }

/-- Status changes of a crew's copies, wherever the crew is. -/
def State.modCopy (s : State) (c : Nat) (r : Req) (f : CopySt → CopySt) : State :=
  s.modOwner c r.ctx r.crewId fun k => { k with copy := f k.copy }

/-- Change a request in its queue. -/
def State.modReq (s : State) (c serial : Nat) (f : Req → Req) : State :=
  s.modCore c fun k => { k with reqs := k.reqs.map fun r => if r.serial = serial then f r else r }

/-- A request of a core. -/
def State.req? (s : State) (c serial : Nat) : Option Req :=
  (s.core c).reqs.find? fun r => decide (r.serial = serial)

/-- A demand for a chunk of a request. -/
def Demand.ofReq (d : Demand) (serial : Nat) : Bool :=
  match d.kind with
  | .chunk r _ _ => decide (r = serial)
  | _ => false

/-- The map entry of a home tile (R218). -/
def State.modHome (s : State) (ctx : Nat) (h : BitVec 64) (tile : Nat) (f : Home → Home) : State :=
  s.modContext ctx fun x =>
    { x with allocs := x.allocs.map fun a =>
        if a.handle = h then
          { a with homes := tset a.homes tile (f (a.home tile)) }
        else a }

/-- Frames below `n` exist in a space: HBM4 has 288 GB and the capacity tier 512 GB (R1, R198); the memories of other
modules and of the host have no bound here. -/
def frameFits (space n : Nat) : Bool :=
  if space = 2 then decide (n * 65536 ≤ 288000000000)
  else if space = 3 then decide (n * 65536 ≤ 512000000000) else true

/-- `n` frames of a space can be taken. -/
def Frames.room (x : Frames) (space n : Nat) : Bool :=
  let k := (x.free.filter fun (p : Nat × Nat) => decide (p.1 = space)).length
  decide (n ≤ k) || frameFits space (tget 0 x.next space + (n - k))

/-- System software has reserved backing for a context in a space, and a frame is there (R219). -/
def State.backed (s : State) (ctx space : Nat) : Bool :=
  (s.context ctx).reserved.contains space && s.device.frames.room space 1

/-- A frame of a space is taken: one that was released, else the lowest that has not been (R219). -/
def State.takeFrame (s : State) (space : Nat) : State × Nat :=
  let x := s.device.frames
  let set := fun (x : Frames) => { s with device := { s.device with frames := x } }
  match x.free.find? fun (p : Nat × Nat) => decide (p.1 = space) with
  | some p => (set { x with free := x.free.erase p }, p.2)
  | none => (set { x with next := tset x.next space (tget 0 x.next space + 1) }, tget 0 x.next space)

/-- A frame is released. -/
def State.freeFrame (s : State) (space frame : Nat) : State :=
  { s with device := { s.device with frames := { s.device.frames with free := s.device.frames.free ++ [(space, frame)] } } }

/-- Writes of the front ends, the coalescers and the fabric at `n` bytes would land in a tile that a migration is copying
(R220). -/
def State.inMove (s : State) (a n : Nat) : Bool :=
  let ts := s.moving (BitVec.ofNat 64 (a / 2 ^ 48))
  ts.any fun t => decide (t * 65536 < a % 2 ^ 48 + n) && decide (a % 2 ^ 48 < (t + 1) * 65536)

/-- Such a write reaches memory. -/
def State.putNow (s : State) (a : Nat) (bs : List Byte) : State :=
  let s := s.keepBytes a bs.length
  { s with globalMem := Memory.writeN s.globalMem a bs }

/-- Such a write; a migration holds it until just after its commit. -/
def State.putGlobal (s : State) (h : BitVec 64) (off : Nat) (bs : List Byte) : State :=
  if s.inMove (gaddr h off) bs.length then
    { s with device := { s.device with held := s.device.held ++ [(gaddr h off, bs)] } }
  else s.putNow (gaddr h off) bs

/-- A write to some of `n` bytes is held. -/
def State.heldAt (s : State) (a n : Nat) : Bool :=
  s.device.held.any fun (b, bs) => decide (a < b + bs.length) && decide (b < a + n)

/-- Held writes that no migration holds any longer reach memory, in their order. -/
def State.letGo (s : State) : State :=
  let (on, off) := s.device.held.partition fun (a, bs) => s.inMove a bs.length
  if off.isEmpty then s
  else off.foldl (fun s (a, bs) => s.putNow a bs) { s with device := { s.device with held := on } }

/-- A migration ends (R219, R220): at its commit the tile has its new home and the old frame is released; before it,
the new frame is. -/
def State.endMigr (s : State) (ctx : Nat) (h : BitVec 64) (tile home frame : Nat) (ok : Bool) : State :=
  let old := match (s.context ctx).allocs.find? fun a => decide (a.handle = h) with
    | some a => a.home tile
    | none => ⟨home, frame, false, false⟩
  let s := s.modHome ctx h tile fun m =>
    if ok then { space := home, frame := frame, mig := false, commit := true } else { m with mig := false }
  (if ok then s.freeFrame old.space old.frame else s.freeFrame home frame).letGo

/-- An operation of a core lands or ends in this cycle (R222). -/
def State.landsNow (s : State) (c : Nat) : State :=
  let now := s.coreCycle c
  s.modCore c fun k => { k with landAt := some now }

/-- The ticket's landed count (R212). -/
def State.landed (s : State) (c : Nat) (r : Req) (n : Nat) : State :=
  let s := s.landsNow c
  match r.ticket with
  | none => s
  | some i => s.modCore c fun k =>
      k.modTicket i fun t => { t with landed := min (2 ^ 24 - 1) (t.landed + n) }

/-- A request leaves its copy unit. -/
def State.dropReq (s : State) (c : Nat) (r : Req) : State :=
  (s.landsNow c).modCore c fun k =>
    { k with reqs := k.reqs.filter (fun q => decide (q.serial ≠ r.serial))
             demands := k.demands.filter fun d => !d.ofReq r.serial }

/-- The number of an image-bearing write settles (R303). -/
def State.settleImage (s : State) (c : Nat) (r : Req) : State :=
  match r.seqNo with
  | some n => s.modOwner c r.ctx r.crewId fun k => { k with counts := k.counts.settle n }
  | none => s

/-- A request leaves its copy unit with a status: its tag, ticket, outbound bits and image number are
settled, and the waits on them end. Atomics give their lanes their results first. -/
def State.endReq (s : State) (c : Nat) (r : Req) (st : TickSt) : State :=
  let s := s.dropReq c r
  let s := match r.kind with
    | .thread tag _ _ => s.modCopy c r fun p => p.settle tag r.serial st
    | .bulk _ | .binding _ _ | .launch _ _ => s
    | .deferThread _ _ | .deferBulk | .atom _ _ _ _ _ _ _ => s.modCopy c r fun p => p.out st
    | .migr h t home frame => s.endMigr r.ctx h t home frame (decide (st = TickSt.done))
  let s := s.settleTicket c r.ticket st
  let s := match r.kind with
    | .bulk setf => if setf && decide (st = TickSt.done) then s.setFull c r.ctx r.dst.entry true else s
    | .binding _ _ =>
      if st = TickSt.done then s.modBlock r.block fun b => { b with bound := b.bound ++ [(c, r.dst.entry)] } else s
    | _ => s
  let s := s.settleImage c r
  let s := s.logItem r.ctx 3 r.crewId (s.retiredOf c r.ctx r.crewId) [r.pc.toNat, st.code]
  s.wakeEngine c

/-! ## Chunks (R176) -/

/-- The space of an end; 0 for the scratchpad. -/
def Desc.spaceOf (d : Desc) : Nat := if d.isGlobal then d.space else 0

/-- The space to which a migration moves its tile. -/
def Req.dstSpace (r : Req) : Nat :=
  match r.kind with
  | .migr _ _ home _ => home
  | _ => r.dst.desc.spaceOf

/-- The spaces of a migration's source. -/
def State.srcSpace (s : State) (r : Req) : Nat :=
  match r.kind with
  | .migr h t _ _ =>
    match (s.context r.ctx).allocs.find? fun a => decide (a.handle = h) with
    | some a => (a.home t).space
    | none => 0
  | _ => r.src.desc.spaceOf

/-- Chunk size under the table and TKCAP now in force, and its nominal price; none where not even 32
bytes can be paid. -/
def State.chunk (s : State) (c : Nat) (src dst left images : Nat) : Option (Nat × Nat) :=
  let op := (s.quad (quadOf c)).op
  let n := min left (chunkBytes op (s.core c).tok.tkcap src dst images)
  if n = 0 ∧ left ≠ 0 then none else some (n, copyPrice src dst n images)

/-- The next chunk of a request. -/
def State.nextChunk (s : State) (c : Nat) (r : Req) : Option (Nat × Nat) :=
  s.chunk c (s.srcSpace r) r.dstSpace (r.bytes - r.paid.foldl (· + ·) 0) (s.reqImages r).length

/-- The bytes that must be paid before unit u moves. -/
def Req.needs (r : Req) (u : Nat) : Nat := ceilDiv ((u + 1) * r.bytes) (max 1 r.units)

/-- Unit u has been paid. -/
def Req.isPaid (r : Req) (u : Nat) : Bool := decide (r.needs u ≤ r.paid.foldl (· + ·) 0)

/-- The copy unit demands the next chunk; where TKCAP covers none, the request ends FAULT with a PRICE
record (R176). -/
def State.demandChunk (s : State) (c : Nat) (r : Req) : State :=
  if (s.core c).demands.any fun d => d.ofReq r.serial then s
  else match s.nextChunk c r with
    | none => (s.report c (r.record 6 0)).endReq c r .fault
    | some (n, 0) => s.modReq c r.serial fun q => { q with paid := q.paid ++ [n] }
    | some (n, price) => s.demand c (.chunk r.serial n r.accepted) price

/-! ## New requests -/

/-- A request of an issuing crew, as it enters the queue. -/
def mkReq (serial : Nat) (kind : ReqKind) (k : Crew) (slot : Nat) (pc : Word) (src dst : CopyEnd)
    (ticket : Option Nat) (lane accepted : Nat) : Req :=
  { serial := serial, kind := kind, ctx := k.id.ctx, launch := k.id.launch, block := k.id.block,
    slot := slot, crewId := k.id.crewId, pc := pc, src := src, dst := dst, ticket := ticket,
    started := false, inTurn := false, lane := lane, publishing := none, tagged := 0, parked := none, chunks := [], held := [],
    paid := [], image := 0, seqNo := none, accepted := accepted }

/-- A request enters the queue of its core. -/
def State.accept (s : State) (c : Nat) (r : Req) : State :=
  (s.modCore c fun k => { k with reqs := k.reqs ++ [r] }).bump

/-- The operation takes a ticket slot (R207): the state and the id. -/
def State.takeTicket (s : State) (c i slot : Nat) (st : TickSt) (setf : Bool) (est : Nat) : State × Word :=
  let gen := nextGen ((s.core c).ticket i).gen
  (s.modCore c fun k => k.modTicket i fun _ =>
      { ctx := ((s.crew? c slot).map (·.id.ctx)).getD 0, gen := gen, st := st, setf := setf, landed := 0, doneTick := s.coreTick c,
        doneSeq := s.serial, estimate := est, slot := slot }, ticketId i gen)

/-- A promise (R211): a value of 64 bits, not before the TICK of issue; its distance is a free value (log 3). -/
def State.promise (s : State) (c : Nat) : State × Nat :=
  ({ s with freeCtr := s.freeCtr + 1 }, max (s.coreTick c) (min (2 ^ 64 - 1) (s.coreTick c + Config.estimateDelay s.freeCtr)))

/-- Numbers of pending deferred requests and of queued requests of lanes (R197). -/
def Core.deferredCount (c : Core) : Nat := (c.reqs.filter Req.deferred).length
def Core.laneCount (c : Core) : Nat :=
  (c.reqs.filter fun r => match r.kind with
    | .thread _ _ _ => true
    | _ => false).length

/-- An end of a request. -/
def endOf (c n : Nat) (d : Desc) (coord : List Nat) : CopyEnd := ⟨c, n, d, coord⟩

/-- A part's engine request may use an entry: LIVE, or revived by the part's own handler (R165). -/
def State.partOpen (s : State) (g : Group) (n slot : Nat) (m : Mask) : Bool :=
  let e := (s.core g.core).entry (s.ctxOf g) n
  decide (e.desc.st = .live)
    || (decide (e.desc.st = .rebuild) && e.revived && !e.doomed && s.inHandler g n slot e m)

/-- An operation that still reads doomed cells 2,000 of TICK after t0 (R160). -/
def State.lateReader (s : State) (n : Nat) : Bool :=
  s.cores.any fun (c, k) => k.dooms.any fun d => d.readers.contains n && decide (d.tick + 2000 ≤ s.coreTick c)

/-- A thread access or a read of a source that has not reached the banks. -/
def LateOp.serial? : LateOp → Option Nat
  | .load n _ _ _ | .store n _ _ _ | .atoms n _ _ _ _ _ _ _ _ => some n
  | _ => none

/-- Thread accesses of a core that were issued before an engine operation have reached the banks (R29, R139). -/
def State.accessesDone (s : State) (core serial : Nat) : Bool :=
  !(s.core core).late.any fun (_, op) => match op.serial? with
    | some n => decide (n < serial)
    | none => false

/-- The core whose scratchpad an end of an operation of core `c` names, or `c` itself: global reads are forwarded from
there (R216). -/
def Desc.coreOf (d : Desc) (c : Nat) : Nat :=
  if d.isGlobal && decide (d.space = 1) then qscrCore (quadOf c) d.handle else c

/-- Thread accesses issued before a request, or before its publish began, have reached the banks of its ends (R29). -/
def State.banksReady (s : State) (r : Req) : Bool :=
  let n := if r.publishing.isSome then r.tagged else r.serial
  s.accessesDone (r.src.desc.coreOf r.src.core) n && s.accessesDone (r.dst.desc.coreOf r.dst.core) n

/-- The first chunk of a group: the one that it has paid, or the one that it may pay now, with its price (R176). -/
def Group.firstChunk (g : Group) (next : Option (Nat × Nat)) : Option (Nat × Nat) :=
  match g.chunk with
  | some n => some (n, 0)
  | none => next

/-- Pay a nominal price for the group, then go on; the group is held where it cannot be paid. `chunk`: the bytes of a
first chunk (R176). -/
def State.payThen (s : State) (g : Group) (nominal : Nat) (chunk : Option Nat) (k : State → State) : State :=
  match s.payGroup g nominal chunk with
  | .stop s => s.uncount g
  | .go s _ => k s

/-- Ticket, zero and promise in s[T] to s[T + 3] at latency 4 (R208). -/
def State.writeTicket (s : State) (g : Group) (t : RegCode) (id : Word) (promise : Nat) : State :=
  let put := fun (i : Nat) (v : Word) (s : State) =>
    s.modCrew g.core g.slot fun k => k.writeS g.mask (t.toNat + i) v 4
  put 3 (BitVec.ofNat 32 (promise / 2 ^ 32)) (put 2 (BitVec.ofNat 32 promise) (put 1 0 (put 0 id s)))

end Sys2Proof.Machine
end

