-- ==== Sys2Proof/Machine/Copy.lean ====
section
/-! DEFINITION. Copy instructions (R201 to R212, R219). -/

namespace Sys2Proof.Machine

/-! ## Checks shared by the copies -/

/-- The entry-level checks over the entries an instruction names, in operand order (log 21): NOENT, then
KIND, then REGRUN; each entry comes with what its kind check says and its coordinate run. -/
def State.entryFault (s : State) (g : Group) (es : List (Nat × Bool × List (RegCode × Nat))) :
    Option (Nat × Nat) :=
  let ctx := s.ctxOf g
  let vallot := ((s.crew? g.core g.slot).map (·.id.vallot)).getD 256
  let gone := fun (n : Nat) =>
    let e := (s.core g.core).entry ctx n
    decide (e.desc.st = .free) || e.freeing
  match es.find? fun (n, _, _) => gone n with
  | some (n, _, _) => some (2, n)
  | none =>
    match es.find? fun (_, ok, _) => !ok with
    | some (n, _, _) => some (3, n)
    | none => (es.find? fun (_, _, rs) => !rs.all fun (c, k) => regRunOk vallot c k).map
        fun (n, _, _) => (6, n)

/-- The descriptor that an index of the group's core names. -/
def State.descOf (s : State) (g : Group) (n : Nat) : Desc :=
  ((s.core g.core).entry (s.ctxOf g) n).desc

/-- Scratchpad kinds that a copy by lanes accepts (R201), and windows of element form. -/
def Desc.elemOrScale (d : Desc) : Bool := decide (d.kind = 0 ∨ d.kind = 2)
def Desc.window (d : Desc) : Bool := d.isGlobal && !d.gpl

/-- One lane of ACPY or ASTO: its byte count, coordinates, the bytes that the destination keeps, and the
entry and dimension for which it faults. -/
structure CpyLane where
  slot : Nat
  lane : Nat
  n : Nat
  keep : Nat
  src : List Nat
  dst : List Nat
  bad : Option (Nat × Nat)

/-- `n` bytes from a coordinate pass the span of a window, or the last element of an entry; the dimension
that R138 names (log 22). -/
def Desc.past (d : Desc) (c : List Nat) (n : Nat) : Option Nat :=
  let lim := if d.isGlobal then d.reach else ceilDiv (d.count * d.w) 8
  let out := !d.isGlobal && !d.inBounds c
  if n ≠ 0 ∧ (out ∨ lim < d.bitPos c / 8 + n) then
    some (if d.inBounds c then d.dims - 1 else d.badDim c)
  else none

/-- The lanes of ACPY, ascending (R202). -/
def State.acpyLanes (s : State) (g : Group) (h : Hdr) (o : CpyOp) : List CpyLane :=
  let dd := s.descOf g o.dn.toNat
  let sd := s.descOf g o.sn.toNat
  (s.actors g h).map fun (slot, l, t) =>
    let n := if o.nr then (t.reg o.nreg).toNat else o.nimm.toNat
    let d := t.coords o.dc dd.dims
    let c := t.coords o.sc sd.dims
    let bad := if !dd.inBounds d ∧ !dd.clampz then some (o.dn.toNat, dd.badDim d)
      else if sd.clampz then none
      else (sd.past c n).map fun x => (o.sn.toNat, x)
    ⟨slot, l, n, if dd.inBounds d then n else 0, c, d, bad⟩

/-- The lanes of ASTO, ascending (R203). -/
def State.astoLanes (s : State) (g : Group) (h : Hdr) (o : CpyOp) : List CpyLane :=
  let dd := s.descOf g o.dn.toNat
  let sd := s.descOf g o.sn.toNat
  (s.actors g h).map fun (slot, l, t) =>
    let n := if o.nr then (t.reg o.nreg).toNat else o.nimm.toNat
    let d := t.coords o.dc dd.dims
    let c := t.coords o.sc sd.dims
    let srcBad := if sd.clampz then none else (sd.past c n).map fun x => (o.sn.toNat, x)
    let bad := match srcBad with
      | some x => some x
      | none => if dd.clampz then none else (dd.past d n).map fun x => (o.dn.toNat, x)
    ⟨slot, l, n, min n (dd.reach - dd.bitPos d / 8), c, d, bad⟩

/-- COUNT and ALIGN (R201, R202): the code and TRAPARG. -/
def cpyFault (ls : List CpyLane) (unitEnd byteEnd : Desc) (u b : CpyLane → List Nat) :
    Option (Nat × Nat) :=
  match ls.find? fun x => decide (32 < x.n) with
  | some x => some (9, x.n)
  | none =>
    if ls.any fun x => decide (unitEnd.bitPos (u x) % 256 ≠ 0) || decide (byteEnd.bitPos (b x) % 8 ≠ 0)
    then some (8, 0) else none

/-- After the other lanes have acted: crews with faulting lanes take BOUNDS COORD. -/
def State.coordLanes (s : State) (g : Group) (h : Hdr) (ls : List CpyLane) : State :=
  (s.partsByAge g).foldl (fun s (slot, m) =>
    let bad := ls.filter fun x => decide (x.slot = slot) && x.bad.isSome
    match bad with
    | [] => s.finishPart g.core slot m g.pc (fun _ => g.next) h.stall.toNat g.clsA false
    | x :: _ =>
      let (n, dim) := x.bad.getD (0, 0)
      let lm := maskOf (bad.map (·.lane))
      s.takeTrap g.core slot (g.trap h 3 1 (BitVec.ofNat 32 dim) n m lm)) s

/-- The part of the group that belongs to a slot. -/
def Group.partOf (g : Group) (slot : Nat) : Mask :=
  ((g.parts.find? fun (x, _) => decide (x = slot)).map (·.2)).getD 0

/-- A tag would pass 4,095, or the queue of lane requests is full (R202). -/
def State.noRoom (s : State) (g : Group) (tag : Nat) (new : List CpyLane) : Bool :=
  decide (Config.perThreadMax < (s.core g.core).laneCount + new.length)
    || g.parts.any fun (slot, _) =>
      let n := (new.filter fun x => decide (x.slot = slot)).length
      match s.crew? g.core slot with
      | some k => decide (n ≠ 0) && decide (4095 < (k.tagIds tag).length + n)
      | none => false

/-- A request under a tag enters the queue (R205). -/
def State.queueTag (s : State) (g : Group) (slot tag : Nat) (r : Req) : State :=
  let s := s.modCrew g.core slot fun k =>
    let t := tget { ids := [], loss := false, fault := false } k.copy.tags tag
    { k with copy := { k.copy with tags := tset k.copy.tags tag { t with ids := t.ids ++ [r.serial] } } }
  s.accept g.core r

/-! ## ACPY (R202) -/

/-- A lane of ACPY queues its request, or completes LOST at once. -/
def State.acpyLane (s : State) (g : Group) (o : CpyOp) (x : CpyLane) : State :=
  match s.crew? g.core x.slot with
  | none => s
  | some k =>
    let dd := s.descOf g o.dn.toNat
    let sd := s.descOf g o.sn.toNat
    let tag := o.tag.toNat
    if s.partOpen g o.dn.toNat x.slot (g.partOf x.slot) ∧ s.reachable g.core k.id.ctx sd then
      s.queueTag g x.slot tag (mkReq s.serial (.thread tag x.n x.lane) k x.slot g.pc
        (endOf g.core o.sn.toNat sd x.src) (endOf g.core o.dn.toNat dd x.dst) none x.lane
        (s.coreCycle g.core))
    else s.modCrew g.core x.slot fun k => { k with copy := k.copy.settle tag s.serial .lost }

/-- Lanes of ACPY that act: not in TRAPLM and their destination in bounds. -/
def acpyActs (dd : Desc) (x : CpyLane) : Bool := x.bad.isNone && dd.inBounds x.dst

/-- Sum of the byte counts that lanes request (R173). -/
def sumBytes (ls : List CpyLane) : Nat := ls.foldl (fun n x => n + x.n) 0

/-- The price of every request that ACPY would queue. -/
def State.acpyCost (s : State) (h : Hdr) (o : CpyOp) (g : Group) : Nat :=
  let dd := s.descOf g o.dn.toNat
  let sd := s.descOf g o.sn.toNat
  s.priceAt g.core (copyPrice sd.spaceOf dd.spaceOf
    (sumBytes ((s.acpyLanes g h o).filter fun x => acpyActs dd x && decide (x.n ≤ 32))) 0)

/-- ACPY. -/
def execAcpy (h : Hdr) (o : CpyOp) (s : State) : Host.Outcome State Fault Refusal :=
  s.runAt (.acpy h o) h (fun s g => s.acpyCost h o g) fun s g =>
    let dn := o.dn.toNat
    let sn := o.sn.toNat
    let dd := s.descOf g dn
    let sd := s.descOf g sn
    match s.entryFault g [(dn, dd.elemOrScale, [(o.dc, dd.dims)]), (sn, sd.window, [(o.sc, sd.dims)])] with
    | some (code, n) => s.bounds g h code n 0
    | none =>
      let ls := s.acpyLanes g h o
      match cpyFault ls dd sd (·.dst) (·.src) with
      | some (code, arg) => s.bounds g h code dn (BitVec.ofNat 32 arg)
      | none =>
        let act := ls.filter (acpyActs dd)
        if s.noRoom g o.tag.toNat act then s.retryLater g
        else
          let live := act.filter fun x => s.partOpen g dn x.slot (g.partOf x.slot)
            && s.reachable g.core (s.ctxOf g) sd
          s.payThen g (copyPrice sd.spaceOf dd.spaceOf (sumBytes live) 0) none fun s =>
            (act.foldl (fun s x => s.acpyLane g o x) s).coordLanes g h ls

/-! ## ASTO (R203, R297) -/

/-- What a lane of ASTO does. -/
inductive AstoDo where
  | nothing | lost | refused | queued
  deriving DecidableEq

/-- The lanes of ASTO that act, ascending, with what each does; `room`: places in the deferred queue. -/
def State.astoPlan (s : State) (g : Group) (o : CpyOp) (qscr : Bool) (room : Nat) :
    List CpyLane → List (CpyLane × AstoDo)
  | [] => []
  | x :: xs =>
    let sd := o.sn.toNat
    if x.n = 0 then (x, .nothing) :: s.astoPlan g o qscr room xs
    else if !s.partOpen g sd x.slot (g.partOf x.slot) then (x, .lost) :: s.astoPlan g o qscr room xs
    else if qscr then
      (x, if s.reachable g.core (s.ctxOf g) (s.descOf g o.dn.toNat) then AstoDo.queued else AstoDo.lost)
        :: s.astoPlan g o qscr room xs
    else match room with
      | 0 => (x, .refused) :: s.astoPlan g o qscr 0 xs
      | r + 1 => (x, .queued) :: s.astoPlan g o qscr r xs

/-- An accepted image-bearing write takes its number (R303). -/
def State.number (s : State) (c slot : Nat) (imaged : Bool) : State × Option Nat :=
  match s.crew? c slot with
  | some k =>
    if imaged then
      let n := k.counts.issue
      (s.modCrew c slot fun k => { k with counts := n }, some n.issued)
    else (s, none)
  | none => (s, none)

/-- An image-bearing write that ends LOST at issue has a number and settles at once. -/
def State.numberLost (s : State) (c slot : Nat) (imaged : Bool) : State :=
  match s.number c slot imaged with
  | (s, some n) => s.modCrew c slot fun k => { k with counts := k.counts.settle n }
  | (s, none) => s

/-- A lane of ASTO acts and writes P at latency 4. -/
def State.astoLane (s : State) (g : Group) (o : CpyOp) (qscr imaged : Bool) (x : CpyLane) (a : AstoDo) :
    State :=
  match s.crew? g.core x.slot with
  | none => s
  | some k =>
    let dd := s.descOf g o.dn.toNat
    let sd := s.descOf g o.sn.toNat
    let p := fun (v : Word) (s : State) =>
      s.modThread g.core x.slot x.lane fun t => t.write (pKey o.p) v 4
    let out := fun (f : CopySt → CopySt) (s : State) =>
      s.modCrew g.core x.slot fun k => { k with copy := f k.copy }
    let src := endOf g.core o.sn.toNat sd x.src
    let dst := endOf g.core o.dn.toNat dd x.dst
    let now := s.coreCycle g.core
    match a with
    | .nothing => p 1 s
    | .lost =>
      let s := if qscr then out (fun q => q.settle o.tag.toNat s.serial .lost) s else s
      p 1 ((out (fun q => q.out .lost) s).numberLost g.core x.slot imaged)
    | .refused => p 0 (out (fun q => { q with oref := true }) s)
    | .queued =>
      if qscr then
        let r := mkReq s.serial (.thread o.tag.toNat x.keep x.lane) k x.slot g.pc src dst none x.lane now
        p 1 ((s.later g.core (now + 6) (.source r.serial)).queueTag g x.slot o.tag.toNat r)
      else
        let r := mkReq s.serial (.deferThread x.keep x.lane) k x.slot g.pc src dst none x.lane now
        let (s, n) := s.number g.core x.slot imaged
        p 1 (s.accept g.core { r with seqNo := n })

/-- The first dimension outside the tile among the elements in bounds that a lane of ASTO writes (R297). -/
def State.astoOutside (s : State) (g : Group) (dd : Desc) (x : CpyLane) : Option Nat :=
  match s.crew? g.core x.slot with
  | none => none
  | some k => (List.range (ceilDiv (8 * x.keep) dd.w)).findSome? fun i =>
      let e := bumpInner x.dst i
      if dd.inBounds e then s.outside k dd e else none

/-- The group's crew writes an imaged entry. -/
def State.groupImaged (s : State) (g : Group) (n : Nat) : Bool :=
  match s.crew? g.core g.slot with
  | some k => s.isImaged k n
  | none => false

/-- Images of the writes of the group's crew to an entry. -/
def State.groupImages (s : State) (g : Group) (n : Nat) : Nat :=
  match s.crew? g.core g.slot with
  | some k => (s.imagesOf k n).length
  | none => 0

/-- The group is of a spawned crew. -/
def State.groupSpawned (s : State) (g : Group) : Bool :=
  match s.crew? g.core g.slot with
  | some k => k.id.spawned
  | none => false

/-- The price of every request that ASTO would queue. -/
def State.astoCost (s : State) (h : Hdr) (o : CpyOp) (g : Group) : Nat :=
  let dd := s.descOf g o.dn.toNat
  let sd := s.descOf g o.sn.toNat
  s.priceAt g.core (copyPrice sd.spaceOf dd.spaceOf
    (sumBytes ((s.astoLanes g h o).filter fun x => x.bad.isNone && decide (x.n ≤ 32)))
    (s.groupImages g o.dn.toNat))

/-- ASTO. -/
def execAsto (h : Hdr) (o : CpyOp) (s : State) : Host.Outcome State Fault Refusal :=
  s.runAt (.asto h o) h (fun s g => s.astoCost h o g) fun s g =>
    let dn := o.dn.toNat
    let sn := o.sn.toNat
    let dd := s.descOf g dn
    let sd := s.descOf g sn
    let imaged := s.groupImaged g dn
    if imaged ∧ s.groupSpawned g then s.imageTrap g h 3 dn 0
    else match s.entryFault g
        [(dn, dd.window, [(o.dc, dd.dims)]), (sn, sd.elemOrScale, [(o.sc, sd.dims)])] with
    | some (code, n) => s.bounds g h code n 0
    | none =>
      let ls := s.astoLanes g h o
      match cpyFault ls sd dd (·.src) (·.dst) with
      | some (code, arg) => s.bounds g h code dn (BitVec.ofNat 32 arg)
      | none =>
        match (if imaged then ls.findSome? (s.astoOutside g dd) else none) with
        | some dim => s.imageTrap g h 1 dn (BitVec.ofNat 32 dim)
        | none =>
          let qscr := decide (dd.space = 1)
          let act := ls.filter fun x => x.bad.isNone
          if qscr ∧ s.noRoom g o.tag.toNat act then s.retryLater g
          else
            let room := Config.deferredMax - (s.core g.core).deferredCount
            let plan := s.astoPlan g o qscr room act
            let paid := (plan.filter fun (_, a) => decide (a = .queued)).map (·.1)
            s.payThen g (copyPrice sd.spaceOf dd.spaceOf (sumBytes paid) (s.groupImages g dn)) none fun s =>
              (plan.foldl (fun s (x, a) => s.astoLane g o qscr imaged x a) s).coordLanes g h ls

/-! ## TWAIT and TCNT (R204, R206) -/

/-- The nonzero tag with the oldest outstanding copy. -/
def CopySt.oldest (p : CopySt) : Option Nat :=
  (p.tags.foldl (fun (best : Option (Nat × Nat)) (t, x) =>
    match x.ids.head?, best with
    | none, b => b
    | some i, some (t', j) => if i < j then some (t, i) else some (t', j)
    | some i, none => some (t, i)) none).map (·.1)

/-- TWAIT. -/
def execTwait (h : Hdr) (old : Bool) (tag : BitVec 3) (s : State) : Host.Outcome State Fault Refusal :=
  s.run (.twait h old tag) h fun s g =>
    match s.crew? g.core g.slot with
    | none => s
    | some k =>
      let on := s.on g h g.slot
      let t := if old then k.copy.oldest else some tag.toNat
      match t with
      | none => s.finishDone g h
      | some t =>
        if on = 0 ∨ (k.tagIds t).isEmpty then s.finishDone g h
        else (s.finishRest g h g.slot (g.mask &&& ~~~on) true).park g h g.slot on fun _ => .tag t

/-- The word of TCNT for the tags, and the outbound word (R206). -/
def CopySt.word (p : CopySt) : Nat :=
  (List.range 8).foldl (fun v t =>
    let x := tget { ids := [], loss := false, fault := false } p.tags t
    v + 2 ^ (8 * t) * (min 63 x.ids.length + 64 * x.loss.toNat + 128 * x.fault.toNat)) 0
def CopySt.outWord (p : CopySt) (pend : Nat) : Nat :=
  pend + 2 ^ 11 * p.oloss.toNat + 2 ^ 12 * p.ofault.toNat + 2 ^ 13 * p.oref.toNat

/-- `tcnt.clr`: the sticky bits go. -/
def CopySt.clear (p : CopySt) : CopySt :=
  { tags := tmap p.tags fun _ t => { t with loss := false, fault := false }
    oloss := false, ofault := false, oref := false }

/-- Deferred requests of a crew in its core's queue. -/
def Core.pendOf (c : Core) (k : Crew) : Nat :=
  (c.reqs.filter fun r => r.deferred && decide (r.ctx = k.id.ctx)
    && decide (r.crewId = k.id.crewId)).length

/-- In a cycle in which an operation of the core has landed, the state before it can no longer be read (R222). -/
def State.landedNow (s : State) (c : Nat) : Bool := decide ((s.core c).landAt = some (s.coreCycle c))

/-- TCNT, which issues later than a landing of its cycle (R222). -/
def execTcnt (h : Hdr) (out clr : Bool) (d : RegCode) (s : State) : Host.Outcome State Fault Refusal :=
  s.run (.tcnt h out clr d) h fun s g =>
    match s.leader? g h with
    | none => s.finish g h
    | some (k, _) =>
      if s.landedNow g.core then s.retryLater g
      else
      let v := if out then k.copy.outWord ((s.core g.core).pendOf k) else k.copy.word
      let s := s.readLogged g h d (!out) 4 fun _ _ _ => v
      let s := if clr then s.modCrew g.core g.slot fun k => { k with copy := k.copy.clear } else s
      s.finish g h

/-! ## BCPY and BPUT (R208 to R210) -/

/-- A box of `exts` at coordinate c passes the extents of an entry: the first such dimension. -/
def boxPast (exts c outer : List Nat) : Option Nat :=
  ((exts.zip c).zip outer).findIdx? fun ((e, x), y) => decide (y < x + e)

/-- A price for 32 bytes (R176): what PRICE compares with TKCAP. -/
def State.chunkCost (s : State) (c src dst images : Nat) : Nat :=
  s.priceAt c (copyPrice src dst 32 images)

/-- Both kinds agree (R209). -/
def bulkKinds (whole other : Desc) : Bool :=
  !whole.isGlobal && decide (whole.ndim = other.ndim) && decide (whole.fmt = other.fmt)

/-- Zeros for the coordinate of an end taken whole. -/
def Desc.origin (d : Desc) : List Nat := List.replicate d.dims 0

/-- An end that the copy engine may use at once for the group (R165). -/
def State.endOpen (s : State) (g : Group) (n : Nat) (d : Desc) : Bool :=
  if d.isGlobal then s.reachable g.core (s.ctxOf g) d else s.partOpen g n g.slot g.mask

/-- BCPY. -/
def execBcpy (h : Hdr) (o : BcpyOp) (s : State) : Host.Outcome State Fault Refusal :=
  let dn := o.dn.toNat
  let sn := o.sn.toNat
  s.runAt (.bcpy h o) h (fun s g => s.chunkCost g.core (s.descOf g sn).spaceOf 0 0) fun s g =>
    let dd := s.descOf g dn
    let sd := s.descOf g sn
    match s.leader? g h with
    | none => s.finish g h
    | some (k, t) =>
      match s.entryFault g
        [(dn, bulkKinds dd sd && decide (dn ≠ sn), []), (sn, true, [(o.c, sd.dims)])] with
      | some (code, n) => s.bounds g h code n 0
      | none =>
        let c := t.coords o.c sd.dims
        match (if sd.clampz then none else boxPast dd.exts c sd.exts), (s.core g.core).freeTicket? with
        | some dim, _ => s.bounds g h 1 sn (BitVec.ofNat 32 dim)
        | none, none => s.retryLater g
        | none, some i =>
          if !s.endOpen g dn dd ∨ !s.endOpen g sn sd then
            let (s, id) := s.takeTicket g.core i g.slot .pend o.setf 0
            ((s.settleTicket g.core (some i) .lost).writeTicket g o.t id (2 ^ 64 - 1)).finish g h
          else
            let r := mkReq s.serial (.bulk o.setf) k g.slot g.pc (endOf g.core sn sd c)
              (endOf g.core dn dd dd.origin) (some i) (lowLane (k.holding h g.mask)) (s.coreCycle g.core)
            match g.firstChunk (s.nextChunk g.core r) with
            | none => s.raise g h 9 1 (BitVec.ofNat 32 (s.chunkCost g.core sd.spaceOf 0 0)) 0
            | some (n, price) => s.payThen g price (some n) fun s =>
                let (s, est) := s.promise g.core
                let (s, id) := s.takeTicket g.core i g.slot .pend o.setf est
                ((s.accept g.core { r with serial := s.serial, paid := [n] }).writeTicket g o.t id est).finish
                  g h

/-- P in the threads whose guard holds. -/
def State.resultP (s : State) (g : Group) (h : Hdr) (p : PIdx) (v : Bool) : State :=
  s.writeP g h p 4 fun _ _ _ => v

/-- The first dimension in which a box, cut to its window, leaves the tile (R297). -/
def State.boxOutside (s : State) (k : Crew) (d : Desc) (c exts : List Nat) : Option Nat :=
  let hi := ((c.zip exts).zip d.exts).map fun ((x, e), y) => min (x + e) y - 1
  if !d.inBounds c then none
  else match s.outside k d c, s.outside k d hi with
    | some a, some b => some (min a b)
    | some a, none | none, some a => some a
    | none, none => none

/-- BPUT is accepted: at once for QSCR, else into the deferred queue. -/
def State.bputAccept (s : State) (g : Group) (h : Hdr) (o : BputOp) (i : Nat) (r : Req) (n : Nat)
    (imaged : Bool) : State :=
  if r.deferred then
    let (s, id) := s.takeTicket g.core i g.slot .deferred false (2 ^ 64 - 1)
    let (s, num) := s.number g.core g.slot imaged
    let s := s.accept g.core { r with serial := s.serial, paid := [n], seqNo := num }
    ((s.writeTicket g o.t id (2 ^ 64 - 1)).resultP g h o.p true).finish g h
  else
    let (s, est) := s.promise g.core
    let (s, id) := s.takeTicket g.core i g.slot .pend false est
    let s := s.accept g.core { r with serial := s.serial, paid := [n] }
    ((s.writeTicket g o.t id est).resultP g h o.p true).finish g h

/-- BPUT. -/
def execBput (h : Hdr) (o : BputOp) (s : State) : Host.Outcome State Fault Refusal :=
  let dn := o.dn.toNat
  let sn := o.sn.toNat
  let cost := fun (s : State) (g : Group) =>
    s.chunkCost g.core 0 (s.descOf g dn).spaceOf (s.groupImages g dn)
  s.runAt (.bput h o) h cost fun s g =>
    let dd := s.descOf g dn
    let sd := s.descOf g sn
    let imaged := s.groupImaged g dn
    match s.leader? g h with
    | none => s.finish g h
    | some (k, t) =>
      if imaged ∧ k.id.spawned then s.imageTrap g h 3 dn 0
      else match s.entryFault g
        [(dn, bulkKinds sd dd && dd.isGlobal, [(o.c, dd.dims)]), (sn, true, [])] with
      | some (code, n) => s.bounds g h code n 0
      | none =>
        let c := t.coords o.c dd.dims
        let qscr := decide (dd.space = 1)
        match (if imaged then s.boxOutside k dd c sd.exts else none),
            (if dd.clampz then none else boxPast sd.exts c dd.exts) with
        | some dim, _ => s.imageTrap g h 1 dn (BitVec.ofNat 32 dim)
        | none, some dim => s.bounds g h 1 dn (BitVec.ofNat 32 dim)
        | none, none =>
          if !qscr ∧ Config.deferredMax ≤ (s.core g.core).deferredCount then
            let s := s.modCrew g.core g.slot fun k => { k with copy := { k.copy with oref := true } }
            ((s.writeTicket g o.t 0xFFFFFFFF (2 ^ 64 - 1)).resultP g h o.p false).finish g h
          else match (s.core g.core).freeTicket? with
            | none => s.retryLater g
            | some i =>
              if !s.endOpen g sn sd ∨ !s.endOpen g dn dd then
                let (s, id) := s.takeTicket g.core i g.slot .pend false 0
                let s := s.settleTicket g.core (some i) .lost
                let s := if qscr then s else s.modCrew g.core g.slot fun k =>
                    { k with copy := { k.copy with oloss := true } }
                let s := s.numberLost g.core g.slot imaged
                ((s.writeTicket g o.t id (2 ^ 64 - 1)).resultP g h o.p true).finish g h
              else
                let kind := if qscr then ReqKind.bulk false else ReqKind.deferBulk
                let r := mkReq s.serial kind k g.slot g.pc (endOf g.core sn sd sd.origin)
                  (endOf g.core dn dd c) (some i) (lowLane (k.holding h g.mask)) (s.coreCycle g.core)
                match g.firstChunk (s.chunk g.core 0 dd.spaceOf r.bytes (s.groupImages g dn)) with
                | none => s.raise g h 9 1 (BitVec.ofNat 32 (cost s g)) 0
                | some (n, price) => s.payThen g price (some n) fun s => s.bputAccept g h o i r n imaged

/-! ## CWAIT and CQRY (R212) -/

/-- The word of CQRY. -/
def Core.queryWord (c : Core) (id : Word) : Nat :=
  match c.lookup id with
  | some t => t.st.code + 8 * t.setf.toNat + 256 * t.landed
  | none => 0

/-- `cqry.est`: the completion TICK once DONE, all ones while DEFER; else the copy unit's estimate, a free
value (log 3). -/
def Core.estimate (c : Core) (ctr : Nat) (id : Word) : Nat :=
  match c.lookup id with
  | some t =>
    if t.st = .done then t.doneTick
    else if t.st = .deferred then 2 ^ 64 - 1
    else Config.estimateDelay ctr % 2 ^ 64
  | none => Config.estimateDelay ctr % 2 ^ 64

/-- CQRY, which issues later than a landing of its cycle (R222). -/
def execCqry (h : Hdr) (est : Bool) (d a : RegCode) (s : State) : Host.Outcome State Fault Refusal :=
  s.run (.cqry h est d a) h fun s g =>
    let c := s.core g.core
    let ctr := s.freeCtr
    if s.landedNow g.core then s.retryLater g
    else
      ({ s with freeCtr := ctr + 64 }.readLogged g h d est 4 fun l _ t =>
        if est then c.estimate (ctr + l) (t.reg a) else c.queryWord (t.reg a)).finish g h

/-- The ids that the threads of a lane set name. -/
def Crew.idsOf (k : Crew) (on : Mask) (a : RegCode) : List (Nat × Word) :=
  (lanesOf on).filterMap fun l => (k.thread? l).map fun t => (l, t.reg a)

/-- Threads wait for tickets, or get their results at once (R212). -/
def State.waitTickets (s : State) (g : Group) (h : Hdr) (p : PIdx) (on : Mask) (ids : List (Nat × Word)) :
    State :=
  let c := s.core g.core
  let own := fun (l : Nat) => ((ids.find? fun (i, _) => decide (i = l)).map (·.2)).getD 0xFFFFFFFF
  if ids.any fun (_, i) => c.waitsFor i then
    (s.finishRest g h g.slot (g.mask &&& ~~~on) true).park g h g.slot on fun l =>
      .ticket p (own l) (ids.map (·.2))
  else (s.finishDone g h).modLanes g.core g.slot on fun l t =>
    t.put (pKey p) (BitVec.ofNat 32 (c.verdict (own l)).toNat)

/-- CWAIT. -/
def execCwait (h : Hdr) (p : PIdx) (a : RegCode) (s : State) : Host.Outcome State Fault Refusal :=
  s.run (.cwait h p a) h fun s g =>
    match s.crew? g.core g.slot with
    | none => s
    | some k =>
      let on := k.holding h g.mask
      let ids := k.idsOf on a
      let c := s.core g.core
      let late := ids.filter fun (_, i) => c.waitsFor i
      let lm := maskOf (late.map (·.1))
      let (hpc, masked) := k.handlerFor g.mask 2 none
      if late.isEmpty ∨ masked ∨ (hpc = 0 ∧ !k.trap.handling) then s.waitTickets g h p on ids
      else
        let ctr := s.freeCtr
        let latest := late.foldl (fun m (l, i) => max m (c.estimate (ctr + l) i)) 0
        let arg := BitVec.ofNat 32 (min (2 ^ 32 - 1) (latest - s.coreTick g.core))
        { s with freeCtr := ctr + 64 }.takeTrap g.core g.slot
          (g.trap h 2 0 arg 0 g.mask lm)

/-! ## MIGR (R219) -/

/-- The home tile that holds the element at a coordinate. -/
def Desc.tileAt (d : Desc) (c : List Nat) : Nat :=
  (if d.gpl then 32 * (linear d.exts c / 256 * fmtPlanes d.fmt) else d.bitOff c / 8) / 65536

/-- The map entry of a tile of a window. -/
def State.homeOf (s : State) (ctx : Nat) (d : Desc) (tile : Nat) : Home :=
  match s.allocOf ctx d with
  | some a => a.home tile
  | none => ⟨d.space, 0, false, false⟩

/-- The tile that MIGR names in a state (R219): the one that holds the byte at the coordinate of the lowest lane whose
guard holds; its current home prices the copy (R173). -/
def State.migrHome (s : State) (h : Hdr) (o : MigrOp) (g : Group) : Home :=
  let d := s.descOf g o.n.toNat
  match s.leader? g h with
  | none => ⟨d.space, 0, false, false⟩
  | some (k, t) => s.homeOf k.id.ctx d (d.tileAt (t.coords o.c d.dims))

/-- A migration of the tile that a later core or crew issued in this same cycle: the group issues later, and is then
refused (R222). -/
def State.migrBehind (s : State) (c : Nat) (k : Crew) (h : BitVec 64) (tile : Nat) : Bool :=
  s.cores.any fun (c', x) => x.reqs.any fun r =>
    (match r.kind with
      | .migr h' t _ _ => decide (h' = h) && decide (t = tile)
      | _ => false)
    && decide (r.ctx = k.id.ctx) && decide (r.accepted = s.coreCycle c')
    && (decide (c < c') || (decide (c = c') && decide (k.id.crewId.toNat < r.crewId.toNat)))

/-- The ticket of MIGR in s[T], and P. -/
def State.migrDone (s : State) (g : Group) (h : Hdr) (o : MigrOp) (id : Word) (p : Bool) : State :=
  let s := s.modCrew g.core g.slot fun k => k.writeS g.mask o.t.toNat id 4
  (s.resultP g h o.p p).finish g h

/-- MIGR. -/
def execMigr (h : Hdr) (o : MigrOp) (s : State) : Host.Outcome State Fault Refusal :=
  let n := o.n.toNat
  let home := o.home.toNat
  let cost := fun (s : State) (g : Group) => s.chunkCost g.core (s.migrHome h o g).space home 0
  s.runAt (.migr h o) h cost fun s g =>
    let d := s.descOf g n
    match s.leader? g h with
    | none => s.finish g h
    | some (k, t) =>
      let ctx := k.id.ctx
      match s.entryFault g
        [(n, d.isGlobal && decide (2 ≤ d.space ∧ d.space ≤ 4), [(o.c, d.dims)])] with
      | some (code, e) => s.bounds g h code e 0
      | none =>
        let c := t.coords o.c d.dims
        let tile := d.tileAt c
        let m := s.homeOf ctx d tile
        if !d.inBounds c ∧ !d.clampz then s.bounds g h 1 n (BitVec.ofNat 32 (d.badDim c))
        else if m.mig && s.migrBehind g.core k d.handle tile then s.retryLater g
        else if m.mig ∨ !d.inBounds c then s.migrDone g h o 0xFFFFFFFF false
        else match (s.core g.core).freeTicket? with
          | none => s.retryLater g
          | some i =>
            if m.space = home ∨ !s.backed ctx home then
              let (s, id) := s.takeTicket g.core i g.slot .pend false 0
              (s.settleTicket g.core (some i) (if m.space = home then .done else .fault)).migrDone g h o id
                true
            else
              let e := endOf g.core n d c
              let r := mkReq s.serial (.migr d.handle tile home 0) k g.slot g.pc e e (some i)
                (lowLane (k.holding h g.mask)) (s.coreCycle g.core)
              match g.firstChunk (s.nextChunk g.core r) with
              | none => s.raise g h 9 1 (BitVec.ofNat 32 (cost s g)) 0
              | some (x, price) => s.payThen g price (some x) fun s =>
                  let s := s.modHome ctx d.handle tile fun q => { q with mig := true }
                  let (s, frame) := s.takeFrame home
                  let r := { r with kind := .migr d.handle tile home frame }
                  let (s, est) := s.promise g.core
                  let (s, id) := s.takeTicket g.core i g.slot .pend false est
                  (s.accept g.core { r with serial := s.serial, paid := [x] }).migrDone g h o id true

end Sys2Proof.Machine
end

