-- ==== Sys2Proof/Machine/MatNum.lean ====
section
/-! DEFINITION. What a matrix pass, MSCA and the drains compute (R232 to R238, R241, R242). -/

namespace Sys2Proof.Machine

/-- One element of a pass: its value in units of the format's least positive value, and its value as
the class test takes it, whole (R232, R236). -/
structure MElem where
  v : Int
  w : FVal

/-- Keep the first q of `n` significand bits (R42). -/
def keepPlanes (n q m : Nat) : Nat := m / 2 ^ (n - q) * 2 ^ (n - q)

/-- An element of a format, with q significand planes (R42). -/
def mElem (fmt q bits : Nat) : MElem :=
  if fmtFloat fmt then
    let f := ffmtOf fmt
    let x := fdec f bits
    match x with
    | .fin n m e =>
      let k := keepPlanes (f.frac + 1) q m * 2 ^ (e - f.qmin).toNat
      ⟨if n then -(k : Int) else k, x⟩
    | _ => ⟨0, x⟩
  else
    let n := fmtWidth fmt
    let x : Int := intVal fmt bits
    let k : Int := x / 2 ^ (n - q) * 2 ^ (n - q)
    ⟨k, .fin (decide (x < 0)) x.natAbs 0⟩

/-- Exponent of the product unit of two formats. -/
def unitExp (fmt : Nat) : Int := if fmtFloat fmt then (ffmtOf fmt).qmin else 0

/-- Sign of a product, where neither is NaN. -/
def FVal.neg? : FVal → Bool
  | .nan _ => false
  | .inf n => n
  | .fin n _ _ => n

/-- What one product adds to the test for specials: NaN or 0 × ∞; ∞ with its sign. -/
inductive Special where
  | none | nan | inf (neg : Bool)
  deriving DecidableEq

def special (a b : FVal) : Special :=
  match a, b with
  | .nan _, _ | _, .nan _ => .nan
  | .inf _, .fin _ 0 _ | .fin _ 0 _, .inf _ => .nan
  | .inf n, x => .inf (n != x.neg?)
  | x, .inf n => .inf (n != x.neg?)
  | _, _ => .none

/-- Specials of a K block (R236). -/
def specials (ps : List (MElem × MElem)) : Special :=
  ps.foldl (fun acc (a, b) =>
    match acc, special a.w b.w with
    | .nan, _ | _, .nan => .nan
    | .none, x => x
    | x, .none => x
    | .inf m, .inf n => if m = n then .inf m else .nan) .none

/-- Truncation of a product toward zero to a multiple of 2^sh. -/
def truncTo (sh : Nat) (p : Int) : Int :=
  let k : Int := (p.natAbs / 2 ^ sh * 2 ^ sh : Nat)
  if p < 0 then -k else k

/-- PSUM of products in units of 2^ex (R235). -/
def psum (wide : Bool) (ex : Int) (ps : List Int) : Nat :=
  let top := ps.foldl (fun m p => if p = 0 then m else max m (Nat.log2 p.natAbs)) 0
  let ps := if wide ∧ 48 < top then ps.map (truncTo (top - 48)) else ps
  let sum := ps.foldl (· + ·) 0
  (roundF F32 .rn false (decide (sum < 0)) sum.natAbs ex false).bits

/-- One cell of a pass (R234 to R236); `fa` is FA and `fb` FB. -/
def passCell (fa fb : Nat) (ps : List (MElem × MElem)) : Word :=
  let prods := ps.map fun (a, b) => a.v * b.v
  if !fmtFloat fa then BitVec.ofInt 32 (prods.foldl (· + ·) 0)
  else match specials ps with
    | .nan => BitVec.ofNat 32 F32.nan
    | .inf n => BitVec.ofNat 32 ((if n then F32.sbit else 0) + F32.infBits)
    | .none => BitVec.ofNat 32 (psum (decide (fa = 1 ∨ fa = 2)) (unitExp fa + unitExp fb) prods)

/-- The listed values of a table as a list of `n` words from key i on. -/
def dense (t : Tab Word) (i : Nat) : Nat → List Word
  | 0 => []
  | n + 1 =>
    match t with
    | [] => List.replicate (n + 1) 0
    | (k, v) :: r => if k = i then v :: dense r (i + 1) n else 0 :: dense ((k, v) :: r) (i + 1) n

/-- The table of a list of words. -/
def sparse : List Word → Nat → Tab Word
  | [], _ => []
  | v :: vs, i => if v = 0 then sparse vs (i + 1) else (i, v) :: sparse vs (i + 1)

/-- Cut a list into rows. -/
def rowsOf {α : Type} (l : List α) (w : Nat) : Nat → List (List α)
  | 0 => []
  | n + 1 => l.take w :: rowsOf (l.drop w) w n

/-- Columns of rows of `w` elements. -/
def columnsOf {α : Type} (rows : List (List α)) (w : Nat) : List (List α) :=
  rows.foldr (fun r acc => (r.zip acc).map fun (x, c) => x :: c) (List.replicate w [])

/-- A pass: A by rows of K bit patterns, the B tile by key 128 x + j, chunks skipped (R234, R241). -/
def passTile (fa fb q : Nat) (a : List (List Nat)) (b : Tab Word) (skipped : List Nat) : Tab Word :=
  let k := matK fa
  let keep := fun (l : List MElem) => if skipped.isEmpty then l
    else (l.zipIdx).filterMap fun (x, i) => if skipped.contains (i / 32) then none else some x
  let rows := a.map fun r => keep (r.map (mElem fa q))
  let cols := (columnsOf (rowsOf (dense b 0 (128 * k)) 128 k) 128).map fun c =>
    keep (c.map fun v => mElem fb 64 v.toNat)
  sparse (rows.flatMap fun r => cols.map fun c => passCell fa fb (r.zip c)) 0

/-- x × y, exact (R237). -/
def mulFV (x y : FVal) : FVal :=
  match x, y with
  | .nan s, _ | _, .nan s => .nan s
  | .inf _, .fin _ 0 _ | .fin _ 0 _, .inf _ => .nan false
  | .inf n, y => .inf (n != y.neg?)
  | x, .inf n => .inf (n != x.neg?)
  | .fin a m e, .fin b n f => .fin (a != b) (m * n) (e + f)

/-- The value of a tile element. -/
def tileVal (isInt : Bool) (v : Word) : FVal :=
  if isInt then .fin (decide (v.toInt < 0)) v.toInt.natAbs 0 else fdec F32 v.toNat

/-- MSCA on one cell (R237). -/
def mscaCell (isInt : Bool) (sa sb : Nat) (ac ps : Word) : Word :=
  BitVec.ofNat 32 (fmaV F32 .rn false (mulFV (fdec F32 sa) (fdec F32 sb)) (tileVal isInt ps)
    (fdec F32 ac.toNat)).bits

/-- Slot of sa[i] in a scale tile (R238). -/
def scaleSlot (i : Nat) : Nat := i ^^^ (i / 16 % 8)

/-- MSCA on a tile: `sa` is the list of the 128 activation scales. -/
def mscaTile (isInt : Bool) (sa : List Nat) (sb : Nat) (ac ps : Tab Word) : Tab Word :=
  let rows := rowsOf ((dense ac 0 16384).zip (dense ps 0 16384)) 128 128
  sparse ((sa.zip rows).flatMap fun (x, r) => r.map fun (a, p) => mscaCell isInt x sb a p) 0

/-- MDRN's element as converted (R242). -/
def drainConv (cv : Nat) (v : Word) : Nat :=
  match cv with
  | 1 => (cvtFF F32 BF16 .rn false false v.toNat).bits
  | 2 => (cvtFF F32 F16 .rn false false v.toNat).bits
  | _ => v.toNat

/-- MDRA's sum (R242). -/
def drainAdd (isInt : Bool) (cur v : Nat) : Nat :=
  if isInt then (cur + v) % 2 ^ 32 else (fadd F32 .rn false cur v).bits

end Sys2Proof.Machine
end

