-- ==== Sys2Proof/Machine/MatUnit.lean ====
section
/-! DEFINITION. The matrix engine of a quad: banks and tiles (R223 to R225), reading operands, grants
(R227, R233), completion and drains (R228, R242 to R244). -/

namespace Sys2Proof.Machine

/-! ## Banks and tiles -/

def Tile.zero : Tile := { vals := [], isInt := false, owner := none, since := 0 }
def TileBank.tile (b : TileBank) (n : Nat) : Tile := tget Tile.zero b.tiles n

/-- The bank that holds a context's tiles now. -/
def BankUse.holds (u : BankUse) (ctx : Nat) : Bool :=
  match u with
  | .bound c | .spilling c => decide (c = ctx)
  | _ => false

/-- The bank of a context, in whatever state. -/
def BankUse.names (u : BankUse) (ctx : Nat) : Bool :=
  match u with
  | .free => false
  | .bound c | .spilling c | .filling c => decide (c = ctx)

def Quad.bankAt? (q : Quad) (ctx : Nat) : Option Nat := q.banks.findIdx? fun b => b.use.holds ctx

/-- The tiles of a context on a quad: in its bank, or in its save area. -/
def State.tilesOf (s : State) (q ctx : Nat) : TileBank :=
  match (s.quad q).bankAt? ctx with
  | some i => (s.quad q).banks.getD i TileBank.reset
  | none => tget TileBank.reset (s.context ctx).savedTiles q

def State.modTiles (s : State) (q ctx : Nat) (f : TileBank → TileBank) : State :=
  match (s.quad q).bankAt? ctx with
  | some i => s.modQuad q fun x => { x with banks := x.banks.modify i f }
  | none => s.modContext ctx fun x =>
      { x with savedTiles := tset x.savedTiles q (f (tget TileBank.reset x.savedTiles q)) }

def TileBank.modTile (b : TileBank) (n : Nat) (f : Tile → Tile) : TileBank :=
  { b with tiles := tset b.tiles n (f (b.tile n)) }

/-- A context with a request in the table takes a FREE bank (R224). -/
def State.bindBank (s : State) (q ctx : Nat) : State :=
  if (s.quad q).banks.any fun b => b.use.names ctx then s
  else match (s.quad q).banks.findIdx? fun b => decide (b.use = .free) with
    | none => s
    | some i =>
      let saved := (tget? (s.context ctx).savedTiles q).isSome
      let b : TileBank :=
        { TileBank.reset with use := if saved then .filling ctx else .bound ctx, granted := !saved }
      s.modQuad q fun x => { x with banks := x.banks.set i b }

/-- A context with a request in the table has no bank. -/
def Quad.waiter (q : Quad) : Option Nat :=
  (q.table.find? fun r => (match r.st with | .granted _ => false | _ => true)
    && !q.banks.any fun b => b.use.names r.ctx).map fun r => r.ctx

/-- FREE banks are bound to the contexts that wait for one (R224). -/
def State.bindWaiting (s : State) (q : Nat) : State :=
  (s.quad q).banks.foldl (fun s _ => match (s.quad q).waiter with
    | some w => s.bindBank q w
    | none => s) s

/-- A context without crews, reserved tiles or requests on a quad leaves its bank, which a waiting one takes (R224). -/
def State.tidyBank (s : State) (q ctx : Nat) : State :=
  let crews := (List.range 4).any fun i => (s.core (4 * q + i)).slots.any fun (_, k) => decide (k.id.ctx = ctx)
  let tiles := (s.tilesOf q ctx).tiles.any fun (_, t) => t.owner.isSome
  if crews || tiles || (s.quad q).table.any (fun r => decide (r.ctx = ctx)) then s
  else (s.modQuad q fun x =>
    { x with banks := x.banks.map fun b => if b.use = .bound ctx then TileBank.reset else b }).bindWaiting q

/-! ## Operations -/

/-- Integer element formats give S32 tiles (R230). -/
def fmtInt (fa : Nat) : Bool := decide (fa = 7 ∨ fa = 9)

/-- The tile an operation writes and its kind (R223). -/
def MatOp.writes : MatOp → Option (Nat × Bool)
  | .mma fa _ _ _ ps _ | .mmas fa _ ps _ _ _ => some (4 + ps, fmtInt fa)
  | .msca _ t | .mzero t | .mlda t => some (t, false)
  | .mdrn _ _ _ | .mdra _ _ => none

/-- The tiles it reads. -/
def MatOp.reads : MatOp → List Nat
  | .msca ps t => [t, 4 + ps]
  | .mdrn t _ _ | .mdra t _ => [t]
  | _ => []

/-- The tiles it names. -/
def MatOp.tiles (o : MatOp) : List Nat :=
  o.reads ++ (match o.writes with | some (t, _) => [t] | none => [])

/-- It uses the drain port. -/
def MatOp.port : MatOp → Bool
  | .mdrn _ _ _ | .mdra _ _ => true
  | _ => false

/-- Nominal price with n images (R173, R174, R299). -/
def MatOp.price (images : Nat) : MatOp → Nat
  | .mma fa _ _ _ _ p => passPrice fa p
  | .mmas fa _ _ p _ _ => passPrice fa p + 64
  | .msca _ _ => 30
  | .mzero _ => 0
  | .mlda _ => 16
  | .mdrn _ _ _ => 16 * (1 + images)
  | .mdra _ _ => 24 * (1 + images)

/-- A request's crew. -/
def MatReq.crewKey (r : MatReq) : Nat × Nat × BitVec 16 := (r.core, r.ctx, r.crewId)

def MatReq.granted (r : MatReq) : Bool :=
  match r.st with
  | .granted _ => true
  | _ => false

/-- A granted request still holds its unit. -/
def MatReq.busy (r : MatReq) (now : Nat) : Bool :=
  match r.st with
  | .granted d => !r.op.port || decide (now < d)
  | _ => false

/-- The kind a tile has once the requests in the table have written it (R229, log 23). -/
def State.tileInt (s : State) (q ctx n : Nat) : Bool :=
  ((s.quad q).table.foldl (fun k r =>
    if r.ctx = ctx then
      match r.op.writes with
      | some (t, i) => if t = n then i else k
      | none => k
    else k) ((s.tilesOf q ctx).tile n).isInt)

/-- Entries of the reservation table in use (R226). -/
def State.tableUse (s : State) (q : Nat) : Nat :=
  let now := s.quadCycle q
  ((s.quad q).table.filter fun r => !r.granted || r.busy now).length

/-! ## Reading operands (R230, R231, R241) -/

/-- A box at an end's coordinate: the two innermost dimensions vary; out of bounds reads 0. -/
def State.boxAt (s : State) (r : MatReq) (e : CopyEnd) (rows cols : Nat) : List (List Nat) :=
  let p := s.port r.core r.ctx e.desc
  let m := s.memOf p s.globalMem
  let n := e.coord.length
  let outer := e.coord.take (n - 2)
  let a := e.coord.getD (n - 2) 0
  let b := e.coord.getD (n - 1) 0
  (List.range rows).map fun i => (List.range cols).map fun j =>
    let c := outer ++ [a + i, b + j]
    if e.desc.inBounds c then p.elem m e.desc c else 0

/-- Every element of a one-dimensional entry. -/
def State.vecAt (s : State) (r : MatReq) (e : CopyEnd) : List Nat :=
  let p := s.port r.core r.ctx e.desc
  let m := s.memOf p s.globalMem
  (List.range (e.desc.exts.getD 0 0)).map fun i => p.elem m e.desc [i]

def noEnd : CopyEnd := ⟨0, 0, Desc.free, []⟩

/-- An operand end of a request. -/
def MatReq.opEnd (r : MatReq) (i : Nat) : CopyEnd := r.ends.getD i noEnd

/-- The B tile of an MMA, read now (R231). -/
def State.readB (s : State) (r : MatReq) : Tab Word :=
  match r.op with
  | .mma fa _ bt _ _ _ =>
    let k := matK fa
    let rows := if bt then columnsOf (s.boxAt r (r.opEnd 1) 128 k) k else s.boxAt r (r.opEnd 1) k 128
    sparse (rows.flatten.map fun v => BitVec.ofNat 32 v) 0
  | _ => []

/-- One element of W goes to its place in row x of B (R241). -/
def gatherOne (x j0 : Nat) (idx val : List Nat) (b : Tab Word) (e : Nat) : Tab Word :=
  let j := idx.getD e 0
  if j0 ≤ j ∧ j < j0 + 128 then tset b (128 * x + (j - j0)) (BitVec.ofNat 32 (val.getD e 0)) else b

/-- The gathered B tile; none for a CSR error (R241). -/
def gatherTile (k k0 j0 : Nat) (ptr idx val : List Nat) : Option (Tab Word) :=
  (List.range k).foldl (fun acc x =>
    match acc with
    | none => none
    | some b =>
      let row := k0 + x
      if ptr.length ≤ row + 1 then some b
      else
        let lo := ptr.getD row 0
        let hi := ptr.getD (row + 1) 0
        if hi < lo ∨ idx.length < hi then none
        else some ((List.range (hi - lo)).foldl (fun b i => gatherOne x j0 idx val b (lo + i)) b))
    (some [])

/-- A gathered element is ±0. -/
def isZeroElem (fmt : Nat) (v : Word) : Bool :=
  if fmtFloat fmt then decide (v.toNat % (ffmtOf fmt).sbit = 0) else decide (v = 0)

/-- Chunks of 32 rows in which every element is zero (R241). -/
def zeroChunks (fb k : Nat) (b : Tab Word) : List Nat :=
  (List.range (k / 32)).filter fun m =>
    b.all fun (key, v) => decide (key / 4096 ≠ m) || isZeroElem fb v

/-! ## Requests that end -/

/-- Change a request in its table. -/
def State.modMat (s : State) (q serial : Nat) (f : MatReq → MatReq) : State :=
  s.modQuad q fun x => { x with table := x.table.map fun r => if r.serial = serial then f r else r }

/-- A granted request leaves its unit with a status. -/
def State.endMat (s : State) (q : Nat) (r : MatReq) (st : TickSt) : State :=
  let s := s.modQuad q fun x => { x with table := x.table.filter fun k => decide (k.serial ≠ r.serial) }
  let s := s.settleTicket r.core (some r.ticket) st
  let s := match r.seqNo with
    | some n => s.modOwner r.core r.ctx r.crewId fun k => { k with counts := k.counts.settle n }
    | none => s
  ((s.logItem r.ctx 3 r.crewId (s.retiredOf r.core r.ctx r.crewId) [r.pc.toNat, st.code]).tidyBank q r.ctx).wakeEngine
    r.core

/-- An ungranted request leaves the table: its earmark returns (R183, R226). -/
def State.dropOne (s : State) (r : MatReq) (st : TickSt) : State :=
  ((s.dropMatrix r.core (fun x => decide (x.serial = r.serial)) st).tidyBank (quadOf r.core) r.ctx).wakeEngine r.core

/-- An event of a matrix request for the coalescer. -/
def MatReq.record (r : MatReq) (cause addr : Nat) : FaultRec :=
  { cause := cause, sub := 0, count := 1, slots := 2 ^ r.slot, imprecise := true, pc := r.pc,
    crewId := r.crewId, ctx := r.ctx, launch := r.launch, lid := 0, addr := addr, opened := 0, gone := false }

/-! ## Loading B and gathering (R233, R241) -/

/-- The request is EARMARKED and every earlier one of its crew has been granted. -/
def Quad.isNext (q : Quad) (r : MatReq) : Bool :=
  (match r.st with | .earmarked _ => true | _ => false)
    && (q.table.find? fun x => decide (x.crewKey = r.crewKey) && !x.granted).any fun x =>
      decide (x.serial = r.serial)

/-- Key of a crew in the list of last B tiles. -/
def kbKey (ctx : Nat) (id : BitVec 16) : Nat := 65536 * ctx + id.toNat

/-- The B tile of a request has been read: `.kb` passes of its crew use it. -/
def State.loadB (s : State) (q : Nat) (r : MatReq) : State :=
  let b := s.readB r
  let now := s.quadCycle q
  (s.modMat q r.serial fun x => { x with bTile := some b, loadStart := some now }).modQuad q fun x =>
    { x with lastB := tset x.lastB (kbKey r.ctx r.crewId) ⟨r.serial, b⟩ }

/-- The entry, with its core, whose cells an end names: its own, or the one behind a QSCR window. -/
def CopyEnd.cells? (e : CopyEnd) (c : Nat) : Option (Nat × Nat) :=
  if !e.desc.isGlobal then some (e.core, e.entry)
  else if e.desc.space = 1 then some (qscrCore (quadOf c) e.desc.handle, qscrEntry e.desc.handle)
  else none

/-- A drain writes cells of an entry that a request names (R227). -/
def MatReq.drainsInto (x r : MatReq) : Bool :=
  x.op.port && decide (x.ctx = r.ctx) && match (x.opEnd 0).cells? x.core with
    | some w => r.ends.any fun e => decide (e.cells? r.core = some w)
    | none => false

/-- A granted drain still has to write cells of an entry that the request names. -/
def Quad.draining (q : Quad) (r : MatReq) : Bool := q.table.any fun x => x.granted && x.drainsInto r

/-- The scratchpad stands as the request may read it: no granted drain has still to land there (R227), and the thread
accesses before it are done (R247). -/
def State.operandsReady (s : State) (q : Nat) (r : MatReq) : Bool :=
  !(s.quad q).draining r && s.accessesDone r.core r.serial

/-- A request whose B the loader may read now: the first that is next in its crew's order, while a
half of the buffer is free (R233). -/
def State.loadable (s : State) (q : Nat) : Option MatReq :=
  let x := s.quad q
  let now := s.quadCycle q
  let loaded := (x.table.filter fun r => r.bTile.isSome && r.kbOf.isNone && (!r.granted || r.busy now)).length
  if 2 ≤ loaded then none
  else x.table.find? fun r => x.isNext r && r.bTile.isNone && r.kbOf.isNone
    && (match r.op with | .mma _ _ _ _ _ _ => true | _ => false) && s.operandsReady q r

/-- The MMAS whose B the gather unit builds next. -/
def State.gatherable (s : State) (q : Nat) : Option MatReq :=
  (s.quad q).table.find? fun r => (match r.op, r.st with
    | .mmas _ _ _ _ _ _, .earmarked _ => true
    | _, _ => false) && r.bTile.isNone && s.operandsReady q r

/-- The gather of an MMAS, or its CSR error (R241). -/
def State.gatherB (s : State) (q : Nat) (r : MatReq) : State :=
  match r.op with
  | .mmas fa fb _ _ k0 j0 =>
    match gatherTile (matK fa) k0 j0 (s.vecAt r (r.opEnd 3)) (s.vecAt r (r.opEnd 2))
        (s.vecAt r (r.opEnd 1)) with
    | some b => s.modMat q r.serial fun x =>
        { x with bTile := some b, skipped := zeroChunks fb (matK fa) b }
    | none => (s.report r.core (r.record 7 0)).dropOne r .fault
  | _ => s

/-! ## Grants (R227) -/

/-- A running operation still has to write a tile that the request names. -/
def Quad.mustWait (q : Quad) (r : MatReq) : Bool :=
  q.table.any fun x => x.granted && decide (x.ctx = r.ctx)
    && (match x.op.writes with | some (t, _) => r.op.tiles.contains t | none => false)

/-- The request is grantable. -/
def Quad.grantable (q : Quad) (now : Nat) (r : MatReq) : Bool :=
  q.isNext r
    && q.banks.any (fun b => decide (b.use = .bound r.ctx))
    && !(q.table.any fun x => decide (x.op.port = r.op.port) && x.busy now)
    && !q.mustWait r
    && (match r.op with | .mmas _ _ _ _ _ _ => r.bTile.isSome | _ => true)

/-- Its place in the arbiter's order (R183): overdue first by earmark, then priority, then earmark. -/
def State.matRank (s : State) (q : Nat) (r : MatReq) : List Nat :=
  let em := match r.st with
    | .earmarked t => t
    | _ => 0
  if em + 64 ≤ s.quadCycle q then [0, em]
  else
    let high := match s.crew? r.core r.slot with
      | some k => k.id.high
      | none => false
    [1, if high then 0 else 1, em]

/-- The request the arbiter grants now. -/
def State.nextGrant (s : State) (q : Nat) : Option MatReq :=
  let x := s.quad q
  let now := s.quadCycle q
  (x.table.filter fun r => x.grantable now r && s.operandsReady q r).foldl (fun best r =>
    match best with
    | none => some r
    | some b => if lexLe (s.matRank q b) (s.matRank q r) then some b else some r) none

/-- Cycles that an operation takes, with what remains of its B load (R233, R237, R241, R242). -/
def MatReq.cycles (r : MatReq) (now : Nat) : Nat :=
  match r.op with
  | .mma fa _ _ _ _ p =>
    let wait := if r.kbOf.isSome then 0 else match r.loadStart with
      | some t => t + 16 - now
      | none => 16
    passCycles fa p + wait
  | .mmas fa _ _ p _ _ => min p (matQF fa) * (matK fa / 32 - r.skipped.length)
  | .msca _ _ => 8
  | .mzero _ => 1
  | .mlda _ => 64
  | .mdrn _ cv _ => if cv = 0 then 64 else 32
  | .mdra _ _ => 64

/-- What an operation computes at its grant: the tile it will write, or the tile a drain has read. -/
def State.matValues (s : State) (q : Nat) (r : MatReq) : Tab Word × Bool :=
  let t := s.tilesOf q r.ctx
  match r.op with
  | .mma fa fb _ _ _ p =>
    (passTile fa fb (min p (matQF fa)) (s.boxAt r (r.opEnd 0) 128 (matK fa)) (r.bTile.getD []) [],
      fmtInt fa)
  | .mmas fa fb _ p _ _ =>
    (passTile fa fb (min p (matQF fa)) (s.boxAt r (r.opEnd 0) 128 (matK fa)) (r.bTile.getD []) r.skipped,
      fmtInt fa)
  | .msca ps n =>
    let e := r.opEnd 0
    let vec := s.vecAt r e
    let sl := fun i => vec.getD (e.coord.getD 0 0 + i) 0
    (mscaTile (t.tile (4 + ps)).isInt ((List.range 128).map fun i => sl (scaleSlot i)) (sl 128)
      (t.tile n).vals (t.tile (4 + ps)).vals, false)
  | .mzero _ => ([], false)
  | .mlda _ => (sparse ((s.boxAt r (r.opEnd 0) 128 128).flatten.map fun v => BitVec.ofNat 32 v) 0, false)
  | .mdrn n _ _ | .mdra n _ => ((t.tile n).vals, (t.tile n).isInt)

/-- A drain with `.rel` frees its tile once it has read it (R225). -/
def MatOp.released : MatOp → Option Nat
  | .mdrn t _ true | .mdra t true => some t
  | _ => none

/-- A drain is granted before requests whose B was read from the entry that it writes: they read it again (R227). -/
def MatReq.unload (x r : MatReq) : MatReq :=
  if !x.granted && r.drainsInto x then { x with bTile := none, loadStart := none, skipped := [] } else x

/-- The grant: the earmark becomes the debit (R172, R192, R195). -/
def State.grantNow (s : State) (q : Nat) (r : MatReq) : State :=
  let now := s.quadCycle q
  let (vals, isInt) := s.matValues q r
  let pass := match r.op with
    | .mma _ _ _ _ _ _ | .mmas _ _ _ _ _ _ => 1
    | _ => 0
  let s := s.modOwner r.core r.ctx r.crewId fun k => (k.addCntr 5 r.price).addCntr 4 pass
  let s := s.modMat q r.serial fun x =>
    { x with st := .granted (now + r.cycles now), values := vals, valuesInt := isInt }
  let s := s.modQuad q fun x => { x with table := x.table.map fun x => x.unload r }
  let s := s.modTiles q r.ctx fun b =>
    let b := { b with lastGrant := now, granted := true }
    match r.op.released with
    | some t => b.modTile t fun x => { x with owner := none }
    | none => b
  s.modCore r.core fun c => c.modTicket r.ticket fun t => { t with st := .run }

/-- A `.kb` pass whose B tile was never loaded (R233): none; else the request with its B tile. -/
def State.withB (s : State) (q : Nat) (r : MatReq) : Option MatReq :=
  match r.kbOf with
  | none => some r
  | some n =>
    match tget? (s.quad q).lastB (kbKey r.ctx r.crewId) with
    | some b => if b.serial = n then some { r with bTile := some b.vals } else none
    | none => none

/-- Grant a request, loading its B tile first where the loader has not. -/
def State.grant (s : State) (q : Nat) (r : MatReq) : State :=
  match s.withB q r with
  | none => s.dropOne r .lost
  | some r =>
    match r.op, r.bTile with
    | .mma _ _ _ _ _ _, none =>
      let s := s.loadB q r
      let b := s.readB r
      s.grantNow q { r with bTile := some b }
    | _, _ => s.grantNow q r

/-! ## Completion (R228) -/

/-- An array operation writes its tile. -/
def State.writeTile (s : State) (q : Nat) (r : MatReq) : State :=
  match r.op.writes with
  | none => s
  | some (t, _) => s.modTiles q r.ctx fun b =>
      b.modTile t fun x => { x with vals := r.values, isInt := r.valuesInt }

/-- The elements of a drain's tile with the coordinates they go to, and their bit patterns. -/
def MatReq.drained (r : MatReq) : List (List Nat × Nat) :=
  let e := r.opEnd 0
  let n := e.coord.length
  let outer := e.coord.take (n - 2)
  let a := e.coord.getD (n - 2) 0
  let b := e.coord.getD (n - 1) 0
  let conv := match r.op with
    | .mdrn _ cv _ => drainConv cv
    | _ => fun v => v.toNat
  ((dense r.values 0 16384).zipIdx).filterMap fun (v, i) =>
    let c := outer ++ [a + i / 128, b + i % 128]
    if e.desc.inBounds c then some (c, conv v) else none

/-- One element lands: MDRN stores it, MDRA adds it (R242, R298). -/
def MatReq.landElem (r : MatReq) (p : Port) (m : Mem) (c : List Nat) (v : Nat) : Mem :=
  let d := (r.opEnd 0).desc
  match r.op with
  | .mdra _ _ => p.setBits m (d.bitPos c) d.w (drainAdd r.valuesInt (p.elem m d c) v)
  | _ => p.setBits m (d.bitPos c) d.w v

/-- The elements by which a drain is imaged (R298). -/
def State.matImages (s : State) (r : MatReq) : List Nat :=
  match tget? s.launches r.launch, tget? s.blocks r.block with
  | some l, some b => if r.seqNo.isSome then l.cosets b.xyz else []
  | _, _ => []

/-- The elements of the base, or of the image in turn (R298). -/
def State.drainElems (s : State) (r : MatReq) : List (List Nat × Nat) :=
  let d := (r.opEnd 0).desc
  match tget? s.launches r.launch with
  | none => r.drained
  | some l =>
    if r.image = 0 then r.drained
    else
      let x := l.elem ((s.matImages r).getD (r.image - 1) 0)
      r.drained.map fun (c, v) =>
        (x.coord l.record.grid d.exts c, if x.neg then negValue d.fmt v else v)

/-- The 32-byte units that hold an element of an end. -/
def Desc.unitsAt (d : Desc) (c : List Nat) : List Nat :=
  let b := d.bitPos c
  if b / 256 = (b + d.w - 1) / 256 then [b / 256] else [b / 256, (b + d.w - 1) / 256]

/-- The units that elements touch. -/
def Desc.unitList (d : Desc) (els : List (List Nat × Nat)) : List Nat := (els.flatMap fun (c, _) => d.unitsAt c).eraseDups

/-- Elements of a drain land: LANDED counts the units written (R228). -/
def State.landElems (s : State) (r : MatReq) (els : List (List Nat × Nat)) : State :=
  let d := (r.opEnd 0).desc
  let p := s.port r.core r.ctx d
  let s := match p.core with
    | none => s.keepElems d (els.map Prod.fst)
    | some _ => s
  let s := s.setMem p fun m => els.foldl (fun m (c, v) => r.landElem p m c v) m
  (s.landsNow r.core).modCore r.core fun k => k.modTicket r.ticket fun t =>
    { t with landed := min (2 ^ 24 - 1) (t.landed + (d.unitList els).length) }

/-- The elements of the base, or of the image in turn, land. -/
def State.landDrain (s : State) (r : MatReq) : State := s.landElems r (s.drainElems r)

/-- A drain stops at a beat boundary: the elements that lie in its first `n` units have landed (R249). -/
def State.landPart (s : State) (r : MatReq) (n : Nat) : State :=
  let d := (r.opEnd 0).desc
  let els := s.drainElems r
  let us := (d.unitList els).take n
  s.landElems r (els.filter fun (c, _) => (d.unitsAt c).all us.contains)

/-- The page without a translation that a drain touches. -/
def State.drainMissing (s : State) (r : MatReq) : Option Nat :=
  let d := (r.opEnd 0).desc
  match s.allocOf r.ctx d with
  | none => none
  | some a =>
    if !r.op.port || a.unmapped.isEmpty then none
    else (s.drainElems r).findSome? fun (c, _) => (d.bytesAt c).findSome? fun o =>
      if (a.translate (o / 65536)).isNone then some (o / 65536) else none

/-- The drain would land in a tile that is being migrated (R220). -/
def State.drainHeld (s : State) (r : MatReq) : Bool :=
  let d := (r.opEnd 0).desc
  let ts := s.moving d.handle
  !ts.isEmpty && d.isGlobal && (s.drainElems r).any fun (c, _) =>
    (d.bytesAt c).any fun o => ts.contains (o / 65536)

/-- A drain stands at its destination: it may write there now (R199, R220, R247). -/
def State.drainOpen (s : State) (r : MatReq) : Bool :=
  r.parked.isNone && (s.drainMissing r).isNone && !s.drainHeld r
    && s.accessesDone ((r.opEnd 0).desc.coreOf r.core) r.serial

/-- The granted operation of the array or of the port that has finished with its unit; one that reads doomed cells too
late is cancelled instead (R160). -/
def State.finished (s : State) (q : Nat) (port : Bool) : Option MatReq :=
  let now := s.quadCycle q
  (s.quad q).table.find? fun r => decide (r.op.port = port)
    && (match r.st with | .granted d => decide (d ≤ now) | _ => false)
    && (!port || s.drainOpen r) && !s.lateReader r.serial && (s.context r.ctx).allows 3 r.crewId

/-- It completes: an array operation at once; a drain lands its base, then its images one after another
(R301). -/
def State.completeMat (s : State) (q : Nat) (r : MatReq) : State :=
  if !r.op.port then (s.writeTile q r).endMat q r .done
  else if !s.reachable r.core r.ctx (r.opEnd 0).desc then s.endMat q r .lost
  else
    let s := s.landDrain r
    if r.image < (s.matImages r).length then
      s.modMat q r.serial fun x => { x with image := x.image + 1 }
    else s.endMat q r .done

/-- A reset takes a granted operation (R249): an array operation writes nothing; an MDRA at its destination finishes its
add, or has not begun it; an MDRN has written a number of its units that is a free value (log 3). -/
def State.resetMat (s : State) (q : Nat) (r : MatReq) : State :=
  let open' := s.drainOpen r && s.reachable r.core r.ctx (r.opEnd 0).desc
  let s := match r.op with
    | .mdra _ _ => if open' then s.landDrain r else s
    | .mdrn _ _ _ =>
      if open' then
        let n := (Config.estimateDelay s.freeCtr) % ((r.opEnd 0).desc.unitList (s.drainElems r)).length
        { s with freeCtr := s.freeCtr + 1 }.landPart r n
      else s
    | _ => s
  s.endMat q r .fault

end Sys2Proof.Machine
end

