-- ==== Sys2Proof/Machine/Matrix.lean ====
section
/-! DEFINITION. Matrix instructions (R229, R234 to R246). -/

namespace Sys2Proof.Machine

/-! ## What they share (R229) -/

/-- An operand or destination that a matrix instruction names: its entry, what its kind check says, its
coordinate run (none for the CSR entries), and its box of rows and columns. -/
structure MatEnd where
  n : Nat
  ok : Bool
  c : Option RegCode
  box : Nat × Nat

/-- A matrix instruction as it issues: its operation, ends in the order A, B, scale, destination, the
registers of P and the ticket, and the MMA whose B tile a `.kb` pass uses. -/
structure MatIssue where
  op : MatOp
  ends : List MatEnd
  p : PIdx
  t : RegCode
  kbOf : Option Nat

/-- P in every live thread and s[T] in the crew, at the completion point (R229). -/
def State.matDone (s : State) (g : Group) (h : Hdr) (p : PIdx) (t : RegCode) (ok : Bool) (id : Word) :
    State :=
  (s.modCrew g.core g.slot fun k => { k with sregs := tset k.sregs t.toNat id }).doneP g h p ok

/-- The coordinate of an end. -/
def Thread.matCoord (t : Thread) (e : MatEnd) (d : Desc) : List Nat :=
  match e.c with
  | some c => t.coords c d.dims
  | none => [0]

/-- The first dimension in which a box of the two innermost dimensions passes its entry. -/
def Desc.matPast (d : Desc) (c : List Nat) (box : Nat × Nat) : Option Nat :=
  let n := d.dims
  (List.range n).find? fun i =>
    let len := if i + 2 = n then box.1 else if i + 1 = n then box.2 else 1
    decide (d.exts.getD i 0 < c.getD i 0 + len)

/-- BOUNDS COORD over the ends: the entry and the dimension. -/
def State.matCoordFault (s : State) (g : Group) (t : Thread) (es : List MatEnd) : Option (Nat × Nat) :=
  es.findSome? fun e =>
    let d := s.descOf g e.n
    if d.clampz ∨ e.box = (0, 0) then none
    else (d.matPast (t.matCoord e d) e.box).map fun i => (e.n, i)

/-- The first dimension in which a drain's box, cut to its window, leaves the tile (R297). -/
def State.matOutside (s : State) (k : Crew) (t : Thread) (e : MatEnd) (d : Desc) : Option Nat :=
  let c := t.matCoord e d
  let exts := List.replicate (d.dims - 2) 1 ++ [e.box.1, e.box.2]
  s.boxOutside k d c exts

/-- A named tile is reserved by another crew (R225). -/
def State.tilesTaken (s : State) (q : Nat) (k : Crew) (core : Nat) (o : MatOp) : Bool :=
  o.tiles.any fun n =>
    match ((s.tilesOf q k.id.ctx).tile n).owner with
    | some (c, id) => !(decide (c = core) && decide (id = k.id.crewId))
    | none => false

/-- A named tile was reserved in this cycle by a crew of a higher core, or by a younger one: that crew issued too early
(R248). -/
def State.tilesAhead (s : State) (q : Nat) (k : Crew) (core : Nat) (o : MatOp) : Bool :=
  o.tiles.any fun n =>
    let t := (s.tilesOf q k.id.ctx).tile n
    match t.owner with
    | some (c, id) => decide (t.since = s.quadCycle q) && (decide (core < c) || (decide (c = core)
        && ((((s.core c).slotOf? k.id.ctx id).bind fun slot => s.crew? c slot).any fun x => decide (k.id.age < x.id.age))))
    | none => false

/-- The issuing crew reserves the tiles it names. -/
def State.reserve (s : State) (q : Nat) (k : Crew) (core : Nat) (o : MatOp) : State :=
  let now := s.quadCycle q
  s.modTiles q k.id.ctx fun b => o.tiles.foldl (fun b n =>
    b.modTile n fun x => if x.owner = some (core, k.id.crewId) then x
      else { x with owner := some (core, k.id.crewId), since := now }) b

/-- A request enters the table: its context has a bank, its tiles are reserved, and an MMA that reads B is its crew's
last (R224, R225, R233). -/
def State.claimTiles (s : State) (g : Group) (k : Crew) (o : MatOp) (serial : Nat) : State :=
  let q := quadOf g.core
  let s := (s.bindBank q k.id.ctx).reserve q k g.core o
  match o with
  | .mma _ _ _ false _ _ => s.modCrew g.core g.slot fun k => { k with kbTile := some serial }
  | _ => s

/-- The request enters the reservation table (R226): it demands its price, or is EARMARKED at once. -/
def State.enterTable (s : State) (g : Group) (k : Crew) (m : MatIssue) (ends : List CopyEnd)
    (ticket : Nat) (imaged : Bool) : State :=
  let q := quadOf g.core
  let (s, num) := s.number g.core g.slot imaged
  let images := if imaged then (s.imagesOf k (m.ends.getD 0 ⟨0, true, none, (0, 0)⟩).n).length else 0
  let nominal := m.op.price images
  let price := s.priceAt g.core nominal
  let r : MatReq :=
    { serial := s.serial, core := g.core, slot := g.slot, crewId := k.id.crewId, ctx := k.id.ctx,
      launch := k.id.launch, block := k.id.block, pc := g.pc, op := m.op, ends := ends,
      ticket := ticket, price := price,
      st := if price = 0 then .earmarked (s.quadCycle q) else .wait, loadStart := none, bTile := none,
      kbOf := m.kbOf, skipped := [], values := [], valuesInt := false, image := 0, seqNo := num,
      parked := none }
  let s := (s.modQuad q fun x => { x with table := x.table ++ [r] }).bump
  let s := s.claimTiles g k m.op r.serial
  if price = 0 then s
  else (s.modCrew g.core g.slot fun k => k.addCntr 1 1).demand g.core (.matrix g.slot r.serial) nominal

/-- A `.kb` pass with no MMA of its crew before it (R233). -/
def MatIssue.noTile (m : MatIssue) : Bool :=
  match m.op with
  | .mma _ _ _ true _ _ => m.kbOf.isNone
  | _ => false

/-- The outcomes common to the matrix instructions, in the order of R229; `scale`: MSCA's own check. -/
def State.matIssue (s : State) (g : Group) (h : Hdr) (k : Crew) (t : Thread) (m : MatIssue)
    (scale : Option (Nat × Nat)) : State :=
  let q := quadOf g.core
  let dst := m.ends.getD 0 ⟨0, true, none, (0, 0)⟩
  let imaged := m.op.port && s.isImaged k dst.n
  let runs := fun (e : MatEnd) => match e.c with
    | some c => [(c, (s.descOf g e.n).dims)]
    | none => []
  if imaged ∧ k.id.spawned then s.imageTrap g h 3 dst.n 0
  else match s.entryFault g (m.ends.map fun e => (e.n, e.ok, runs e)) with
  | some (code, n) => s.bounds g h code n 0
  | none =>
    match scale, (if imaged then s.matOutside k t dst (s.descOf g dst.n) else none),
        s.matCoordFault g t m.ends with
    | some (code, arg), _, _ => s.raise g h 5 code (BitVec.ofNat 32 arg) dst.n
    | none, some dim, _ => s.imageTrap g h 1 dst.n (BitVec.ofNat 32 dim)
    | none, none, some (n, dim) => s.bounds g h 1 n (BitVec.ofNat 32 dim)
    | none, none, none =>
      if s.tilesAhead q k g.core m.op then s.retryLater g
      else if s.tilesTaken q k g.core m.op ∨ m.noTile then s.matDone g h m.p m.t false 0xFFFFFFFF
      else match (s.core g.core).freeTicket?, decide (s.tableUse q < Config.matrixTable) with
        | some i, true =>
          let (s, id) := s.takeTicket g.core i g.slot .pend false 0
          let closed := m.ends.any fun e => !s.endOpen g e.n (s.descOf g e.n)
          let ends := m.ends.map fun e =>
            let d := s.descOf g e.n
            endOf g.core e.n d (t.matCoord e d)
          let s := if closed then
              (((s.claimTiles g k m.op s.serial).bump).settleTicket g.core (some i) .lost).numberLost g.core g.slot imaged
            else s.enterTable g k m ends i imaged
          s.matDone g h m.p m.t true id
        | _, _ => s.retryLater g

/-- A matrix instruction: once for the crew. -/
def runMat (i : Instr) (h : Hdr) (cost : State → Group → Nat)
    (f : State → Group → Crew → Thread → MatIssue × Option (Nat × Nat)) (s : State) :
    Host.Outcome State Fault Refusal :=
  s.runAt i h (fun s g => s.priceAt g.core (cost s g)) fun s g =>
    match s.leader? g h with
    | none => s.finishDone g h
    | some (k, t) =>
      let (m, scale) := f s g k t
      s.matIssue g h k t m scale

/-! ## Kind checks (R230, R231, R241, R242) -/

/-- An A operand: PLANE, of format FA, at least two dimensions. -/
def Desc.okA (d : Desc) (fa : Nat) : Bool :=
  decide (d.kind = 1) && decide (d.fmt = fa) && decide (2 ≤ d.dims)

/-- A B operand: ELEM or PLANE. -/
def Desc.okB (d : Desc) (fb : Nat) : Bool :=
  decide (d.kind = 0 ∨ d.kind = 1) && decide (d.fmt = fb) && decide (2 ≤ d.dims)

/-- A CSR operand: ELEM with one dimension. -/
def Desc.okCsr (d : Desc) (fmt : Nat) : Bool :=
  decide (d.kind = 0) && decide (d.fmt = fmt) && decide (d.dims = 1)

/-- A drain's destination for a tile of a kind (R242). -/
def Desc.okDrain (d : Desc) (host isInt : Bool) (cv : Nat) : Bool :=
  (decide (d.kind = 0)
    || (d.isGlobal && !d.gpl && decide (d.space ≤ 4 ∨ host = true)))
    && decide (2 ≤ d.dims) && !(isInt && decide (cv ≠ 0))
    && decide (d.fmt = if cv = 1 then 2 else if cv = 2 then 1 else if isInt then 5 else 0)

/-! ## The instructions -/

/-- MMA (R234). -/
def execMma (h : Hdr) (o : MmaOp) (s : State) : Host.Outcome State Fault Refusal :=
  let fa := o.fa.toNat
  let fb := o.fb.toNat
  let prec := o.prec.toNat + 1
  runMat (.mma h o) h (fun _ _ => passPrice fa prec) (fun s g k _ =>
    let kk := matK fa
    let bBox := if o.bt then (128, kk) else (kk, 128)
    let a : MatEnd := ⟨o.an.toNat, (s.descOf g o.an.toNat).okA fa, some o.ac, (128, kk)⟩
    let b : MatEnd := ⟨o.bn.toNat, (s.descOf g o.bn.toNat).okB fb, some o.bc, bBox⟩
    (⟨.mma fa fb o.bt o.kb o.ps.toNat prec, [a, b], o.p, o.t, if o.kb then k.kbTile else none⟩, none)) s

/-- MMAS (R241). -/
def execMmas (h : Hdr) (o : MmasOp) (s : State) : Host.Outcome State Fault Refusal :=
  let fa := o.fa.toNat
  let fb := o.fb.toNat
  let prec := o.prec.toNat + 1
  runMat (.mmas h o) h (fun _ _ => passPrice fa prec + 64) (fun s g _ t =>
    let d := fun (n : BitVec 8) => s.descOf g n.toNat
    let a : MatEnd := ⟨o.an.toNat, (d o.an).okA fa, some o.ac, (128, matK fa)⟩
    let v : MatEnd := ⟨o.val.toNat, (d o.val).okCsr fb && decide ((d o.val).exts = (d o.idx).exts), none,
      (0, 0)⟩
    let x : MatEnd := ⟨o.idx.toNat, (d o.idx).okCsr 6, none, (0, 0)⟩
    let p : MatEnd := ⟨o.ptr.toNat, (d o.ptr).okCsr 6, none, (0, 0)⟩
    (⟨.mmas fa fb o.ps.toNat prec (t.reg o.o).toNat (t.reg (o.o + 1)).toNat, [a, v, x, p], o.p, o.t,
      none⟩, none)) s

/-- SCALE (R240). -/
def scaleFault (d : Desc) (c : Nat) : Option (Nat × Nat) :=
  let e := d.exts.getD 0 0
  if d.kind ≠ 2 then some (1, d.kind)
  else if e % 256 ≠ 0 then some (2, e)
  else if c % 256 ≠ 0 then some (3, c)
  else if e < c + 256 then some (4, c)
  else none

/-- MSCA (R237, R240). -/
def execMsca (h : Hdr) (o : MscaOp) (s : State) : Host.Outcome State Fault Refusal :=
  runMat (.msca h o) h (fun _ _ => 30) (fun s g _ t =>
    let sc : MatEnd := ⟨o.sn.toNat, true, some o.sc, (0, 0)⟩
    (⟨.msca o.ps.toNat o.tile.toNat, [sc], o.p, o.t, none⟩,
      scaleFault (s.descOf g o.sn.toNat) (t.reg o.sc).toNat)) s

/-- MZERO (R242). -/
def execMzero (h : Hdr) (o : TileOp) (s : State) : Host.Outcome State Fault Refusal :=
  runMat (.mzero h o) h (fun _ _ => 0) (fun _ _ _ _ =>
    (⟨.mzero o.tile.toNat, [], o.p, o.t, none⟩, none)) s

/-- MLDA (R242). -/
def execMlda (h : Hdr) (o : TileOp) (s : State) : Host.Outcome State Fault Refusal :=
  runMat (.mlda h o) h (fun _ _ => 16) (fun s g _ _ =>
    let d := s.descOf g o.n.toNat
    let e : MatEnd := ⟨o.n.toNat, decide (d.kind = 0) && decide (d.fmt = 0) && decide (2 ≤ d.dims),
      some o.c, (128, 128)⟩
    (⟨.mlda o.tile.toNat, [e], o.p, o.t, none⟩, none)) s

/-- The destination of a drain of the group. -/
def State.drainEnd (s : State) (g : Group) (k : Crew) (o : TileOp) (host : Bool) (cv : Nat) : MatEnd :=
  let isInt := s.tileInt (quadOf g.core) k.id.ctx o.tile.toNat
  ⟨o.n.toNat, (s.descOf g o.n.toNat).okDrain host isInt cv, some o.c, (128, 128)⟩

/-- MDRN (R242). -/
def execMdrn (h : Hdr) (o : TileOp) (s : State) : Host.Outcome State Fault Refusal :=
  runMat (.mdrn h o) h (fun s g => 16 * (1 + s.groupImages g o.n.toNat)) (fun s g k _ =>
    (⟨.mdrn o.tile.toNat o.cv.toNat o.rel, [s.drainEnd g k o true o.cv.toNat], o.p, o.t, none⟩, none)) s

/-- MDRA (R242, R244). -/
def execMdra (h : Hdr) (o : TileOp) (s : State) : Host.Outcome State Fault Refusal :=
  runMat (.mdra h o) h (fun s g => 24 * (1 + s.groupImages g o.n.toNat)) (fun s g k _ =>
    (⟨.mdra o.tile.toNat o.rel, [s.drainEnd g k o false 0], o.p, o.t, none⟩, none)) s

/-- MWAIT (R246): the crew waits for one ticket. -/
def execMwait (h : Hdr) (p : PIdx) (a : RegCode) (s : State) : Host.Outcome State Fault Refusal :=
  s.run (.mwait h p a) h fun s g =>
    match s.leader? g h with
    | none => s.finishDone g h
    | some (_, t) =>
      let id := t.reg a
      if (s.core g.core).waitsFor id then s.park g h g.slot g.mask fun _ => .ticket p id [id]
      else s.doneP g h p ((s.core g.core).verdict id)

end Sys2Proof.Machine
end

