-- ==== Sys2Proof/Machine/Sync.lean ====
section
/-! DEFINITION. Barriers and atomics (R258 to R273). -/

namespace Sys2Proof.Machine

/-! ## Barriers (R265, R266) -/

/-- The key under which waits name a barrier: the launch's, or the block's. -/
def barKey (k : Crew) (wide : Bool) (b : Nat) : Nat :=
  if wide then 2 * (k.id.launch * 16 + b) + 1 else 2 * (k.id.block * 16 + b)

/-- One lane, or its crew, arrives (R260); the arrival has a serial number. -/
def State.arriveOne (s : State) (k : Crew) (o : BarOp) (phase : Bool) (lane : Nat) : State :=
  match s.bar? k.id.block o.bid.toNat with
  | none => s
  | some (wide, _) =>
    (s.modBar k.id.block o.bid.toNat fun b =>
      b.arrive (s.memberOf k wide o.cm lane) s.serial k.counts.retired phase).bump

/-- The lanes that arrive: those whose guard holds, or one for the crew. -/
def barLanes (g : Group) (o : BarOp) (on : Mask) : Mask := if o.cm then g.mask else on

/-- The members of the group arrive; each arrival is logged. -/
def State.arriveAll (s : State) (g : Group) (k : Crew) (o : BarOp) (phase : Bool) (on : Mask) : State :=
  let ls := lanesOf (barLanes g o on)
  (if o.cm then ls.take 1 else ls).foldl (fun s l => s.arriveOne k o phase l) s

/-- The generation of a member's last arrival, and whether it has opened. -/
def State.lastGen (s : State) (k : Crew) (o : BarOp) (lane : Nat) : Nat × Bool :=
  match s.bar? k.id.block o.bid.toNat with
  | none => (0, true)
  | some (wide, b) =>
    let n := (tget Member.zero b.members (s.memberOf k wide o.cm lane)).count
    (n, decide (n ≤ b.opened))

/-- Threads park until the generation of their last arrival has opened; the others go on. -/
def State.awaitBar (s : State) (g : Group) (h : Hdr) (k : Crew) (o : BarOp) (on : Mask) : State :=
  let wide := ((s.bar? k.id.block o.bid.toNat).map (·.1)).getD false
  let wait := maskFilter (barLanes g o on) fun l => !(s.lastGen k o l).2
  let rest := g.mask &&& ~~~wait
  let s := s.finishRest g h g.slot rest true
  if wait = 0 then s
  else s.park g h g.slot wait fun l => .barrier (barKey k wide o.bid.toNat) (s.lastGen k o l).1

/-- An instruction on a barrier: `arrives`, and whether it then waits. -/
def runBar (i : Instr) (h : Hdr) (o : BarOp) (arrives phase waits : Bool) (s : State) :
    Host.Outcome State Fault Refusal :=
  s.run i h fun s g =>
    match s.crew? g.core g.slot with
    | none => s
    | some k =>
      let on := k.holding h g.mask
      let s := if arrives then s.arriveAll g k o phase on else s
      if waits then s.awaitBar g h k o on else s.finish g h

/-- BAR. -/
def execBar (h : Hdr) (o : BarOp) (s : State) : Host.Outcome State Fault Refusal :=
  runBar (.bar h o) h o true false true s

/-- BARA: no completion point (R266). -/
def execBara (h : Hdr) (o : BarOp) (s : State) : Host.Outcome State Fault Refusal :=
  runBar (.bara h o) h o true false false s

/-- BARW. -/
def execBarw (h : Hdr) (o : BarOp) (s : State) : Host.Outcome State Fault Refusal :=
  runBar (.barw h o) h o false false true s

/-- PHASE: as BAR, and the generation publishes (R263). -/
def execPhase (h : Hdr) (o : BarOp) (s : State) : Host.Outcome State Fault Refusal :=
  runBar (.phase h o) h o true true true s

/-! ## Updates of a word (R269, R270) -/

/-- minimumNumber and maximumNumber of F32 patterns (R48). -/
def minF32 (a b : Nat) : Nat := (minmax F32 false false a b).bits
def maxF32 (a b : Nat) : Nat := (minmax F32 true false a b).bits

/-- F32 sum as R270 forms it: RN, no FTZ, no flags. -/
def sumF32 (a b : Word) : Word := BitVec.ofNat 32 (fadd F32 .rn false a.toNat b.toNat).bits

/-- APPLY (R269); ADD of F32 is R270's. -/
def atomApply (op ty : Nat) (cur a b : Word) : Word :=
  match op with
  | 0 => if ty = 2 then sumF32 cur a else cur + a
  | 1 => if ty = 2 then BitVec.ofNat 32 (minF32 cur.toNat a.toNat)
    else if icmp (decide (ty = 1)) a cur < 0 then a else cur
  | 2 => if ty = 2 then BitVec.ofNat 32 (maxF32 cur.toNat a.toNat)
    else if icmp (decide (ty = 1)) cur a < 0 then a else cur
  | 3 => cur &&& a
  | 4 => cur ||| a
  | 5 => cur ^^^ a
  | 6 => a
  | _ => if cur = a then b else cur

/-- The updates of one word by lanes in ascending order: each lane's result, and the new value. -/
def atomChain (op ty : Nat) (cur : Word) : List (Word × Word) → List Word × Word
  | [] => ([], cur)
  | (a, b) :: r =>
    let (rs, v) := atomChain op ty (atomApply op ty cur a b) r
    (cur :: rs, v)

/-- Partial sums of F32 operands, before each lane, and the last (R270). -/
def preSums (pre : Option Word) : List (Word × Word) → List (Option Word) × Option Word
  | [] => ([], pre)
  | (a, _) :: r =>
    let (ps, last) := preSums (some (match pre with | some p => sumF32 p a | none => a)) r
    (pre :: ps, last)

/-- One indivisible update of a word. -/
def atomWord (op ty : Nat) (old : Word) (ls : List (Word × Word)) : List Word × Word :=
  if op = 0 ∧ ty = 2 then
    let (ps, last) := preSums none ls
    (ps.map fun p => match p with | some v => sumF32 old v | none => old,
      match last with | some v => sumF32 old v | none => old)
  else atomChain op ty old ls

/-- The words of a group, each with its lanes ascending. -/
def wordsOf (ls : List (Nat × AtomLane)) : List (Nat × List AtomLane) :=
  (ls.map (·.1)).eraseDups.map fun w => (w, (ls.filter fun (x, _) => decide (x = w)).map (·.2))

/-- The memory after the updates of a group, and each lane's result. -/
def atomGroup (p : Port) (op ty : Nat) (m : Mem) (ls : List (Nat × AtomLane)) :
    Mem × List (Nat × Word) :=
  (wordsOf ls).foldl (fun (m, rs) (w, xs) =>
    let old := BitVec.ofNat 32 (p.bits m w 32)
    let (vs, v) := atomWord op ty old (xs.map fun x => (x.a, x.b))
    (p.setBits m w 32 v.toNat, rs ++ (xs.map (·.lane)).zip vs)) (m, [])

/-- A lane's update at a coordinate. -/
def atomLane (o : AtomOp) (t : Thread) (lane : Nat) (c : List Nat) : AtomLane :=
  ⟨lane, c, t.reg o.a, t.reg o.b⟩

/-- Formats of a word that atomics update (R268). -/
def Desc.atomFmt (d : Desc) : Bool := decide (d.fmt = 0 ∨ d.fmt = 5 ∨ d.fmt = 6)

/-! ## ATOMS (R268, R271) -/

/-- The lanes of ATOMS wait for their results, and its updates reach the banks at issue + 6 (R29). -/
def atomsLanes (o : AtomOp) (s : State) (g : Group) (d : Desc) (ts : List Touch) : State :=
  match s.crew? g.core g.slot with
  | none => s
  | some k =>
    let ls := ts.filterMap fun (slot, l, es) =>
      match es.head?, (s.crew? g.core slot).bind fun k => k.thread? l with
      | some c, some t => some (slot, atomLane o t l c)
      | _, _ => none
    if ts.isEmpty then s
    else
      let n := s.serial
      let s := ts.foldl (fun s (slot, l, _) =>
        s.modThread g.core slot l fun t => t.await o.d.toNat n 8) s
      s.reach g fun n => .atoms n k.id.ctx d o.d o.op.toNat o.ty.toNat k.id.crewId k.counts.retired ls

/-- ATOMS: a thread access. -/
def execAtoms (h : Hdr) (o : AtomOp) (s : State) : Host.Outcome State Fault Refusal :=
  runAccess (.atoms h o) h o.n.toNat (fun d => decide (d.kind = 0) && d.atomFmt)
    (fun d => [(o.c, d.dims)]) (vecElems o.c 1) (atomsLanes o) s

/-- The updates of ATOMS are performed in ascending lane order; an out-of-bounds lane under CLAMPZ gets 0. The order log
keeps the values that it returns (R322). -/
def State.updated (s : State) (c serial ctx : Nat) (d : Desc) (reg : RegCode) (op ty : Nat) (crewId : BitVec 16)
    (retired : Nat) (lanes : List (Nat × AtomLane)) : State :=
  let ls := lanes.filterMap fun (_, x) => if d.inBounds x.coord then some (d.bitPos x.coord, x) else none
  let (m, rs) := atomGroup (s.port c ctx d) op ty (s.core c).cells ls
  let s := s.modCore c fun k => { k with cells := m }
  let s := s.logItem ctx 2 crewId retired (rs.map fun x => x.2.toNat)
  lanes.foldl (fun s (slot, x) =>
    let v := ((rs.find? fun (l, _) => decide (l = x.lane)).map (·.2)).getD 0
    s.modThread c slot x.lane fun t => t.arrive serial [(reg.toNat, v)]) s

/-! ## ATOM and ATRED (R267, R272) -/

/-- The lanes of ATOM and ATRED: slot, lane, thread and coordinate. -/
def State.atomLanes (s : State) (g : Group) (h : Hdr) (o : AtomOp) (d : Desc) :
    List (Nat × Thread × List Nat) :=
  (s.actors g h).map fun (_, l, t) => (l, t, t.coords o.c d.dims)

/-- ATOM and ATRED: one request, or BOUNDS and IMAGE; `ret`: the group waits for the results. -/
def atomBody (h : Hdr) (o : AtomOp) (ret : Bool) (s : State) (g : Group) : State :=
  let n := o.n.toNat
  let d := s.descOf g n
  match s.crew? g.core g.slot with
  | none => s
  | some k =>
    if s.isImaged k n then s.imageTrap g h 2 n 0
    else match s.entryFault g [(n, d.window && d.atomFmt, [(o.c, d.dims)])] with
    | some (code, e) => s.bounds g h code e 0
    | none =>
      let ls := s.atomLanes g h o d
      let inn := ls.filter fun (_, _, c) => d.inBounds c
      let bad := if d.clampz then [] else ls.filter fun (_, _, c) => !d.inBounds c
      let out := if d.clampz then ls.filter (fun (_, _, c) => !d.inBounds c) else []
      if inn.any fun (_, _, c) => decide (d.bitPos c % 32 ≠ 0) then s.bounds g h 8 n 0
      else s.payThen g 1 none fun s =>
        let on := k.holding h g.mask
        let s := if ret then out.foldl (fun s (l, _, _) =>
            s.modThread g.core g.slot l fun t => t.write o.d.toNat 0 0) s else s
        let dim := (bad.head?).map fun (_, _, c) => (d.badDim c, maskOf (bad.map (·.1)))
        let trap := fun (s : State) => match dim with
          | some (i, lm) => s.takeTrap g.core g.slot (g.trap h 3 1 (BitVec.ofNat 32 i) n g.mask lm)
          | none => if ret then s.finishDone g h else s.finish g h
        if inn.isEmpty then trap s
        else
          let e := endOf g.core n d []
          let lanes := inn.map fun (l, t, c) => atomLane o t l c
          let kind := ReqKind.atom ret o.d o.op.toNat o.ty.toNat o.rel lanes (if ret then dim else none)
          let r := mkReq s.serial kind k g.slot g.pc e e none (lowLane on) (s.coreCycle g.core)
          let s := s.accept g.core r
          if ret then
            let wait := if dim.isSome then g.mask else on
            (s.finishRest g h g.slot (g.mask &&& ~~~wait) true).park g h g.slot wait fun _ => .atomic r.serial
          else trap s

/-- ATOM. -/
def execAtom (h : Hdr) (o : AtomOp) (s : State) : Host.Outcome State Fault Refusal :=
  s.run (.atom h o) h (atomBody h o true)

/-- ATRED. -/
def execAtred (h : Hdr) (o : AtomOp) (s : State) : Host.Outcome State Fault Refusal :=
  s.run (.atred h o) h (atomBody h o false)

/-! ## Performing an update -/

/-- The group of an ATOM goes on with its results, or takes its BOUNDS COORD. -/
def State.wakeAtom (s : State) (c : Nat) (r : Req) (d : RegCode) (bad : Option (Nat × Mask))
    (rs : List (Nat × Word)) : State :=
  let res := fun (l : Nat) (t : Thread) =>
    match rs.find? fun (x, _) => decide (x = l) with
    | some (_, v) => t.put d.toNat v
    | none => t
  let mine := fun (w : Wait) => match w with
    | .atomic n => decide (n = r.serial)
    | _ => false
  match (s.core c).slotOf? r.ctx r.crewId with
  | none => s.modOwner c r.ctx r.crewId fun k =>
      let act := k.parkedWhere fun _ w => mine w
      let k := k.modLanes act res
      match bad with
      | none => k
      | some (dim, lm) =>
        k.suspend ⟨3, 1, BitVec.ofNat 32 dim, r.dst.entry, act, lm, r.pc, none, [], 0, r.pc, 0⟩
  | some slot =>
    match bad with
    | none => s.wakeWhere c slot (fun _ w => mine w) res
    | some (dim, lm) =>
      match s.crew? c slot with
      | none => s
      | some k =>
        let act := k.parkedWhere fun _ w => mine w
        let s := s.modLanes c slot act res
        s.takeTrap c slot ⟨3, 1, BitVec.ofNat 32 dim, r.dst.entry, act, lm, r.pc, none, [], 0, r.pc, 0⟩

/-- A request of whatever kind ends without having been performed (R199, R200, R273): the lanes of an
ATOM get 0. -/
def State.failReq (s : State) (c : Nat) (r : Req) (st : TickSt) : State :=
  let s := s.endReq c r st
  match r.kind with
  | .atom true d _ _ _ ls bad => s.wakeAtom c r d bad (ls.map fun x => (x.lane, 0))
  | _ => s

/-- An update is performed at its words (R270, R271). -/
def State.performAtom (s : State) (c : Nat) (r : Req) : State :=
  match r.kind with
  | .atom ret d op ty _ ls bad =>
    let e := r.dst.desc
    if !s.reachable c r.ctx e then s.failReq c r .lost
    else
      let p := s.port c r.ctx e
      let (m, rs) := atomGroup p op ty (s.memOf p s.globalMem) (ls.map fun x => (e.bitPos x.coord, x))
      let s := match p.core with
        | none => s.keepElems e (ls.map AtomLane.coord)
        | some _ => s
      let s := s.setMem p fun _ => m
      let s := s.logItem r.ctx 2 r.crewId (s.retiredOf c r.ctx r.crewId) (rs.map fun x => x.2.toNat)
      let s := s.endReq c r .done
      if ret then s.wakeAtom c r d bad rs else s
  | _ => s

/-- An earlier per-thread write to QSCR of the crew, or an earlier atomic that must come first (R272). -/
def Req.before (r x : Req) : Bool :=
  decide (x.serial < r.serial) && decide (x.ctx = r.ctx) && decide (x.crewId = r.crewId)
    && (match r.kind, x.kind with
      | .atom _ _ _ _ true _ _, .atom _ _ _ _ _ _ _ => true
      | .atom _ _ _ _ rel _ _, .thread _ _ _ => rel && x.dst.desc.isGlobal
      | .atom _ _ _ _ false ls _, .atom _ _ _ _ _ ms _ =>
        decide (r.dst.desc.handle = x.dst.desc.handle) && ls.any fun l => ms.any fun m =>
          decide (r.dst.desc.bitPos l.coord = x.dst.desc.bitPos m.coord)
      | _, _ => false)

/-- The matrix requests of a request's crew, in the table or saved with the crew (R272). -/
def State.drainsOf (s : State) (c : Nat) (r : Req) : List MatReq :=
  ((s.quad (quadOf c)).table.filter fun m => decide (m.core = c) && decide (m.ctx = r.ctx) && decide (m.crewId = r.crewId))
    ++ ((s.context r.ctx).saved.filter fun v => decide (v.core = c) && decide (v.crew.id.crewId = r.crewId)).flatMap (·.mreqs)

/-- The update may be performed now (R199, R220, R272). -/
def State.atomReady (s : State) (c : Nat) (r : Req) : Bool :=
  let rel := match r.kind with
    | .atom _ _ _ _ true _ _ => true
    | _ => false
  r.parked.isNone && !(s.core c).holdCopy && (s.missing r).isNone && !s.heldByMove r && s.banksReady r
    && !((s.core c).reqs.any fun x => r.before x)
    && !(rel && (s.drainsOf c r).any fun m =>
      decide (m.serial < r.serial) && m.op.port && (m.opEnd 0).desc.isGlobal)

end Sys2Proof.Machine
end

