-- ==== Sys2Proof/Machine/Late.lean ====
section
/-! DEFINITION. What reaches the banks and the entries of a core at issue + 6 (R29, R139, R145, R150, R170), and
through LTDAT (R104, R152). The passes of an access are performed together at issue + 6 (log 73). -/

namespace Sys2Proof.Machine

/-- RERANK reaches its entry (R170): where banks are above the target, Kale chooses again (R158). -/
def State.reranked (s : State) (c e r : Nat) : State :=
  s.modCore c fun k =>
    let k := k.modEntry (e / 256) (e % 256) fun x =>
      if x.desc.st = .free then x else { x with desc := { x.desc with rank := r } }
    if k.nShort = 0 then k else { k with cap := { k.cap with pending := true } }

/-- A write through LTDAT reaches its entry (R152). -/
def State.patched (s : State) (c e word : Nat) (v : Word) (slot : Nat) (pc : Word) : State :=
  let x := (s.core c).entry (e / 256) (e % 256)
  let ctx := s.context (e / 256)
  if x.desc.st ≠ .live then s
  else match x.desc.patch ctx.codeBase ctx.codeSize word v with
    | some d => s.modCore c fun k => k.setEntry (e / 256) (e % 256) { x with desc := d }
    | none =>
      match s.crew? c slot with
      | some k => s.report c (k.record 0x0B 0 slot false pc 0)
      | none => s

/-- A QSCR write of a lane reads its source (R203). -/
def State.sourced (s : State) (c n : Nat) : State :=
  match s.req? c n with
  | some r => s.modReq c n fun q => { q with held := [(0, s.readUnit c r s.globalMem 0)] }
  | none => s

/-- An effect reaches the cells or its entry. A FREE waits for the dark instant of a LOSING entry (R162). -/
def State.applyLate (s : State) (c due : Nat) (op : LateOp) : State :=
  match op with
  | .load n d v ts => s.loaded c n d v ts
  | .store _ _ d xs => s.stored c d xs
  | .atoms n ctx d reg op ty id retired ls => s.updated c n ctx d reg op ty id retired ls
  | .source n => s.sourced c n
  | .mark e v => s.setFull c (e / 256) (e % 256) v
  | .rerank e r => s.reranked c e r
  | .free e =>
    if ((s.core c).entry (e / 256) (e % 256)).desc.st = .losing then s.later c (due + 1) op
    else s.freed c (e / 256) (e % 256)
  | .ltdat e word v slot pc => s.patched c e word v slot pc

/-- Effects of a core that are due. -/
def State.drainLate (s : State) (c : Nat) : State :=
  let now := s.coreCycle c
  let (due, rest) := (s.core c).late.partition fun (k, _) => decide (k ≤ now)
  if due.isEmpty then s
  else due.foldl (fun s (_, op) => s.applyLate c now op)
    (s.modCore c fun x => { x with late := rest })

end Sys2Proof.Machine
end

