-- ==== Sys2Proof/Machine/Tokens.lean ====
section
/-! DEFINITION. Token instructions (R191 to R196). -/

namespace Sys2Proof.Machine

/-- A crew holds an earmark (R183). -/
def State.earmarked (s : State) (c : Nat) (k : Crew) : Bool :=
  (s.quad (quadOf c)).table.any fun r =>
    decide (r.core = c) && decide (r.ctx = k.id.ctx) && decide (r.crewId = k.id.crewId)
      && (match r.st with
        | .earmarked _ => true
        | _ => false)

/-- The level word (R192). -/
def TokSt.word (t : TokSt) (hungry earmark : Bool) : Nat :=
  t.level + 2 ^ 12 * t.tkcap + 2 ^ 24 * hungry.toNat + 2 ^ 25 * t.holds.toNat + 2 ^ 26 * earmark.toNat

/-- The level word of TOKQ (R192). -/
def State.levelWord (s : State) (c : Nat) (k : Crew) : Nat := (s.core c).tok.word k.hungry (s.earmarked c k)

/-- A counter of CNTR (R195). -/
def State.counter (s : State) (c : Nat) (k : Crew) (i : Nat) : Nat :=
  if i = 7 then (s.core c).tok.claims else k.counts.cntr.getD i 0

/-- TOKQ (R192): the level word, or the tokens debited to the crew. -/
def execTokq (h : Hdr) (sp : Bool) (d : RegCode) (s : State) : Host.Outcome State Fault Refusal :=
  s.run (.tokq h sp d) h fun s g =>
    (s.readLogged g h d sp 4 fun _ k _ =>
      if sp then s.counter g.core k 5 else s.levelWord g.core k).finish g h

/-- PRICEQ (R193), under the table in force on the quad. -/
def execPriceq (h : Hdr) (d a : RegCode) (s : State) : Host.Outcome State Fault Refusal :=
  s.run (.priceq h d a) h fun s g =>
    let op := (s.quad (quadOf g.core)).op
    (s.write g h d 4 fun _ _ t => BitVec.ofNat 32 (priceq op (t.reg a).toNat)).finish g h

/-- TICKR (R194). -/
def execTickr (h : Hdr) (d a : RegCode) (s : State) : Host.Outcome State Fault Refusal :=
  s.run (.tickr h d a) h fun s g =>
    let tick := s.coreTick g.core
    (s.readLogged g h d true 4 fun _ _ t => (tick + (t.reg a).toNat) % 2 ^ 64).finish g h

/-- CNTR (R195). -/
def execCntr (h : Hdr) (idx : BitVec 6) (d : RegCode) (s : State) : Host.Outcome State Fault Refusal :=
  s.run (.cntr h idx d) h fun s g =>
    (s.readLogged g h d true 4 fun _ k _ => s.counter g.core k idx.toNat).finish g h

/-- PHINT (R196): a record for the quad's mailbox; dropped where it is full. -/
def execPhint (h : Hdr) (kind : BitVec 3) (a : RegCode) (s : State) : Host.Outcome State Fault Refusal :=
  s.run (.phint h kind a) h fun s g =>
    match s.leader? g h with
    | none => s.finish g h
    | some (k, t) =>
      let r : Hint := ⟨k.id.crewId, kind.toNat, t.reg a, s.coreTick g.core⟩
      (s.modQuad (quadOf g.core) fun q =>
        if q.mailbox.length < Config.mailboxMax then { q with mailbox := q.mailbox ++ [r] } else q).finish g h

end Sys2Proof.Machine
end

