-- ==== Sys2Proof/Machine/Traps.lean ====
section
/-! DEFINITION. Trap instructions (R311, R324 to R327). -/

namespace Sys2Proof.Machine

/-- TRAP (R326): USER, with the lanes whose guard holds. -/
def execTrap (h : Hdr) (o : TrapOp) (s : State) : Host.Outcome State Fault Refusal :=
  s.run (.trap h o) h fun s g =>
    match s.leader? g h with
    | none => s.finish g h
    | some (_, t) =>
      let arg := if o.av then t.reg o.a else 0
      s.raise g h 7 o.code.toNat arg 0

/-- The PC after the instruction that trapped (R311 SKIP). -/
def State.afterTrap (s : State) (k : Crew) : Word :=
  let f := k.trap.frame
  f.pc + BitVec.ofNat 32 ((s.context k.id.ctx).lenAt f.pc)

/-- RETT (R311): the handler's threads return, or the crew is killed. -/
def execRett (h : Hdr) (form : BitVec 3) (s : State) : Host.Outcome State Fault Refusal :=
  s.run (.rett h form) h fun s g =>
    match s.crew? g.core g.slot with
    | none => s
    | some k =>
      let f := k.trap.frame
      if k.holding h g.mask = 0 then s.finishDone g h
      else if !k.trap.handling || decide (g.mask &&& ~~~k.trap.hact ≠ 0) then
        s.killCrew g.core g.slot .rett g.pc (0, 0)
      else
        match form.toNat with
        | 0 => s.returnTrap g.core g.slot f.pc true h.stall.toNat
        | 1 => s.returnTrap g.core g.slot (s.afterTrap k) true h.stall.toNat
        | 2 =>
          if f.cls ≠ 1 then s.killCrew g.core g.slot .rett g.pc (0, 0)
          else s.returnTrap g.core g.slot (s.afterTrap k) false h.stall.toNat
        | _ => s.killCrew g.core g.slot (.fatal (BitVec.ofNat 4 f.cls)) g.pc f.info

/-- A control write of the group, seen at distance 2 (R104, R324, R325). -/
def State.control (s : State) (g : Group) (op : CtlOp) : State :=
  (s.modCrew g.core g.slot fun k => k.writeCtl g.mask op 2 s.serial).bump

/-- SETH (R324). -/
def execSeth (h : Hdr) (o : SethOp) (s : State) : Host.Outcome State Fault Refusal :=
  s.run (.seth h o) h fun s g =>
    match s.leader? g h with
    | none => s.finish g h
    | some (_, t) =>
      let pc := match o.src.toNat with
        | 0 => g.rel o.off.toInt
        | 1 => t.target o.a
        | _ => 0
      (s.control g (.handler o.cls.toNat pc)).finish g h

/-- The new trap mask (R325). -/
def newMask (op : Nat) (old m : BitVec 10) : BitVec 10 :=
  match op with
  | 0 => old
  | 1 => old ||| m
  | 2 => old &&& ~~~m
  | _ => m

/-- TMASK (R325): D receives the old mask. -/
def execTmask (h : Hdr) (o : TmaskOp) (s : State) : Host.Outcome State Fault Refusal :=
  s.run (.tmask h o) h fun s g =>
    match s.leader? g h with
    | none => s.finish g h
    | some (k, t) =>
      let s := if o.wd then
          s.write g h o.d 4 fun _ k t => BitVec.ofNat 32 (k.ctlOf t).tmask.toNat else s
      let old := (k.ctlOf t).tmask
      let s := if o.op = 0 then s else s.control g (.tmask (newMask o.op.toNat old o.mask))
      s.finish g h

/-- CKPT (R327): asks for a checkpoint, or appends a marker to the order log. -/
def execCkpt (h : Hdr) (mark : Bool) (a : RegCode) (s : State) : Host.Outcome State Fault Refusal :=
  s.run (.ckpt h mark a) h fun s g =>
    match s.leader? g h with
    | none => s.finish g h
    | some (k, t) =>
      let s := if mark then s.logCrew k 9 [(t.reg a).toNat]
        else s.modContext k.id.ctx fun x => { x with ckptAsked := x.ckptAsked || x.ccb.replay }
      s.finish g h

end Sys2Proof.Machine
end

