-- ==== Sys2Proof/Machine/Symmetry.lean ====
section
/-! DEFINITION. SYMQ and IMGW (R304, R305). -/

namespace Sys2Proof.Machine

/-- What SYMQ gives for a crew: the word, and the second word of `.img` (R304). -/
def State.symq (s : State) (k : Crew) (sel el : Nat) : Nat × Nat :=
  let none' := 0xFFFFFFFF
  match sel with
  | 0 => (if k.id.spawned then 1 else s.blockOf k (·.orbit) 1, 0)
  | 1 => (if k.id.spawned then 1 else s.blockOf k (·.stab) 1, 0)
  | 2 => (((s.launchOf k).map (·.order)).getD 1, 0)
  | 3 => (k.counts.imgseq, 0)
  | 4 => (k.counts.issued, 0)
  | _ =>
    match s.launchOf k with
    | none => (none', none')
    | some l =>
      if l.order ≤ el ∨ k.id.spawned then (none', none')
      else if sel = 5 then
        let i := (l.elem el).index l.record.grid (s.xyzOf k)
        (i.getD 0 0 % 65536 + 65536 * (i.getD 1 0 % 65536), i.getD 2 0)
      else ((l.elem el).neg.toNat, 0)

/-- A word written at a completion point by a crew-collective instruction: in every thread of the group
for a v destination, in the crew for an s destination. -/
def State.doneWord (s : State) (g : Group) (d : RegCode) (v : Nat) : State :=
  let w := BitVec.ofNat 32 v
  if d.isS then
    (s.modCrew g.core g.slot fun k => { k with sregs := tset k.sregs d.toNat w }).putAll g d.toNat w
  else s.putAll g d.toNat w

/-- SYMQ. -/
def execSymq (h : Hdr) (sel : BitVec 3) (el : BitVec 4) (d : RegCode) (s : State) :
    Host.Outcome State Fault Refusal :=
  s.run (.symq h sel el d) h fun s g =>
    match s.leader? g h with
    | none => s.finishDone g h
    | some (k, _) =>
      let (a, b) := s.symq k sel.toNat el.toNat
      let s := (s.finishDone g h).doneWord g d a
      if sel = 5 then s.doneWord g (d + 1) b else s

/-- IMGW: the threads whose guards hold wait for the crew's image-bearing writes. -/
def execImgw (h : Hdr) (p : PIdx) (s : State) : Host.Outcome State Fault Refusal :=
  s.run (.imgw h p) h fun s g =>
    match s.crew? g.core g.slot with
    | none => s
    | some k =>
      let on := k.holding h g.mask
      let upTo := k.counts.issued
      if on = 0 then s.finishDone g h
      else if (s.core g.core).imagesSettled k upTo then
        (s.finishDone g h).modLanes g.core g.slot on fun _ t =>
          t.put (pKey p) (BitVec.ofNat 32 (k.imagesDone upTo).toNat)
      else (s.finishRest g h g.slot (g.mask &&& ~~~on) true).park g h g.slot on fun _ => .image p upTo

end Sys2Proof.Machine
end

