-- ==== Sys2Proof/Machine/Launch.lean ====
section
/-! DEFINITION. Launch records (R333), the symmetry group (R289 to R295), refusal (R337), transform
bindings (R221), and the crews of a launch as they are made (R60, R83). -/

namespace Sys2Proof.Machine

/-! ## The record -/

/-- Offset of a byte of the record, in bits. -/
def recBits (v byte lo len : Nat) : Nat := bitsOf v (8 * byte + lo) len

/-- A launch record from its 2,048 bytes as a number, byte 0 lowest. -/
def parseRecord (v : Nat) : LaunchRec :=
  let hdr := fun lo len => bitsOf v lo len
  let zero := decide (hdr 179 13 = 0) && decide (hdr 352 160 = 0) && decide (recBits v 0x52C 0 5792 = 0)
    && decide (recBits v 0x528 10 22 = 0)
  let range := fun i => let b := 0x100 + 16 * i
    (BitVec.ofNat 64 (recBits v b 0 64), recBits v b 64 48, recBits v b 112 15, bitOf v (8 * b + 127))
  let entry := fun i => let b := 0x200 + 48 * i
    if bitOf v (8 * b + 8) then some (recBits v b 0 8, bitOf v (8 * b + 9), recBits v b 128 256) else none
  { kind := hdr 0 2, crews := hdr 2 6, high := bitOf v 8, regroup := bitOf v 9,
    width := hdr 10 2 + 4 * hdr 178 1, vallot := hdr 12 9, pinq := hdr 21 7, nrange := hdr 28 4,
    code := BitVec.ofNat 32 (hdr 32 32), grid := (List.range 3).map fun i => hdr (64 + 16 * i) 16,
    shape := (List.range 3).map fun i => hdr (112 + 8 * i) 8, spawnmax := hdr 136 24,
    fpctl := BitVec.ofNat 32 (hdr 160 18), pred := BitVec.ofNat 64 (hdr 192 64),
    cmpl := BitVec.ofNat 64 (hdr 256 64), lid := BitVec.ofNat 32 (hdr 320 32),
    pval := (List.range 32).map fun i => BitVec.ofNat 32 (recBits v 0x040 (32 * i) 32),
    pidx := (List.range 32).map fun i => recBits v 0x0C0 (8 * i) 8,
    sym := BitVec.ofNat 64 (recBits v 0x0E0 0 64),
    images := ((List.range 4).map fun i => recBits v 0x0E8 (8 * i) 8).filter fun e => decide (e ≠ 255),
    bar := (List.range 16).map fun i => recBits v 0x0F0 (8 * i) 8,
    ranges := (List.range (min 8 (hdr 28 4))).map range,
    bind := ((List.range 8).map fun i => recBits v 0x180 (128 * i) 128).filter fun b => decide (b ≠ 0),
    entries := (List.range 16).filterMap entry,
    handlers := (List.range 10).map fun i => BitVec.ofNat 32 (recBits v 0x500 (32 * i) 32),
    tmask := BitVec.ofNat 10 (recBits v 0x528 0 10), reservedOk := zero }

/-- Bits of FPCTL that a launch may set (R51, R333). -/
def fpctlDefaults : Word := 0x00031F00

/-- A handler word of a record: 0, or granule-aligned in the code space (R337). -/
def handlerOk (x : Context) (p : Word) : Bool :=
  decide (p = 0) || (decide (p.toNat % 4 = 0) && inCode x.codeBase x.codeSize p.toNat)

/-- R337 RECORD: every reserved field is 0 and every field lies in its range (R333). -/
def LaunchRec.fieldsOk (r : LaunchRec) (x : Context) : Bool :=
  r.reservedOk && (decide (r.kind ≠ 0) ||
    (decide (1 ≤ r.crews ∧ r.crews ≤ 32) && decide (r.vallot % 8 = 0 ∧ 8 ≤ r.vallot ∧ r.vallot ≤ 256)
      && decide (r.width ≤ 4) && decide (r.pinq ≤ 64) && decide (r.nrange ≤ 8)
      && r.grid.all (fun g => decide (g ≠ 0)) && decide (r.shape.foldl (· * ·) 1 = r.crews)
      && decide (r.fpctl &&& ~~~fpctlDefaults = 0)
      && r.bar.all (fun b => !bitOf b 3 || decide (b % 8 ≤ 5))
      && r.handlers.all (handlerOk x) && decide (r.handlers.getD 1 0 = 0)))

/-! ## Barriers of a record (R258) -/

/-- Logical barrier b: its level and whether its members are crews. -/
def LaunchRec.barrier? (r : LaunchRec) (b : Nat) : Option (Nat × Bool) :=
  let v := r.bar.getD b 0
  if bitOf v 3 then some (v % 8, bitOf v 4) else none

/-- Barriers declared at a level. -/
def LaunchRec.barsAt (r : LaunchRec) (level : Nat) : Nat :=
  ((List.range 16).filter fun b => match r.barrier? b with
    | some (l, _) => decide (l = level)
    | none => false).length

/-- Physical barriers of a level (R55). -/
def levelBars (level : Nat) : Nat := [0, 16, 8, 8, 4, 2].getD level 0

/-- A block fits on one core (R59). -/
def LaunchRec.oneCore (r : LaunchRec) : Bool :=
  decide (r.crews ≤ 16) && decide (r.crews * r.vallot ≤ 1024)

/-- An unarrived barrier. -/
def Bar.fresh (level : Nat) (crewMem : Bool) (expected : Nat) : Bar :=
  { level := level, crewMem := crewMem, expected := expected, opened := 0, members := [], pub := [],
    publishing := false }

/-- The declared barriers of block scope, or of launch scope, of `n` blocks (R258, R259). -/
def LaunchRec.barriers (r : LaunchRec) (wide : Bool) (n : Nat) : Tab Bar :=
  (List.range 16).filterMap fun b => match r.barrier? b with
    | some (l, cm) =>
      if decide (3 ≤ l) = wide then some (b, Bar.fresh l cm (n * r.crews * (if cm then 1 else 64))) else none
    | none => none

/-! ## Transform bindings (R221) -/

def bindDst (b : Nat) : Nat := bitsOf b 0 8
def bindSrc (b : Nat) : Nat := bitsOf b 8 8
def bindWord (b : Nat) : Word := BitVec.ofNat 32 (bitsOf b 0 32)
def bindScale (b : Nat) : Word := BitVec.ofNat 32 (bitsOf b 32 32)

/-- A launch-time entry of a record. -/
def LaunchRec.entry? (r : LaunchRec) (n : Nat) : Option Desc :=
  (r.entries.find? fun (i, _) => decide (i = n)).map fun (_, _, d) => Desc.ofNat d

/-- The extents that a binding reads, in the order of the source. -/
def bindBox (b : Nat) (d : Desc) : List Nat := if bitOf b 17 then swapInner d.exts else d.exts

/-- R114 for the conversion of a binding. -/
def bindCvtOk (sf df : Nat) (mode : Nat) (sat : Bool) : Bool :=
  decide (sf ≠ df)
    && (if fmtFloat sf && fmtFloat df then true
      else if fmtFloat sf || fmtFloat df then !sat
      else decide (mode = 0))

/-- A binding obeys R221. -/
def LaunchRec.bindOk (r : LaunchRec) (b : Nat) : Bool :=
  match r.entry? (bindDst b), r.entry? (bindSrc b) with
  | some d, some e =>
    let cvt := bitOf b 16
    let qnt := bitOf b 18
    !d.isGlobal && e.isGlobal && decide (d.ndim = e.ndim) && decide (bitsOf b 22 10 = 0)
      && decide (bitsOf b 64 64 = 0) && !(cvt && qnt) && (qnt || decide (bindScale b = 0))
      && (!bitOf b 17 || decide (1 ≤ d.ndim))
      && (if cvt then bindCvtOk e.fmt d.fmt (bitsOf b 19 2) (bitOf b 21)
        else if qnt then decide (e.fmt = 0) && decide (d.fmt = 3 ∨ d.fmt = 4)
        else decide (d.fmt = e.fmt))
      && (((bindBox b d).zip e.exts).all fun (x, y) => decide (x ≤ y))
  | _, _ => false

/-! ## The symmetry group (R290 to R295) -/

/-- NGEN and the generators of a record. -/
def LaunchRec.ngen (r : LaunchRec) : Nat := bitsOf r.sym.toNat 0 2
def LaunchRec.gens (r : LaunchRec) : List Nat := (List.range r.ngen).map r.gen

/-- Indices that tell two index maps of a grid apart: the origin, and one step along each dimension. -/
def gridProbes (grid : List Nat) : List (List Nat) :=
  [0, 0, 0] :: (((List.range 3).filter fun d => decide (2 ≤ grid.getD d 1)).map fun d => [0, 0, 0].set d 1)

/-- The same for the coordinates of an entry. -/
def coordProbes (exts : List Nat) : List (List Nat) :=
  let o := List.replicate exts.length 0
  o :: (((List.range exts.length).filter fun d => decide (2 ≤ exts.getD d 1)).map fun d => o.set d 1)

/-- Index maps agree. -/
def sameIndex (grid : List Nat) (x y : SymElem) : Bool :=
  (gridProbes grid).all fun i => decide (x.index grid i = y.index grid i)

/-- Coordinate maps of an entry agree. -/
def sameCoord (grid exts : List Nat) (x y : SymElem) : Bool :=
  (coordProbes exts).all fun c => decide (x.coord grid exts c = y.coord grid exts c)

/-- A generator is well formed on a grid (R292 SYMGEN). -/
def genOk (grid : List Nat) (g : Nat) : Bool :=
  let a := genA g
  let b := genB g
  decide (a ≤ 2)
    && (match genKind g with
      | 1 => decide (b ≤ 2 ∧ a ≠ b ∧ genK g = 0) && decide (grid.getD a 1 = grid.getD b 1)
      | 2 => decide (b = 0 ∧ genK g = 0)
      | 3 => decide (b = 0 ∧ genK g ≠ 0) && decide (genK g < grid.getD a 1)
      | _ => false)
    && !sameIndex grid ⟨[g], false⟩ ⟨[], false⟩

/-- R292 SYMGEN. -/
def LaunchRec.symGenOk (r : LaunchRec) : Bool :=
  decide (bitsOf r.sym.toNat 50 14 = 0)
    && (List.range 3).all fun i => if i < r.ngen then genOk r.grid (r.gen i) else decide (r.gen i = 0)

/-- R295 for an imaged entry. -/
def symTiles (grid : List Nat) (gens exts : List Nat) : Bool :=
  let n := exts.length
  let ext := fun (d : Nat) => exts.getD (n - 1 - d) 1
  (List.range 3).all (fun d =>
      if d < n then decide (ext d % grid.getD d 1 = 0) && decide (grid.getD d 1 ≤ ext d)
      else decide (grid.getD d 1 = 1))
    && gens.all fun g => decide (genKind g ≠ 1)
      || decide (ext (genA g) / grid.getD (genA g) 1 = ext (genB g) / grid.getD (genB g) 1)

/-- R292 SYMIMG. -/
def LaunchRec.symImgOk (r : LaunchRec) : Bool :=
  (decide (r.ngen ≠ 0) || r.images.isEmpty) && decide (r.images.eraseDups.length = r.images.length)
    && r.images.all fun e => match r.entry? e with
      | none => false
      | some d => d.isGlobal && !d.gpl && decide (d.space ≠ 1)
          && !(decide (d.fmt = 6 ∨ d.fmt = 8) && r.gens.any genNeg) && symTiles r.grid r.gens d.exts

/-- An element followed by a generator. -/
def SymElem.then (x : SymElem) (g : Nat) : SymElem := ⟨x.gens ++ [g], x.neg != genNeg g⟩

/-- Elements that one step of R291 adds to a list, up to a seventeenth. -/
def symAdd (grid : List Nat) (x : SymElem) (l : List SymElem) (gens : List Nat) : List SymElem :=
  gens.foldl (fun l g =>
    let h := x.then g
    if 16 < l.length ∨ l.any (sameIndex grid h) then l else l ++ [h]) l

/-- The enumeration of R291; a list of 17 means that the group is too large. -/
def symList (grid gens : List Nat) : Nat → Nat → List SymElem → List SymElem
  | 0, _, l => l
  | k + 1, n, l =>
    match l[n]? with
    | none => l
    | some x => symList grid gens k (n + 1) (symAdd grid x l gens)

/-- The elements of a record's group, in their order; none without a group. -/
def LaunchRec.elems (r : LaunchRec) : List SymElem :=
  if r.ngen = 0 then [] else symList r.grid r.gens 17 0 [⟨[], false⟩]

/-- R292 SYMACT: words of one index map disagree on an imaged entry or on the value action. -/
def LaunchRec.symActs (r : LaunchRec) : Bool :=
  let l := r.elems
  let exts := r.images.filterMap fun e => (r.entry? e).map (·.exts)
  l.any fun x => r.gens.any fun g =>
    let h := x.then g
    match l.find? (sameIndex r.grid h) with
    | none => false
    | some m => h.neg != m.neg || exts.any fun e => !sameCoord r.grid e h m

/-! ## Refusal (R337) -/

/-- A launch-time entry of a record is valid (R132, R149). -/
def Context.entryOk (x : Context) (e : Nat × Bool × Nat) : Bool :=
  let d := Desc.ofNat e.2.2
  (descCheck e.2.1 x.codeBase x.codeSize e.2.2).isNone
    && (!e.2.1 || x.allocs.any fun a =>
      decide (a.handle = d.handle) && decide (a.space = d.space) && decide (d.span ≤ a.size))

/-- R258: launch-scope barriers beyond their level, or a CORE barrier in a block of several cores. -/
def LaunchRec.barrierBad (r : LaunchRec) : Bool :=
  [3, 4, 5].any (fun l => decide (levelBars l < r.barsAt l)) || (decide (r.barsAt 1 ≠ 0) && !r.oneCore)

/-- HBM frames of a launch's backing region, 32 bytes a record of SPAWNMAX (R81). -/
def LaunchRec.backing (r : LaunchRec) : Nat := ceilDiv (32 * r.spawnmax) 65536

/-- The first cause for which a launch is refused, with the frames of the memories as they are. -/
def Context.refuses (x : Context) (f : Frames) (r : LaunchRec) : Option Nat :=
  let idx := r.entries.map (·.1)
  if !r.fieldsOk x then some 0x01
  else if r.width ≠ 0 ∧ r.width ≠ 3 then some 0x02
  else if r.pidx.any (fun i => decide (183 < i ∧ i ≠ 255)) then some 0x03
  else if !r.entries.all x.entryOk || decide (idx.eraseDups.length ≠ idx.length) then some 0x04
  else if 32 < r.crews ∨ 4096 < r.crews * r.vallot then some 0x05
  else if r.barrierBad then some 0x06
  else if !r.bind.all r.bindOk then some 0x07
  else if !f.room 2 r.backing then some 0x08
  else if !r.symGenOk then some 0x09
  else if !r.symImgOk then some 0x0A
  else if 16 < r.elems.length then some 0x0B
  else if r.symActs then some 0x0C
  else none

def State.refuses (s : State) (ctx : Nat) (r : LaunchRec) : Option Nat := (s.context ctx).refuses s.device.frames r

/-! ## Released launches -/

/-- Block index of a linear index, x fastest (R59). -/
def xyzOfIndex (grid : List Nat) (i : Nat) : List Nat :=
  let gx := grid.getD 0 1
  let gy := grid.getD 1 1
  [i % gx, i / gx % gy, i / (gx * gy)]

/-- Linear index of a block index. -/
def indexOfXyz (grid i : List Nat) : Nat :=
  i.getD 0 0 + grid.getD 0 1 * (i.getD 1 0 + grid.getD 1 1 * i.getD 2 0)

/-- The representatives, ascending (R293). -/
def LaunchRec.reps (r : LaunchRec) : List Nat :=
  let n := r.grid.foldl (· * ·) 1
  let es := r.elems
  (List.range n).filter fun i =>
    es.all fun e => decide (i ≤ indexOfXyz r.grid (e.index r.grid (xyzOfIndex r.grid i)))

/-- A launch of a record as it is released for placement. -/
def LaunchRec.launch (r : LaunchRec) (ctx : Nat) (queue : Option Nat) : Launch :=
  let reps := r.reps
  { ctx := ctx, queue := queue, record := r, status := 0, detail := 0, elems := r.elems,
    waiting := reps, done := 0, total := reps.length, population := 0, frames := [], backing := [], spawned := 0,
    bars := r.barriers true reps.length, die := none, completed := false }

/-- A refused launch: it completes as LAUNCHERR with its cause. -/
def LaunchRec.refused (r : LaunchRec) (ctx : Nat) (queue : Option Nat) (cause : Nat) : Launch :=
  { ctx := ctx, queue := queue, record := r, status := 3, detail := cause, elems := [], waiting := [],
    done := 0, total := 0, population := 0, frames := [], backing := [], spawned := 0, bars := [], die := none,
    completed := false }

/-! ## Crews as they are made (R60, R83, R306) -/

/-- The launch parameters in s registers; all others are 0. -/
def LaunchRec.params (r : LaunchRec) : Tab Word :=
  (r.pidx.zip r.pval).foldl (fun t (i, v) => if i ≤ 183 then tset t (256 + i) v else t) []

def Ctl.start (r : LaunchRec) : Ctl :=
  { fpctl := r.fpctl, ltsel := 0, tmask := r.tmask, handlers := r.handlers }

def Frame.zero : Frame := { pc := 0, code := 0, arg := 0, lt := 0, lm := 0, act := 0 }
def TrapSt.start : TrapSt := { handling := false, hact := 0, frame := Frame.zero, pending := [] }
def CopySt.start : CopySt := { tags := [], oloss := false, ofault := false, oref := false }
def Counts.start (now : Nat) : Counts :=
  { cntr := List.replicate 7 0, retired := 0, wdBase := now, issued := 0,
    unsettled := [] }

/-- A new thread. -/
def Thread.start (pc : Word) (regs sview : Tab Word) (jid : BitVec 16) (now : Nat) : Thread :=
  { st := .ready, pc := pc, regs := regs, sview := sview, pend := [], ctlPend := [], jid := jid,
    nextA := now, nextB := now, since := now, promoted := false, broken := false, released := none }

/-- A new crew with its threads. -/
def LaunchRec.crew (r : LaunchRec) (st : CrewSt) (id : CrewId) (threads : Tab Thread) (now : Nat) : Crew :=
  { st := st, id := id, threads := threads, sregs := r.params,
    loops := { lc := [0, 0, 0], levels := [], buffer := [] }, ctl := Ctl.start r, ctlLog := [],
    trap := TrapSt.start, copy := CopySt.start, counts := Counts.start now, claim := none, hungry := false,
    kbTile := none, evict := none }

/-- The threads of a placed crew: one a lane. -/
def LaunchRec.threads (r : LaunchRec) (pc : Word) (now : Nat) : Tab Thread :=
  (List.range Config.lanes).map fun l => (l, Thread.start pc [] r.params 0xFFFF now)

end Sys2Proof.Machine
end

