-- ==== Sys2Proof/Machine/Queue.lean ====
section
/-! DEFINITION. Queues and their windows (R331, R332, R334), completion records (R336). -/

namespace Sys2Proof.Machine

/-- A queue descriptor nobody has written (R331). -/
def Queue.reset : Queue :=
  { base := 0, slog := 0, ranged := false, devfed := false, stop := false, head := 0, tail := 0,
    window := [], deps := [], skips := 0, appended := none }

def Context.queue (x : Context) (q : Nat) : Queue := tget Queue.reset x.queues q

/-- A descriptor as it stands in the queue table. -/
def Queue.word (q : Queue) : Nat :=
  q.base.toNat + 2 ^ 64 * (q.slog % 16) + 2 ^ 68 * q.ranged.toNat + 2 ^ 69 * q.devfed.toNat + 2 ^ 70 * q.stop.toNat
    + 2 ^ 96 * (q.head % 2 ^ 16) + 2 ^ 112 * (q.tail % 2 ^ 16)

/-- The queue table in device memory shows a queue's descriptor (R331). -/
def State.showQueue (s : State) (ctx qi : Nat) : State :=
  let x := s.context ctx
  if qi < x.ccb.nq then s.putGlobal x.ccb.qtBase (32 * qi) (leBytes (x.queue qi).word 32) else s

/-- Change a queue, and its descriptor with it. -/
def State.modQueue (s : State) (ctx q : Nat) (f : Queue → Queue) : State :=
  let old := (s.context ctx).queue q
  let s := s.modContext ctx fun x => { x with queues := tset x.queues q (f old) }
  if (f old).word = old.word then s else s.showQueue ctx q

/-- Records between HEAD and a tail word. -/
def Queue.ahead (q : Queue) (tail : Nat) : Nat := (tail + 2 ^ 16 - q.head) % 2 ^ 16

/-- A tail word would pass HEAD (R332, log 30). -/
def Queue.passes (q : Queue) (tail : Nat) : Bool := decide (2 ^ q.slog < q.ahead tail)

/-- Address of the slot that a tail word names. -/
def Queue.slotAddr (q : Queue) (n : Nat) : Nat := gaddr q.base (2048 * (n % 2 ^ q.slog))

/-- A record as it stands in a slot. -/
def State.recordAt (s : State) (q : Queue) (n : Nat) : LaunchRec :=
  parseRecord (leNat (Memory.readN s.globalMem (q.slotAddr n) 2048))

/-- The front end takes records into the window, 64 at most (R332, R334); a record that a migration holds on its way to
the slot is waited for. -/
def State.intake (s : State) (ctx qi : Nat) : Nat → State
  | 0 => s
  | n + 1 =>
    let q := (s.context ctx).queue qi
    if q.stop ∨ q.head = q.tail ∨ Config.window ≤ q.window.length ∨ s.heldAt (q.slotAddr q.head) 2048 then s
    else
      let r : QRec :=
        { record := s.recordAt q q.head, st := .queued, skip := decide (0 < q.skips), launch := none,
          dep := (q.deps.find? fun (i, _) => decide (i = q.head)).map (·.2) }
      (s.modQueue ctx qi fun q =>
        { q with window := q.window ++ [r], head := (q.head + 1) % 2 ^ 16, skips := q.skips - 1,
                 deps := q.deps.filter fun (i, _) => decide (i ≠ q.head) }).intake ctx qi n

/-- Take in what there is. -/
def State.wakeQueue (s : State) (ctx qi : Nat) : State := s.intake ctx qi Config.window

/-! ## Order (R334) -/

/-- Bytes of a range, rounded outward to 4 KiB: handle, first and last page. -/
def rangePages (x : BitVec 64 × Nat × Nat × Bool) : Nat × Nat := (x.2.1 / 4096, x.2.1 / 4096 + x.2.2.1 +
  (if x.2.1 % 4096 = 0 then 0 else 1))

/-- Two ranges conflict. -/
def rangesMeet (a b : BitVec 64 × Nat × Nat × Bool) : Bool :=
  decide (a.1 = b.1) && (a.2.2.2 || b.2.2.2)
    && decide ((rangePages a).1 < (rangePages b).2) && decide ((rangePages b).1 < (rangePages a).2)

/-- Two KERNELs conflict. -/
def LaunchRec.conflicts (a b : LaunchRec) : Bool :=
  decide (a.nrange = 0) || decide (b.nrange = 0)
    || a.ranges.any fun x => b.ranges.any (rangesMeet x)

/-- An earlier uncompleted record is a predecessor. -/
def precedes (ranged : Bool) (a b : LaunchRec) : Bool :=
  !ranged || decide (b.kind ≠ 0) || decide (a.kind ≠ 0) || a.conflicts b

/-- A launch has completed. -/
def State.launchDone (s : State) (l : Nat) : Bool :=
  match tget? s.launches l with
  | some x => x.completed
  | none => true

/-- Record `idx` of a window may be released (R334, R97 DEP). -/
def State.recReady (s : State) (ctx qi idx : Nat) : Option QRec :=
  let q := (s.context ctx).queue qi
  match q.window[idx]? with
  | none => none
  | some r =>
    if decide (r.st = .queued) && (match r.dep with | some l => s.launchDone l | none => true)
      && (q.window.take idx).all (fun p => !precedes q.ranged p.record r.record) then some r else none

/-- A record leaves the window. -/
def State.dropRec (s : State) (ctx qi idx : Nat) : State :=
  (s.modQueue ctx qi fun q => { q with window := q.window.eraseIdx idx }).wakeQueue ctx qi

/-! ## Completion (R336) -/

/-- The completion record as a number. -/
def completionWord (status detail : Nat) (lid : Word) (tick blocks : Nat) : Nat :=
  status + 2 ^ 8 * detail + 2 ^ 32 * lid.toNat + 2 ^ 64 * (tick % 2 ^ 64) + 2 ^ 128 * (blocks % 2 ^ 32)

/-- The completion record of a record is written, where it names one. -/
def State.putCompletion (s : State) (r : LaunchRec) (status detail blocks : Nat) : State :=
  if r.cmpl = 0 then s
  else s.putGlobal r.cmpl 0 (leBytes (completionWord status detail r.lid s.tick blocks) 32)

/-- A launch has completed: its backing region is released (R81). -/
def State.closeLaunch (s : State) (l : Nat) (x : Launch) : State :=
  let s := x.frames.foldl (fun s f => s.freeFrame 2 f) s
  s.modLaunch l fun _ => { x with frames := [], completed := true }

/-- A launch completes: its record leaves the window of its queue. -/
def State.finishLaunch (s : State) (l : Nat) : State :=
  match tget? s.launches l with
  | none => s
  | some x =>
    let s := s.putCompletion x.record x.status x.detail x.done
    let s := s.closeLaunch l x
    match x.queue with
    | none => s
    | some qi =>
      match ((s.context x.ctx).queue qi).window.findIdx? fun r => decide (r.launch = some l) with
      | some i => s.dropRec x.ctx qi i
      | none => s

end Sys2Proof.Machine
end

