-- ==== Sys2Proof/Machine/Tasks.lean ====
section
/-! DEFINITION. Tasks: records, bins and join counters (R80 to R84), SPAWN, JOIN, PARK and LAUNCH (R94 to
R97). -/

namespace Sys2Proof.Machine

/-! ## Records and bins (R80, R82) -/

/-- The key of a record. -/
def TaskRec.key (r : TaskRec) : Word × Bool × Nat × Nat := (r.code, r.hany, r.hcore, r.launch)

/-- The 256 bits of a record (R80). -/
def TaskRec.image (r : TaskRec) : Nat :=
  r.code.toNat + 2 ^ 32 * (r.frame.getD 0 0).toNat + 2 ^ 64 * (r.frame.getD 1 0).toNat
    + 2 ^ 96 * (r.frame.getD 2 0).toNat + 2 ^ 128 * (r.frame.getD 3 0).toNat + 2 ^ 160 * r.jid.toNat
    + 2 ^ 176 * r.in0.toNat + 2 ^ 184 * r.in1.toNat + 2 ^ 192 * r.oute.toNat + 2 ^ 200 * r.v.toNat
    + 2 ^ 203 * r.high.toNat + 2 ^ 208 * (r.hcore % 64) + 2 ^ 214 * r.hany.toNat + 2 ^ 224 * r.lid.toNat

/-- The lowest place of a launch's backing region that no record is in. -/
def State.backSlot (s : State) (l : Nat) : Nat :=
  let used := s.dies.flatMap fun (_, d) =>
    d.tasks.filterMap fun t => if t.launch = l then t.backed else none
  ((List.range (used.length + 1)).find? fun n => !used.contains n).getD 0

/-- The oldest record on chip moves to its launch's backing region where the queue of 4,096 is full (R80, R82). -/
def State.spill (s : State) (d : Nat) : State :=
  let ts := (s.die d).tasks
  if (ts.filter fun t => t.backed.isNone).length < 4096 then s
  else match ts.findIdx? fun t => t.backed.isNone with
    | none => s
    | some i => match ts[i]? with
      | none => s
      | some t =>
        let n := s.backSlot t.launch
        (s.modDie d fun x => { x with tasks := x.tasks.modify i fun t => { t with backed := some n } }).modLaunch
          t.launch fun l => { l with backing := Memory.writeN l.backing (32 * n) (leBytes t.image 32) }

/-- A record enters the front end of a die, in its key's bin where there is one. -/
def Die.enqueue (d : Die) (r : TaskRec) (tick : Nat) : Die :=
  let has := d.bins.contains r.key
  let room := decide (d.bins.length < Config.taskBins)
  { d with bins := if !has && room then d.bins ++ [r.key] else d.bins
           tasks := d.tasks ++ [{ r with binned := if has || room then some tick else none }] }

/-- Bins that have emptied go to the oldest waiting keys. -/
def Die.rebin (d : Die) (tick : Nat) : Nat → Die
  | 0 => d
  | n + 1 =>
    let bins := d.bins.filter fun k => d.tasks.any fun t => decide (t.key = k)
    match d.tasks.find? fun t => t.binned.isNone with
    | none => { d with bins := bins }
    | some t =>
      if Config.taskBins ≤ bins.length then { d with bins := bins }
      else
        let tasks := d.tasks.map fun x => if x.key = t.key then { x with binned := some tick } else x
        Die.rebin { d with bins := bins ++ [t.key], tasks := tasks } tick n

/-- A record is enqueued on a die. -/
def State.enqueue (s : State) (d : Nat) (r : TaskRec) : State :=
  (s.spill d).modDie d fun x => x.enqueue r s.tick

/-- A record of a launch, made by a crew. -/
def State.taskRec (s : State) (core : Nat) (k : Crew) (code : Word) (frame : List Word) (jid : BitVec 16)
    (in0 in1 oute : BitVec 8) (v : BitVec 3) : TaskRec :=
  { code := code, frame := frame, jid := jid, in0 := in0, in1 := in1, oute := oute, v := v,
    high := ((s.launchOf k).map (·.record.high)).getD false, hcore := core % 64, hany := decide (v = 0),
    lid := ((s.launchOf k).map (·.record.lid)).getD 0, launch := k.id.launch, ctx := k.id.ctx, binned := none,
    backed := none }

/-! ## Join counters (R84) -/

def Join.rest : Join := { armed := false, count := 0, held := [] }

/-- The counter that an id names: its die and index; none where bits [15:14] are set. -/
def joinOf (id : Nat) : Option (Nat × Nat) :=
  if bitsOf id 14 2 ≠ 0 then none else some (bitsOf id 12 2, bitsOf id 0 12)

def State.joinAt (s : State) (d i : Nat) : Join := tget Join.rest (s.die d).joins i
def State.setJoin (s : State) (d i : Nat) (j : Join) : State :=
  s.modDie d fun x => { x with joins := if j = Join.rest then tdel x.joins i else tset x.joins i j }

/-- JOINERR: an imprecise record. -/
def State.joinErr (s : State) (g : Group) (k : Crew) : State :=
  s.report g.core (k.record 8 0 g.slot true g.pc 0)

/-- JOIN.ARM; 0xFFFF names no counter and is no JOINERR. -/
def State.joinArm (s : State) (g : Group) (k : Crew) (id n : Nat) : State :=
  if id = 0xFFFF then s
  else match joinOf id with
  | none => s.joinErr g k
  | some (d, i) =>
    if (s.joinAt d i).armed then s.joinErr g k
    else if n = 0 then s
    else s.setJoin d i { armed := true, count := n, held := [] }

/-- One arrival at an armed counter, holding `r`; at 0 the held records are enqueued in order. DESIGN CHOICE (log 33):
they enter the front end of the counter's die. -/
def State.joinDec (s : State) (d i : Nat) (r : List TaskRec) : State :=
  let j := s.joinAt d i
  let held := j.held ++ r
  if j.count = 1 then held.foldl (fun s t => s.enqueue d t) (s.setJoin d i Join.rest)
  else s.setJoin d i { j with count := j.count - 1, held := held }

/-- JOIN.DEC and JOIN.SELF; 0xFFFF names no counter. -/
def State.joinOne (s : State) (g : Group) (k : Crew) (id : Nat) : State :=
  if id = 0xFFFF then s
  else match joinOf id with
    | none => s.joinErr g k
    | some (d, i) => if (s.joinAt d i).armed then s.joinDec d i [] else s.joinErr g k

/-- A parked record: held on an armed counter, else enqueued at once. DESIGN CHOICE (log 33): at a counter at rest it
enters the front end of the counter's die; PARK.J of 0xFFFF enqueues it on the issuing die, with no JOINERR. -/
def State.parkOn (s : State) (g : Group) (k : Crew) (id : Option Nat) (r : TaskRec) : State :=
  let here := dieOf g.core
  match id with
  | none => s.enqueue here r
  | some n =>
    if n = 0xFFFF then s.enqueue here r
    else match joinOf n with
      | none => (s.joinErr g k).enqueue here r
      | some (d, i) => if (s.joinAt d i).armed then s.joinDec d i [r] else (s.joinErr g k).enqueue d r

/-! ## The instructions -/

/-- The low half of a register. -/
def Thread.low16 (t : Thread) (c : RegCode) : Nat := (t.reg c).toNat % 65536

/-- One record of SPAWN; whether it was accepted (R81). -/
def State.spawnOne (s : State) (g : Group) (k : Crew) (t : Thread) (o : SpawnOp) : State × Bool :=
  match s.launchOf k with
  | none => (s, false)
  | some l =>
    if l.population < l.record.spawnmax then
      let code := if o.cx then t.reg o.a else g.rel o.off.toInt
      let frame := (List.range 4).map fun i => t.read (o.f.toNat + i)
      let r := s.taskRec g.core k code frame (BitVec.ofNat 16 (t.low16 o.j)) o.in0 o.in1 o.oute o.v
      ((s.enqueue (dieOf g.core) r).modLaunch k.id.launch fun l =>
        { l with population := l.population + 1 }, true)
    else (s, false)

/-- SPAWN (R94). -/
def execSpawn (h : Hdr) (o : SpawnOp) (s : State) : Host.Outcome State Fault Refusal :=
  s.run (.spawn h o) h fun s g =>
    if o.cf then
      match s.leader? g h with
      | none => s.finishDone g h
      | some (k, t) =>
        let (s, ok) := s.spawnOne g k t o
        s.doneP g h o.p ok
    else
      let s := (s.actors g h).foldl (fun s (slot, l, t) =>
        match s.crew? g.core slot with
        | none => s
        | some k =>
          let (s, ok) := s.spawnOne g k t o
          s.modThread g.core slot l fun t => t.write (pKey o.p) (BitVec.ofNat 32 ok.toNat) 4) s
      s.finish g h

/-- JOIN (R95). -/
def execJoin (h : Hdr) (o : JoinOp) (s : State) : Host.Outcome State Fault Refusal :=
  s.run (.join h o) h fun s g =>
    let s := (s.actors g h).foldl (fun s (slot, _, t) =>
      match s.crew? g.core slot with
      | none => s
      | some k =>
        if o.arm then s.joinArm g k (t.low16 o.a) (t.low16 o.b)
        else s.joinOne g k (if o.self then t.jid.toNat else t.low16 o.a)) s
    s.finish g h

/-- PARK (R96): threads become records; the population stays. -/
def execPark (h : Hdr) (j : Bool) (a : RegCode) (s : State) : Host.Outcome State Fault Refusal :=
  s.run (.park h j a) h fun s g =>
    match s.crew? g.core g.slot with
    | none => s
    | some k =>
      let on := k.holding h g.mask
      let s := (s.actors g h).foldl (fun s (_, _, t) =>
        let frame := (List.range 4).map t.read
        let r := s.taskRec g.core k (g.pc + 8) frame t.jid 0 0 0 0
        s.parkOn g k (if j then some (t.low16 a) else none) r) s
      let s := s.finishPart g.core g.slot (g.mask &&& ~~~on) g.pc (fun _ => g.next) h.stall.toNat g.clsA
        false
      if on = 0 then s else s.exitLanes g.core g.slot on false

/-- The bytes of the record that LAUNCH reads at a coordinate of a window. -/
def State.recordBytes (s : State) (core ctx : Nat) (d : Desc) (c : List Nat) : List Byte :=
  let p := s.port core ctx d
  let m := s.memOf p s.globalMem
  let bs := (d.recordOffs c).map (p.byte m)
  bs ++ List.replicate (2048 - bs.length) 0

/-- The record that LAUNCH reads at a coordinate of a window, with its bytes; none for LQERR. DESIGN CHOICE (log 72): the
bytes past what the window reaches are 0. -/
def State.launchRead (s : State) (g : Group) (ctx n : Nat) (c : List Nat) : Option (List Byte) :=
  let d := ((s.core g.core).entry ctx n).desc
  if !d.isGlobal || !d.inBounds c || !s.reachable g.core ctx d then none
  else some (s.recordBytes g.core ctx d c)

/-- A record of a launch is appended to a queue, as a tail write does (R332). DESIGN CHOICE (log 72): a malformed record
is one that R337 refuses with cause RECORD, and a full queue is not stopped. -/
def State.appendLaunch (s : State) (err : Nat → State) (ctx qi launch : Nat) (dep : Bool) (by' : Nat × Nat × Nat)
    (bs : List Byte) : State :=
  let x := s.context ctx
  let q := x.queue qi
  let tail := (q.tail + 1) % 2 ^ 16
  if !(parseRecord (leNat bs)).fieldsOk x then err 0x0A
  else if q.passes tail then err 0x09
  else
    let s := s.putGlobal q.base (2048 * (q.tail % 2 ^ q.slog)) bs
    (s.modQueue ctx qi fun q =>
      { q with tail := tail, appended := some by'
               deps := if dep then q.deps ++ [(q.tail, launch)] else q.deps }).wakeQueue ctx qi

/-- One thread's LAUNCH: the record is appended to its queue, or a record goes to the coalescer; one that lies on a page
without a translation waits in the copy unit (R199). DESIGN CHOICE (log 72): registers past s191 read 0 as coordinates. -/
def State.launchOne (s : State) (g : Group) (k : Crew) (t : Thread) (o : LaunchOp) : State :=
  let ctx := k.id.ctx
  let qi := (t.reg o.q).toNat
  let err := fun (cause : Nat) => s.report g.core (k.record cause 0 g.slot true g.pc 0)
  if (s.context ctx).ccb.nq ≤ qi ∨ !((s.context ctx).queue qi).devfed then err 0x0A
  else
    let d := ((s.core g.core).entry ctx o.n.toNat).desc
    let c := t.coords o.c d.dims
    match s.launchRead g ctx o.n.toNat c with
    | none => err 0x0A
    | some bs =>
      let e : CopyEnd := ⟨g.core, o.n.toNat, d, c⟩
      let r := mkReq s.serial (.launch qi o.dep) k g.slot g.pc e e none 0 (s.coreCycle g.core)
      if (s.missing r).isSome then s.accept g.core r
      else s.appendLaunch err ctx qi k.id.launch o.dep (s.cycle, g.core, k.id.crewId.toNat) bs

/-- A LAUNCH of a later core or crew has appended to a queue in this cycle: the order is by core, then crew (R332). -/
def State.appendsLate (s : State) (g : Group) (k : Crew) (ts : List (Nat × Nat × Thread)) (o : LaunchOp) : Bool :=
  ts.any fun (_, _, t) => match ((s.context k.id.ctx).queue (t.reg o.q).toNat).appended with
    | some (cyc, c, id) => decide (cyc = s.cycle) && (decide (g.core < c) || (decide (g.core = c) && decide (k.id.crewId.toNat < id)))
    | none => false

/-- LAUNCH (R97). -/
def execLaunch (h : Hdr) (o : LaunchOp) (s : State) : Host.Outcome State Fault Refusal :=
  s.run (.launch h o) h fun s g =>
    match s.crew? g.core g.slot with
    | none => s
    | some k =>
      if s.appendsLate g k (s.actors g h) o then s.retryLater g
      else ((s.actors g h).foldl (fun s (_, _, t) => s.launchOne g k t o) s).finish g h

end Sys2Proof.Machine
end

