-- ==== Sys2Proof/Machine/Form.lean ====
section
/-! DEFINITION. Forming issue groups (R63, R64): the PC table, the fetch and checks of an instruction (R17,
R34, R36), and the group that issues it. -/

namespace Sys2Proof.Machine

/-! ## The PC table (R63) -/

/-- The crew's threads may be issued; those of one that is to be saved no later than in the cycle in which it was chosen
(R318, R319). -/
def Crew.runs (k : Crew) (now : Nat) : Bool :=
  decide (k.st = .run) && (k.evict.isNone || decide (k.evict = some now))

/-- READY for an instruction of some class (R28, R62). -/
def Thread.isReady (t : Thread) (now : Nat) : Bool :=
  decide (t.st = .ready) && !t.awaits && decide (min t.nextA t.nextB ≤ now)

/-- READY for an instruction of a class. -/
def Thread.readyFor (t : Thread) (clsA : Bool) (now : Nat) : Bool :=
  decide (t.st = .ready) && !t.awaits && decide ((if clsA then t.nextA else t.nextB) ≤ now)

/-- A thread that wants an entry: its key, whether it is promoted, and since when it has been READY. -/
structure PcWant where
  block : Nat
  pc : Word
  promoted : Bool
  since : Nat
  deriving DecidableEq

/-- The key of an entry. -/
def PcWant.of (w : PcWant) (e : PcEntry) : Bool := decide (w.block = e.block) && decide (w.pc = e.pc)

/-- The READY threads of a core. -/
def Core.wants (c : Core) (now : Nat) : List PcWant :=
  c.slots.flatMap fun (_, k) =>
    if k.runs now then k.threads.filterMap fun (_, t) =>
      if t.isReady now then some ⟨k.id.block, t.pc, t.promoted, t.since⟩ else none
    else []

/-- One waiting thread goes before another: promoted ones first, then the oldest. -/
def PcWant.before (a b : PcWant) : Bool :=
  (a.promoted && !b.promoted) || ((a.promoted == b.promoted) && decide (a.since ≤ b.since))

/-- The waiting thread that comes first. -/
def firstWant : List PcWant → Option PcWant
  | [] => none
  | w :: ws =>
    match firstWant ws with
    | none => some w
    | some v => if w.before v then some w else some v

/-- Free entries go to waiting keys. -/
def fillPc (now : Nat) : Nat → List PcWant → List PcEntry → List PcEntry
  | 0, _, es => es
  | n + 1, ws, es =>
    if Config.pcEntries ≤ es.length then es
    else match firstWant ws with
      | none => es
      | some w =>
        let e : PcEntry := ⟨w.block, w.pc, now⟩
        fillPc now n (ws.filter fun v => !v.of e) (es ++ [e])

/-- Entries with empty masks are released; free entries are given out. -/
def Core.tidyPc (c : Core) (now : Nat) : Core :=
  let ws := c.wants now
  let kept := c.pcTable.filter fun e => ws.any fun w => w.of e
  let left := ws.filter fun w => !kept.any w.of
  { c with pcTable := fillPc now Config.pcEntries left kept }

/-- A key has an entry. -/
def Core.hasEntry (c : Core) (block : Nat) (pc : Word) : Bool :=
  c.pcTable.any fun e => decide (e.block = block) && decide (e.pc = pc)

/-- The youngest entry that holds no promoted thread is released (R63). -/
def Core.dropYoungest (c : Core) (now : Nat) : Core :=
  let ws := c.wants now
  let es := c.pcTable.filter fun e => !ws.any fun w => w.of e && w.promoted
  match es.foldl (fun (b : Option PcEntry) e => match b with
      | none => some e
      | some x => if x.born ≤ e.born then some e else some x) none with
  | none => c
  | some e => { c with pcTable := c.pcTable.filter fun x => decide (x ≠ e) }

/-- A thread has been READY for 256 cycles without issuing. -/
def State.promotes (s : State) (r : SlotRef) (lane : Nat) : Bool :=
  match s.crew? r.core r.slot with
  | none => false
  | some k => k.runs (s.coreCycle r.core) && (match k.thread? lane with
    | some t => t.isReady (s.coreCycle r.core) && !t.promoted && decide (t.since + 256 ≤ s.coreCycle r.core)
    | none => false)

/-- THREAD_PROMOTION (R63). -/
def execThreadPromotion (r : SlotRef) (lane : Nat) (s : State) : Host.Outcome State Fault Refusal :=
  s.event (s.promotes r lane) fun s =>
    let now := s.coreCycle r.core
    let s := s.modThread r.core r.slot lane fun t => { t with promoted := true }
    s.modCore r.core fun c =>
      let c := c.tidyPc now
      match (c.crew? r.slot).bind fun k => (k.thread? lane).map fun t => (k.id.block, t.pc) with
      | none => c
      | some (b, pc) =>
        if c.hasEntry b pc || decide (c.pcTable.length < Config.pcEntries) then c
        else (c.dropYoungest now).tidyPc now

/-- LOOP_END (R73). -/
def execLoopEnd (r : SlotRef) (s : State) : Host.Outcome State Fault Refusal :=
  s.event (match s.crew? r.core r.slot with
      | some k => k.endedLevel.isSome
      | none => false) fun s =>
    let now := s.coreCycle r.core
    s.modCrew r.core r.slot fun k => (k.loopEnd now).tidyCtl

/-! ## The group (R64) -/

/-- A crew's READY threads at a PC. -/
def Crew.readyMask (k : Crew) (now : Nat) (pc : Word) (p : Thread → Bool) : Mask :=
  if k.runs now then k.lanesWhere fun t => decide (t.pc = pc) && p t else 0

/-- Crews of a block on a core with READY threads at a PC, oldest first. -/
def Core.crewsAt (c : Core) (now block : Nat) (pc : Word) (p : Thread → Bool) : List (Nat × Mask) :=
  let xs := c.slots.filterMap fun (slot, k) =>
    let m := k.readyMask now pc p
    if k.id.block = block ∧ m ≠ 0 then some (slot, m) else none
  xs.foldr (insertByAge fun slot => ((c.crew? slot).map (·.id.age)).getD 0) []

/-- Lanes that the group lacks are filled by younger crews, one thread a lane. -/
def fillLanes : Mask → List (Nat × Mask) → List (Nat × Mask)
  | _, [] => []
  | have', (slot, m) :: r =>
    let new := m &&& ~~~have'
    if new = 0 then fillLanes have' r else (slot, new) :: fillLanes (have' ||| new) r

/-- The crew's context runs privileged, and the group is not its handler (R27, R310). -/
def State.privAt (s : State) (k : Crew) (m : Mask) : Bool :=
  (s.context k.id.ctx).ccb.priv && !(k.trap.handling && decide (m &&& k.trap.hact ≠ 0))

/-- What an entry of the PC table gives: nothing now, a kill of crews with its cause and the address of
CERR, or an instruction and its group. -/
inductive Formed where
  | nothing
  | kill (slots : List Nat) (cause : Cause) (pc : Word)
  | run (i : Instr) (g : Group)

/-- Privilege of a part. -/
def State.privPart (s : State) (c : Nat) (p : Nat × Mask) : Bool :=
  match s.crew? c p.1 with
  | some k => s.privAt k p.2
  | none => false

/-- The parts of a group whose instruction is of a class (R64): the oldest crew's threads and, with `may`, the lanes
that others fill; a privileged instruction takes crews of one mode (log 43). None where the class has issued. -/
def State.partsFor (s : State) (c : Nat) (k : Crew) (pc : Word) (clsA may priv : Bool) : List (Nat × Mask) :=
  let core := s.core c
  let now := s.coreCycle c
  let xs := core.crewsAt now k.id.block pc fun t => t.readyFor clsA now
  let alike := fun p => !priv || (s.privPart c p == (xs.head?.map (s.privPart c)).getD false)
  if (if clsA then core.lastA else core.lastB) = some now then []
  else if k.id.regroup && may then fillLanes 0 (xs.filter alike) else xs.take 1

/-- A word that does not decode as a whole would be regrouped: its opcode and function are assigned, and the
operands of its layout name no s register (R36, log 43). -/
def wordRegroups (gs : List Granule) : Bool :=
  let g1 := gs.headD 0
  let g2 := gs.getD 1 4
  let g3 := gs.getD 2 4
  let g4 := gs.getD 3 4
  (opcLen (opcOf g1)).isSome && fnAssigned (opcOf g1) (fnOf g1)
    && match decFields g1 g2 g3 g4 with
      | some i => i.regroups (opcClassA (opcOf g1))
      | none => match rawCodes g1 g2 g3 g4 with
        | some cs => !cs.any RegCode.isS
        | none => false

/-- A word is of a privileged instruction (R27). -/
def privGroup (gs : List Granule) : Bool := privWord (gs.headD 0) (gs.getD 1 4)

/-- The group is killed (R36). -/
def State.killGroup (s : State) (c : Nat) (k : Crew) (pc : Word) (gs : List Granule) (cause : Cause) : Formed :=
  match s.partsFor c k pc (opcClassA (opcOf (gs.headD 0))) (wordRegroups gs) (privGroup gs) with
  | [] => .nothing
  | parts => .kill (parts.map Prod.fst) cause pc

/-- The group of an instruction that decodes. -/
def State.groupOf (s : State) (c : Nat) (k : Crew) (pc : Word) (gs : List Granule) (i : Instr) : Formed :=
  let g1 := gs.headD 0
  let clsA := opcClassA (opcOf g1)
  match s.partsFor c k pc clsA (i.regroups clsA) (privGroup gs) with
  | [] => .nothing
  | parts => match kindCheck k.id.vallot i with
    | some cause => .kill (parts.map Prod.fst) cause pc
    | none => .run i { core := c, parts := parts, pc := pc, len := 4 * (lenOf g1 + 1), clsA := clsA,
                       paid := false, chunk := none }

/-- The group of an entry of the PC table, named by one of its crews (R64). A word of which a granule cannot be read,
or that starts no instruction, is taken to be of one crew (log 43). -/
def State.form (s : State) (c slot : Nat) (pc : Word) : Formed :=
  match s.crew? c slot with
  | none => .nothing
  | some k =>
    let core := s.core c
    let now := s.coreCycle c
    let x := s.context k.id.ctx
    if !core.hasEntry k.id.block pc then .nothing
    else match x.fetch pc.toNat with
      | .error (.cross, _) => s.killGroup c k pc (x.wordsAt pc) .cross
      | .error (cause, at') =>
        match core.crewsAt now k.id.block pc fun t => t.isReady now with
        | [] => .nothing
        | (first, _) :: _ => .kill [first] cause (BitVec.ofNat 32 at')
      | .ok gs =>
        match core.crewsAt now k.id.block pc fun t => t.readyFor (opcClassA (opcOf (gs.headD 0))) now with
        | [] => .nothing
        | p :: _ =>
          match decode (s.privPart c p) gs with
          | .error cause => s.killGroup c k pc gs cause
          | .ok i => s.groupOf c k pc gs i

/-- The bytes of the first chunk that a group has paid (R176). -/
def DemandKind.firstChunk : DemandKind → Option Nat
  | .group _ _ _ ch => ch
  | _ => none

/-- The demand of a paid wide group of a crew at a PC. -/
def Core.paidGroup (c : Core) (slot : Nat) (pc : Word) : Option (Demand × List (Nat × Mask)) :=
  c.demands.findSome? fun d =>
    match d.kind with
    | .group _ parts p _ =>
      if d.paid ∧ p = pc ∧ parts.any (fun (x, _) => decide (x = slot)) then some (d, parts) else none
    | _ => none

/-- A wide group whose price has been met issues again (R66): its threads are those that it held. -/
def State.reform (s : State) (c : Nat) (pc : Word) (d : Demand) (parts : List (Nat × Mask)) :
    Formed × State :=
  let parts := parts.filterMap fun (slot, m) => match s.crew? c slot with
    | none => none
    | some k =>
      let m := maskFilter m fun l => match k.thread? l with
        | some t => decide (t.st = .held) && decide (t.pc = pc)
        | none => false
      if m = 0 then none else some (slot, m)
  let s := s.modCore c fun x => { x with demands := x.demands.filter fun e => decide (e ≠ d) }
  let s := parts.foldl (fun s (slot, m) =>
    s.modLanes c slot m fun _ t => { t with st := .ready }) s
  match parts with
  | [] => (.nothing, s)
  | (slot, m) :: _ =>
    match s.crew? c slot with
    | none => (.nothing, s)
    | some k =>
      match (s.context k.id.ctx).fetch pc.toNat with
      | .error _ => (.nothing, s)
      | .ok gs => match decode (s.privAt k m) gs with
        | .error _ => (.nothing, s)
        | .ok i => (.run i { core := c, parts := parts, pc := pc, len := 4 * gs.length,
                             clsA := opcClassA (opcOf (gs.headD 0)), paid := true, chunk := d.kind.firstChunk }, s)

/-- A replay has reached its end for a context: its threads issue no further (R323). -/
def State.replayOver (s : State) (ctx : Nat) : Bool :=
  match (s.context ctx).replaying with
  | none => false
  | some r => s.cores.any fun (_, c) => c.slots.any fun (_, k) =>
      decide (k.id.ctx = ctx) && decide (k.id.crewId = r.crew) && decide (r.target ≤ k.counts.retired)

/-- The turn of a group: what it forms, and the state in which it issues. -/
def State.turnOf (s : State) (c slot : Nat) (pc : Word) : Formed × State :=
  let s := s.modCore c fun k => k.tidyPc (s.coreCycle c)
  match s.crew? c slot with
  | none => (.nothing, s)
  | some k =>
    if s.replayOver k.id.ctx || (s.context k.id.ctx).holdsBack k then (.nothing, s)
    else match (s.core c).paidGroup slot pc with
      | some (d, parts) =>
        let clsA := match (s.context k.id.ctx).granule? pc.toNat with
          | some g => opcClassA (opcOf g)
          | none => true
        if (if clsA then (s.core c).lastA else (s.core c).lastB) = some (s.coreCycle c) then (.nothing, s)
        else s.reform c pc d parts
      | none => (s.form c slot pc, s)

/-- The kills of a group that does not execute (R34 to R36). -/
def State.killAll (s : State) (c : Nat) (slots : List Nat) (cause : Cause) (pc : Word) : State :=
  slots.foldl (fun s slot => s.killCrew c slot cause pc (0, 0)) s

end Sys2Proof.Machine
end

