-- ==== Sys2Proof/Machine/Save.lean ====
section
/-! DEFINITION. Pre-emption, time-slicing, saves and restores (R76, R317 to R320). -/

namespace Sys2Proof.Machine

/-! ## Room on a core (R58) -/

def Core.freeSlots (c : Core) : List Nat :=
  (List.range Config.slots).filter fun i => (c.crew? i).isNone

/-- Registers per lane that no crew holds; a HELD crew's are free (R78). -/
def Core.freeRegs (c : Core) : Nat :=
  Config.laneRegs - c.slots.foldl (fun n (_, k) => if k.st = .held then n else n + k.id.vallot) 0

/-- Further crews of an allotment that a core can hold. -/
def Core.roomFor (c : Core) (vallot : Nat) : Nat :=
  min c.freeSlots.length (c.freeRegs / max 1 vallot)

/-! ## The capture (R318, R33) -/

/-- The pending writes that can still be read: one goes where a later write of its register has a distance no larger
(R320). -/
def keepPend : List Pend → List Pend
  | [] => []
  | p :: ps =>
    if ps.any fun q => decide (q.key = p.key) && decide (q.left ≤ p.left) then keepPend ps else p :: keepPend ps

/-- A thread as the record keeps it: its times as distances. -/
def Thread.capture (now quad : Nat) (t : Thread) : Thread :=
  let st := match t.st with
    | .held => TState.ready
    | .parked (.wave q) => .parked (.wave (q - quad))
    | x => x
  { t with st := st, pend := keepPend t.pend, nextA := t.nextA - now, nextB := t.nextB - now, since := 0, promoted := false }

/-- A restored thread. -/
def Thread.resume (now quad : Nat) (t : Thread) : Thread :=
  let st := match t.st with
    | .parked (.wave q) => TState.parked (.wave (q + quad))
    | x => x
  { t with st := st, nextA := now + t.nextA, nextB := now + t.nextB, since := now + min t.nextA t.nextB }

/-- A crew as the record keeps it; a saved crew loses its claim (R168). -/
def Crew.capture (k : Crew) (now quad : Nat) : Crew :=
  let n : Counts := { k.counts with wdBase := now - k.counts.wdBase }
  { k.mapThreads (fun _ t => t.capture now quad) with
    counts := n, claim := none, hungry := false, kbTile := none, evict := none }

def Crew.resume (k : Crew) (now quad : Nat) : Crew :=
  let n : Counts := { k.counts with wdBase := now - k.counts.wdBase }
  { k.mapThreads (fun _ t => t.resume now quad) with counts := n }

/-! ## The record (R320) -/

/-- The pending writes of a saved crew, with their lanes. -/
def Saved.pends (v : Saved) : List (Nat × Pend) := v.crew.threads.flatMap fun (l, t) => t.pend.map fun p => (l, p)

/-- RLEN. -/
def Saved.size (v : Saved) : Nat := 0x0B40 + 256 * v.crew.id.vallot + 8 + 8 * v.pends.length

/-- Bytes of a section of the record whose layout is not given. -/
def openBytes (lo n : Nat) : List Byte := (List.range n).map fun i => Config.recordByte (lo + i)

/-- The eight bytes of THR of a lane: PC, state, JID, wait kind and broken mark; the codes of state and wait kind are not
given. -/
def Saved.thr (v : Saved) (l : Nat) : Nat :=
  let code := fun (i : Nat) => (Config.recordByte (0x0040 + 8 * l + i)).toNat % 16
  match v.crew.thread? l with
  | none => 2 ^ 32 * code 4
  | some t => t.pc.toNat + 2 ^ 32 * code 4 + 2 ^ 36 * t.jid.toNat + 2 ^ 52 * code 6 + 2 ^ 56 * t.broken.toNat

/-- A settled register of a lane. -/
def Saved.reg (v : Saved) (l k : Nat) : Word := ((v.crew.thread? l).map fun t => t.base k).getD 0

/-- p0 to p63 of a lane. -/
def Saved.preds (v : Saved) (l : Nat) : Nat :=
  (List.range 64).foldl (fun n i => n + if v.reg l (512 + i) = 0 then 0 else 2 ^ i) 0

/-- An entry of PEND. -/
def Saved.pendWord (l : Nat) (p : Pend) : Nat := l % 64 + 2 ^ 6 * (p.key % 512) + 2 ^ 15 * (p.left % 16) + 2 ^ 32 * p.val.toNat

/-- THE RECORD, section after section, little-endian. -/
def Saved.image (v : Saved) : List Byte :=
  leBytes v.version 2 ++ leBytes v.crew.id.vallot 2 ++ openBytes 4 60
    ++ (List.range 64).flatMap (fun l => leBytes (v.thr l) 8)
    ++ (List.range 64).flatMap (fun l => leBytes (v.preds l) 8)
    ++ (List.range 192).flatMap (fun i => leBytes (wget v.crew.sregs (256 + i)).toNat 4)
    ++ openBytes 0x0740 0x400
    ++ (List.range v.crew.id.vallot).flatMap (fun i => (List.range 64).flatMap fun l => leBytes (v.reg l i).toNat 4)
    ++ leBytes v.pends.length 8 ++ v.pends.flatMap fun (l, p) => leBytes (Saved.pendWord l p) 8

/-- Who rebuilds an entry, by slot, or by crew while that crew is saved. -/
def savedRebuilder (id : BitVec 16) : Nat := 16 + id.toNat

/-- The rebuilder of a context's entries changes its name. -/
def State.renameRebuilder (s : State) (c ctx old new : Nat) : State :=
  s.modCore c fun k => { k with layout := tmap k.layout fun key e =>
    if key / 256 = ctx ∧ e.rebuilder = some old then { e with rebuilder := some new } else e }

/-- A matrix request of a crew (R226). -/
def MatReq.ofCrew (r : MatReq) (c : Nat) (k : Crew) : Bool :=
  decide (r.core = c) && decide (r.ctx = k.id.ctx) && decide (r.crewId = k.id.crewId)

/-- The save of a crew: its record joins its context's save area and its slot is FREE. A paid group that
has not issued is dropped with the others; its debit is not refunded (R172). -/
def State.saveCrew (s : State) (c slot : Nat) : State :=
  match s.crew? c slot with
  | none => s
  | some k =>
    let q := quadOf c
    let now := s.coreCycle c
    let reqs := (s.quad q).table.filter fun r => r.ofCrew c k && !r.granted
    let kept := reqs.map fun r => { r with st := MatSt.wait, bTile := none, loadStart := none, skipped := [] }
    let v : Saved := ⟨c, k.capture now (s.quadCycle q), kept, s.device.firmware.version⟩
    let s := (s.dropMatrix c (fun r => r.ofCrew c k) .pend).dropDemands c slot
    let s := s.renameRebuilder c k.id.ctx slot (savedRebuilder k.id.crewId)
    let s := s.modContext k.id.ctx fun x => { x with saved := x.saved ++ [v] }
    let s := s.modBlock k.id.block fun b =>
      { b with crews := b.crews.filter (fun r => decide (r ≠ ⟨c, slot⟩)), saved := b.saved + 1 }
    (s.modCore c fun x => { x with slots := tdel x.slots slot }).tidyBank q k.id.ctx

/-- The slots whose crews an effect belongs to. -/
def LateOp.slots : LateOp → List Nat
  | .load _ _ _ ls => ls.map (·.1)
  | .store _ sl _ _ => sl
  | .atoms _ _ _ _ _ _ _ _ ls => ls.map (·.1)
  | .ltdat _ _ _ sl _ => [sl]
  | .source _ | .mark _ _ | .rerank _ _ | .free _ => []

/-- A late effect that belongs to an entry of a context. -/
def LateOp.ofCtx (o : LateOp) (ctx : Nat) : Bool :=
  match o with
  | .mark e _ | .rerank e _ | .free e | .ltdat e _ _ _ _ => decide (e / 256 = ctx)
  | .load _ _ _ _ | .store _ _ _ _ | .atoms _ _ _ _ _ _ _ _ _ | .source _ => false

/-- An instruction of the crew still has bank effects to complete, or an entry to place or to free (R318). -/
def State.bankBusy (s : State) (c slot : Nat) (k : Crew) : Bool :=
  decide (k.parkedWhere (fun _ w => match w with
    | .place _ _ _ _ | .freeing _ _ => true
    | _ => false) ≠ 0)
  || (s.core c).late.any fun (_, op) => op.slots.contains slot || op.ofCtx k.id.ctx || (match op with
    | .source n => (s.req? c n).any fun r => decide (r.ctx = k.id.ctx) && decide (r.crewId = k.id.crewId)
    | _ => false)

/-- The capture instant of a crew has come, and it is not HELD (R318, R319). -/
def State.maySave (s : State) (r : SlotRef) (k : Crew) : Bool :=
  k.evict.any (fun t => decide (t < s.coreCycle r.core)) && decide (k.st ≠ .held) && !s.bankBusy r.core r.slot k

/-- CREW_SAVE (R318, R319). -/
def execCrewSave (r : SlotRef) (s : State) : Host.Outcome State Fault Refusal :=
  s.event (match s.crew? r.core r.slot with
      | some k => s.maySave r k
      | none => false) fun s => s.saveCrew r.core r.slot

/-! ## The restore -/

/-- An operand of a request can no longer be used (R165). -/
def State.endClosed (s : State) (c slot : Nat) (k : Crew) (r : MatReq) : Bool :=
  r.ends.any fun e =>
    let x := (s.core c).entry r.ctx e.entry
    !e.desc.isGlobal && !(decide (x.desc.st = .live)
      || (decide (x.desc.st = .rebuild) && x.revived && !x.doomed && decide (x.rebuilder = some slot)
          && k.trap.handling))

/-- A request joins the table in its place. -/
def insertReq (r : MatReq) : List MatReq → List MatReq
  | [] => [r]
  | x :: xs => if x.serial ≤ r.serial then x :: insertReq r xs else r :: x :: xs

/-- CAPDROP for a matrix request, or its PRICE record alone (R177): it leaves the table. -/
def State.capDrop (s : State) (r : MatReq) : State :=
  (s.report r.core (r.record 6 0)).dropOne r .fault

/-- The nominal price of a request. -/
def State.matPrice (s : State) (r : MatReq) : Nat :=
  r.op.price (if r.op.port then (s.matImages r).length else 0)

/-- A saved request enters the table again (R226). -/
def State.reenter (s : State) (c slot : Nat) (k : Crew) (r : MatReq) : State :=
  let q := quadOf c
  let price := s.priceAt c (s.matPrice r)
  let st := if price = 0 then MatSt.earmarked (s.quadCycle q) else .wait
  let r := { r with slot := slot, price := price, st := st }
  let s := (s.modQuad q fun x => { x with table := insertReq r x.table }).bindBank q r.ctx
  if s.endClosed c slot k r then s.dropOne r .lost
  else if (s.core c).tok.tkcap < price then s.capDrop r
  else if price = 0 then s
  else s.demand c (.matrix slot r.serial) (s.matPrice r)

/-- A barrier's generation has opened, by the key that waits use (R266). -/
def State.barOpened (s : State) (key gen : Nat) : Bool :=
  let b := key / 2 % 16
  let bars := if key % 2 = 1 then (tget? s.launches (key / 32)).map (·.bars)
    else (tget? s.blocks (key / 32)).map (·.bars)
  match bars.bind fun t => tget? t b with
  | some x => decide (gen ≤ x.opened)
  | none => true

/-- A restored thread's wait has ended meanwhile (R146, R186, R264, R272). -/
def State.waitOver (s : State) (c ctx : Nat) (w : Wait) : Bool :=
  match w with
  | .barrier key gen => s.barOpened key gen
  | .wave _ => true
  | .full n => ((s.core c).entry ctx n).desc.full
  | .atomic n => (s.req? c n).isNone
  | _ => false

/-- A restored thread executes its instruction again: parked behind an entry that is no longer in REBUILD, or at a WAITF
on one whose cells have gone (R160, R162, R165); an ATOM that has not been performed (R273). -/
def State.mustRedo (s : State) (c ctx : Nat) (w : Wait) : Bool :=
  let st := fun (n : Nat) => ((s.core c).entry ctx n).desc.st
  match w with
  | .entry n _ => decide (st n ≠ .rebuild)
  | .full n => decide (st n ≠ .live ∧ st n ≠ .rebuild)
  | .atomic n => (s.req? c n).isSome
  | _ => false

/-- Its place among those that waited for the entry (R165). -/
def Wait.placeIn : Wait → Option Released
  | .entry n o => some ⟨n, o, false⟩
  | _ => none

/-- The ATOM requests for which threads of a crew are parked. -/
def Crew.atomReqs (k : Crew) : List Nat :=
  (k.threads.filterMap fun (_, t) => match t.st with
    | .parked (.atomic n) => some n
    | _ => none).eraseDups

/-- An ATOM that is to be executed again leaves the copy unit unperformed (R273). -/
def State.recallAtoms (s : State) (c : Nat) (k : Crew) : State :=
  k.atomReqs.foldl (fun s n => match s.req? c n with
    | some r => s.dropReq c r
    | none => s) s

/-- A saved crew goes into a slot of its core and resumes (R318); `age`: its age in the slot. -/
def State.restoreCrew (s : State) (ctx : Nat) (v : Saved) (slot age entered : Nat) : State :=
  let c := v.core
  let q := quadOf c
  let now := s.coreCycle c
  let k := v.crew.resume now (s.quadCycle q)
  let k := { k with id := { k.id with age := age, entered := entered } }
  let s := s.modContext ctx fun x =>
    { x with saved := x.saved.filter fun w => !(decide (w.core = c) && decide (w.crew.id.crewId = k.id.crewId)) }
  let s := s.modBlock k.id.block fun b => { b with crews := b.crews ++ [⟨c, slot⟩], saved := b.saved - 1 }
  let s := (s.modCore c fun x => { x with slots := tset x.slots slot k }).renameRebuilder c ctx
    (savedRebuilder k.id.crewId) slot
  let s := v.mreqs.foldl (fun s r => s.reenter c slot k r) s
  let s := s.modCrew c slot fun k => k.mapThreads fun _ t => match t.st with
    | .parked w => if s.mustRedo c ctx w then { t.goAt t.pc now with released := w.placeIn } else t
    | _ => t
  let s := s.recallAtoms c k
  let s := s.wakeWhere c slot (fun _ w => s.waitOver c ctx w) fun _ t => t
  (s.wakeCrew c slot).deliverPending c slot (k.trap.pending.length + 1)

/-- The firmware accepts records of its version and the one before (R339). -/
def Firmware.accepts (f : Firmware) (version : Nat) : Bool :=
  decide (version = f.version) || decide (version + 1 = f.version)

/-- A saved crew may go into a slot: of its core (R317), with room for its registers and requests; the
crews of a block that a time slice evicted wait for their block's turn (R76). -/
def State.canRestore (s : State) (ctx : Nat) (v : Saved) (slot : Nat) : Bool :=
  let c := s.core v.core
  c.freeSlots.contains slot && decide (1 ≤ c.roomFor v.crew.id.vallot)
    && decide (s.tableUse (quadOf v.core) + v.mreqs.length ≤ Config.matrixTable)
    && s.device.firmware.accepts v.version && !(s.context ctx).killed
    && (match tget? s.launches v.crew.id.launch, tget? s.blocks v.crew.id.block with
      | some l, some b => !l.waiting.contains b.index || decide (l.waiting.head? = some b.index)
      | _, _ => true)

/-- When its last crew is back, an evicted block no longer waits. -/
def State.blockBack (s : State) (block : Nat) : State :=
  match tget? s.blocks block with
  | none => s
  | some b =>
    if b.saved ≠ 0 then s
    else (s.modLaunch b.launch fun l => { l with waiting := l.waiting.filter fun i => decide (i ≠ b.index) }).modBlock
      block fun b => { b with placedAt := s.tick }

/-- CREW_RESTORE (R318). -/
def execCrewRestore (e : RestoreEv) (s : State) : Host.Outcome State Fault Refusal :=
  match (s.context e.ctx).saved[e.idx]? with
  | none => s.event false id
  | some v => s.event (s.canRestore e.ctx v e.slot) fun s =>
      let now := s.coreCycle v.core
      ((s.restoreCrew e.ctx v e.slot s.serial now).bump).blockBack v.crew.id.block

/-! ## Pre-emption and time slices (R76, R317) -/

/-- Crews of a core that may be chosen, youngest first; the slot of a HELD one is waited for (R319). -/
def State.victims (s : State) (c : Nat) : List (Nat × Crew) :=
  let xs := (s.core c).slots.filter fun (_, k) =>
    k.evict.isNone && !(s.context k.id.ctx).ccb.plock
  xs.foldr (fun x ys => (ys.takeWhile fun y => decide (x.2.id.age < y.2.id.age)) ++ x
    :: ys.dropWhile fun y => decide (x.2.id.age < y.2.id.age)) []

/-- The crews whose slots and registers meet a request. -/
def enough (slots regs : Nat) : List (Nat × Crew) → List Nat
  | [] => []
  | (i, k) :: r =>
    if slots = 0 ∧ regs = 0 then [] else i :: enough (slots - 1) (regs - k.id.vallot) r

/-- A chosen crew leaves admission; a HELD one is not saved (R318, R319). -/
def Crew.leave (k : Crew) (now : Nat) : Crew := if k.st = .held then k else { k with evict := some now }

/-- PREEMPTION (R317): the chosen crews leave admission. -/
def execPreemption (e : PreemptEv) (s : State) : Host.Outcome State Fault Refusal :=
  s.event (decide (e.core < Config.cores) && (tget? s.contexts e.ctx).isSome) fun s =>
    (enough e.slots e.regs (s.victims e.core)).foldl (fun s slot =>
      s.modCrew e.core slot fun k => k.leave (s.coreCycle e.core)) s

/-- QUANTUM in TICK (R330). -/
def Ccb.quantum (b : Ccb) : Nat := (b.quant + 1) * 500000

/-- A block has run a full quantum while blocks of its launch wait (R76). -/
def State.quantumOver (s : State) (block : Nat) : Bool :=
  match tget? s.blocks block with
  | none => false
  | some b =>
    match tget? s.launches b.launch with
    | none => false
    | some l => !b.spawned && decide (b.saved = 0) && !b.crews.isEmpty && !l.waiting.isEmpty
        && decide (b.placedAt + (s.context l.ctx).ccb.quantum ≤ s.tick)
        && b.crews.all (fun r => match s.crew? r.core r.slot with
          | some k => k.evict.isNone
          | none => false)
        && b.crews.any fun r => match s.crew? r.core r.slot with
          | some k => decide (k.st ≠ .held)
          | none => false

/-- TIME_SLICE_EVICTION (R76): the block waits behind those that are waiting. -/
def execTimeSliceEviction (block : Nat) (s : State) : Host.Outcome State Fault Refusal :=
  s.event (s.quantumOver block) fun s =>
    match tget? s.blocks block with
    | none => s
    | some b =>
      let s := b.crews.foldl (fun s r => s.modCrew r.core r.slot fun k => k.leave (s.coreCycle r.core)) s
      s.modLaunch b.launch fun l => { l with waiting := l.waiting ++ [b.index] }

end Sys2Proof.Machine
end

