-- ==== Sys2Proof/Machine/Replay.lean ====
section
/-! DEFINITION. Checkpoints and replay (R321 to R323), and killing a context (R61, R200, R224, R249). -/

namespace Sys2Proof.Machine

/-! ## What belongs to a context -/

/-- The crews of a context, with their cores and slots. -/
def State.crewsOf (s : State) (ctx : Nat) : List SlotRef :=
  s.cores.flatMap fun (c, k) => k.slots.filterMap fun (i, w) =>
    if w.id.ctx = ctx then some ⟨c, i⟩ else none

/-- A request that only waits for a publish. -/
def Req.queuedOnly (r : Req) : Bool :=
  r.deferred && r.publishing.isNone && r.parked.isNone && r.held.isEmpty && r.chunks.isEmpty

/-- A core has nothing of a context in flight (R321). -/
def Core.quiet (c : Core) (ctx : Nat) : Bool :=
  c.reqs.all (fun r => decide (r.ctx ≠ ctx) || r.queuedOnly)
    && !c.late.any (fun (_, o) => o.ofCtx ctx || c.slots.any fun (i, k) => decide (k.id.ctx = ctx) && o.slots.contains i)
    && (c.dooms.isEmpty || !c.layout.any fun (k, _) => decide (k / 256 = ctx))
    && !c.layout.any (fun (k, e) => decide (k / 256 = ctx) && (e.reserved || e.freeing))

/-- A quad has nothing of a context granted, and no bank of it on its way. -/
def Quad.quiet (q : Quad) (ctx : Nat) : Bool :=
  !q.table.any (fun r => decide (r.ctx = ctx) && r.granted)
    && !q.banks.any fun b => match b.use with
      | .spilling c | .filling c => decide (c = ctx)
      | _ => false

/-- A block's publish, or the publish of one of its barriers, is under way. -/
def Block.busy (b : Block) : Bool := b.publishing || b.bars.any fun (_, x) => x.publishing

/-- The quiescent point of a context. -/
def State.quiet (s : State) (ctx : Nat) : Bool :=
  s.cores.all (fun (_, c) => c.quiet ctx) && s.quads.all (fun (_, q) => q.quiet ctx)
    && s.launches.all (fun (_, l) => decide (l.ctx ≠ ctx) || !l.bars.any fun (_, x) => x.publishing)
    && s.blocks.all fun (_, b) => match tget? s.launches b.launch with
      | some l => decide (l.ctx ≠ ctx) || !b.busy
      | none => true

/-! ## The checkpoint (R321) -/

/-- An address of a core's cells lies in the cells of an entry. -/
def Entry.holds (e : Entry) (a : Nat) : Bool :=
  let d := e.desc
  let bank := a / 32 / 384
  let row := a / 32 % 384
  e.holdsCells && e.touches bank && decide (d.row0 ≤ row) && decide (row < d.row0 + d.nrows)

/-- The entries of a context on a core. -/
def Core.entriesOf (c : Core) (ctx : Nat) : Tab Entry := c.layout.filter fun (k, _) => decide (k / 256 = ctx)

/-- The cells of a list of entries. -/
def Core.cellsOf (c : Core) (es : Tab Entry) : Mem :=
  c.cells.filter fun (a, _) => es.any fun (_, e) => e.holds a

/-- The context's part of the machine, its crews being saved. -/
def State.snapshot (s : State) (ctx : Nat) : Ckpt :=
  let x := s.context ctx
  let ls := s.launches.filter fun (_, l) => decide (l.ctx = ctx)
  { taken := s.tick, crews := x.saved,
    layouts := s.cores.map fun (c, k) => (c, k.entriesOf ctx),
    cells := s.cores.map fun (c, k) => (c, k.cellsOf (k.entriesOf ctx)),
    tiles := s.quads.filterMap fun (q, k) =>
      if k.banks.any (fun b => b.use.names ctx) || (tget? x.savedTiles q).isSome
      then some (q, s.tilesOf q ctx) else none,
    reqs := s.cores.map fun (c, k) => (c, k.reqs.filter fun r => decide (r.ctx = ctx)),
    tickets := s.cores.map fun (c, k) => (c, k.tickets),
    queues := x.queues,
    blocks := s.blocks.filter fun (_, b) => ls.any fun (l, _) => decide (l = b.launch),
    launches := ls, joins := s.dies.map fun (d, k) => (d, k.joins),
    tasks := s.dies.map fun (d, k) => (d, k.tasks.filter fun t => decide (t.ctx = ctx)),
    log := [], journal := [], journalKeys := [] }

/-- The log and journal that have grown since the newest checkpoint go with it. -/
def Context.sealNewest (x : Context) : List Ckpt :=
  match x.ckpts with
  | [] => []
  | k :: ks => { k with log := x.log, journal := x.journal, journalKeys := x.journalKeys } :: ks

/-- The crews stop as at a save, the checkpoint is written, and they resume in their slots. -/
def State.takeCkpt (s : State) (ctx : Nat) : State :=
  let rs := s.crewsOf ctx
  let olds := rs.filterMap fun r => (s.crew? r.core r.slot).map fun k => (r, k.id, k.evict)
  let s := rs.foldl (fun s r => s.saveCrew r.core r.slot) s
  let snap := s.snapshot ctx
  let s := s.modContext ctx fun x =>
    { x with ckpts := snap :: x.sealNewest, log := [], journal := [], journalKeys := [], ckptAsked := false }
  olds.foldl (fun s (r, id, evict) =>
    match (s.context ctx).saved.find? fun v => decide (v.core = r.core) && decide (v.crew.id.crewId = id.crewId) with
    | some v => (s.restoreCrew ctx v r.slot id.age id.entered).modCrew r.core r.slot fun k => { k with evict := evict }
    | none => s) s

/-- A checkpoint is due: at its interval, when a program has asked, or as the first (R321, R327). -/
def State.ckptDue (s : State) (ctx : Nat) : Bool :=
  let x := s.context ctx
  x.ccb.replay && x.replaying.isNone && !x.killed
    && (x.ckptAsked || (match x.ckpts with
      | [] => true
      | k :: _ => decide (k.taken + 10000 * x.ccb.ckpti ≤ s.tick)))
    && s.quiet ctx

/-- CHECKPOINT (R321). -/
def execCheckpoint (ctx : Nat) (s : State) : Host.Outcome State Fault Refusal :=
  s.event ((tget? s.contexts ctx).isSome && s.ckptDue ctx) fun s => s.takeCkpt ctx

/-! ## Taking a context away -/

/-- Its requests leave a core's copy unit with FAULT; a migration leaves the old home (R200, R220). -/
def State.dropReqs (s : State) (c ctx : Nat) : State :=
  ((s.core c).reqs.filter fun r => decide (r.ctx = ctx)).foldl (fun s r =>
    let s := s.modCore c fun k =>
      { k with reqs := k.reqs.filter (fun q => decide (q.serial ≠ r.serial))
               demands := k.demands.filter fun d => !d.ofReq r.serial }
    let s := match r.kind with
      | .migr h t home frame => s.endMigr ctx h t home frame false
      | _ => s
    s.settleTicket c r.ticket .fault) s

/-- Its entries go FREE; one that is LOSING goes FREE at its dark instant (R162). -/
def Core.dropEntries (c : Core) (ctx : Nat) : Core :=
  { c with
    layout := c.layout.filterMap fun (k, e) =>
      if k / 256 ≠ ctx then some (k, e)
      else if e.desc.st = .losing ∨ e.doomed then some (k, { e with cleared := true, rebuilder := none })
      else none
    late := c.late.filter fun (_, o) => !o.ofCtx ctx }

/-- Its part of a core. -/
def State.dropOnCore (s : State) (ctx c : Nat) : State :=
  let slots := ((s.core c).slots.filter fun (_, k) => decide (k.id.ctx = ctx)).map Prod.fst
  let s := (s.dropReqs c ctx).dropMatrix c (fun r => decide (r.ctx = ctx)) .fault
  let s := slots.foldl (fun s i => s.dropDemands c i) s
  s.modCore c fun k => { k.dropEntries ctx with slots := k.slots.filter fun (_, w) => decide (w.id.ctx ≠ ctx) }

/-- Its part of a quad (R224, R249). -/
def State.dropOnQuad (s : State) (ctx q : Nat) : State :=
  let gone := (s.quad q).table.filter fun r => decide (r.ctx = ctx)
  let s := gone.foldl (fun s r => s.settleTicket r.core (some r.ticket) .fault) s
  (s.modQuad q fun k =>
    { k with table := k.table.filter (fun r => decide (r.ctx ≠ ctx))
             banks := k.banks.map (fun b => if b.use.names ctx then TileBank.reset else b)
             lastB := k.lastB.filter fun (key, _) => decide (key / 65536 ≠ ctx) }).bindWaiting q

/-- Its records on a die. -/
def Die.dropCtx (d : Die) (ctx tick : Nat) : Die :=
  let d := { d with tasks := d.tasks.filter (fun t => decide (t.ctx ≠ ctx))
                    joins := tmap d.joins fun _ j => { j with held := j.held.filter fun t => decide (t.ctx ≠ ctx) } }
  d.rebin tick Config.taskBins

/-- Everything that a context has on the cores, quads and dies is gone. -/
def State.dropContext (s : State) (ctx : Nat) : State :=
  let s := (s.cores.map Prod.fst).foldl (fun s c => s.dropOnCore ctx c) s
  let s := (s.quads.map Prod.fst).foldl (fun s q => s.dropOnQuad ctx q) s
  let s := { s with dies := tmap s.dies fun _ d => d.dropCtx ctx s.tick }
  { s with blocks := s.blocks.filter fun (_, b) => match tget? s.launches b.launch with
      | some l => decide (l.ctx ≠ ctx)
      | none => true }

/-- Every uncompleted record of a queue, taken in or not, completes with a status (R336, R339). -/
def State.failQueue (s : State) (ctx qi status : Nat) : State :=
  let q := (s.context ctx).queue qi
  let s := q.window.foldl (fun s r =>
    match r.launch with
    | none => s.putCompletion r.record status 0 0
    | some l => match tget? s.launches l with
      | none => s
      | some x =>
        if x.completed then s
        else
          let x := x.join status
          (s.putCompletion x.record x.status x.detail x.done).closeLaunch l { x with completed := true }) s
  let s := (List.range (q.ahead q.tail)).foldl (fun s i => s.putCompletion (s.recordAt q (q.head + i)) status 0 0) s
  s.modQueue ctx qi fun q => { q with window := [], head := q.tail, deps := [], skips := 0 }

/-- CONTEXT_KILL: its crews, resident and saved, its copy and engine state and its matrix banks are gone; its
launches complete KILLED. -/
def execContextKill (ctx : Nat) (s : State) : Host.Outcome State Fault Refusal :=
  s.event ((tget? s.contexts ctx).isSome && !(s.context ctx).killed) fun s =>
    let s := s.dropContext ctx
    let s := ((s.context ctx).queues.map Prod.fst).foldl (fun s q => s.failQueue ctx q 6) s
    let s := { s with launches := tmap s.launches fun _ l =>
      if l.ctx = ctx ∧ !l.completed then { l.join 6 with completed := true } else l }
    s.modContext ctx fun x =>
      { x with saved := [], savedTiles := [], ckpts := [], replaying := none, log := [], journal := [],
               journalKeys := [], ckptAsked := false, killed := true }

/-! ## Replay (R323) -/

/-- Global memory rolled back by a journal. -/
def rollback (m : Mem) (keys : List Nat) (old : Mem) : Mem :=
  keys.foldl (fun m a => Memory.write m a (Memory.read old a)) m

/-- The journals and the logs between checkpoint `j` and now, in the order in which they are undone and in
the order in which they happened. -/
def Context.since (x : Context) (j : Nat) : List (List Nat × Mem) × List LogItem :=
  let olds := (x.ckpts.drop 1).take j
  ((x.journalKeys, x.journal) :: olds.map fun k => (k.journalKeys, k.journal),
    (olds.reverse.flatMap fun k => k.log) ++ x.log)

/-- Bytes put back into cells. -/
def putCells (m bs : Mem) : Mem := bs.foldl (fun m (a, b) => Memory.write m a b) m

/-- The ticket of a slot after a checkpoint is put back: another context's stays while its operation goes on. -/
def Ticket.putBack (now old : Ticket) (ctx : Nat) : Ticket :=
  if old.ctx = ctx then old else if now.ctx = ctx then { Ticket.free with gen := now.gen } else now

/-- A core's part of a checkpoint is put back. -/
def Core.restoreCkpt (c : Core) (k : Ckpt) (ctx n : Nat) : Core :=
  let es := tget [] k.layouts n
  let c := { c with layout := es.foldl (fun l (i, e) => tset l i e) c.layout }
  let clear := c.cells.filter fun (a, _) => !es.any fun (_, e) => e.holds a
  { c with cells := putCells clear (tget [] k.cells n), reqs := c.reqs ++ tget [] k.reqs n,
           tickets := match tget? k.tickets n with
             | some t => (List.range 64).foldl (fun u i =>
                 tset u i ((c.ticket i).putBack (tget Ticket.free t i) ctx)) c.tickets
             | none => c.tickets }

/-- A checkpoint can be put back on a core: the banks of its entries are LIT and their rows free, no doom is in
progress, and no operation of another context holds a ticket slot of it. -/
def Core.takesCkpt (c : Core) (k : Ckpt) (ctx n : Nat) : Bool :=
  let es := tget [] k.layouts n
  let others := c.layout.filter fun (key, _) => decide (key / 256 ≠ ctx)
  ((tget [] k.tickets n).all fun (i, t) => decide (t.ctx ≠ ctx) || t.st.ended || decide (t.st = .free)
      || decide ((c.ticket i).ctx = ctx) || (c.ticket i).st.ended || decide ((c.ticket i).st = .free))
    && (es.isEmpty || c.dooms.isEmpty)
    && es.all fun (_, e) => !e.holdsCells || (List.range (2 ^ e.desc.banklog)).all fun i =>
      decide (c.bank (e.desc.bank0 + i) = .lit)
        && { c with layout := others }.rowsFree (e.desc.bank0 + i) e.desc.row0 e.desc.nrows

/-- The checkpoint from which a count of a crew is reached: the newest at which the crew had not passed it. -/
def Context.ckptFor (x : Context) (crew : BitVec 16) (target : Nat) : Option Nat :=
  x.ckpts.findIdx? fun k =>
    match k.crews.find? fun v => decide (v.crew.id.crewId = crew) with
    | some v => decide (v.crew.counts.retired ≤ target)
    | none => true

/-- The re-execution from a checkpoint begins: memory is rolled back and its crews are to be restored. -/
def State.replayFrom (s : State) (ctx j : Nat) (k : Ckpt) (crew : BitVec 16) (target : Nat) : State :=
  let x := s.context ctx
  let todo := (x.since j).2
  let s := s.dropContext ctx
  let undo := ((s.context ctx).since j).1
  let s := { s with globalMem := undo.foldl (fun m (ks, old) => rollback m ks old) s.globalMem,
                    cores := tmap s.cores fun n c => c.restoreCkpt k ctx n,
                    dies := tmap s.dies fun n d =>
                      { d with joins := tget d.joins k.joins n, tasks := d.tasks ++ tget [] k.tasks n },
                    blocks := k.blocks.foldl (fun t (i, b) => tset t i b) s.blocks,
                    launches := k.launches.foldl (fun t (i, l) => tset t i l) s.launches }
  let queues := tmap x.queues fun i q => match tget? k.queues i with
    | some o => { q with head := o.head, window := o.window, deps := o.deps, skips := o.skips }
    | none => q
  s.modContext ctx fun x =>
    { x with saved := k.crews, savedTiles := k.tiles, queues := queues,
             ckpts := { k with log := [], journal := [], journalKeys := [] } :: x.ckpts.drop (j + 1),
             log := [], journal := [], journalKeys := [],
             replaying := some { todo := todo, crew := crew, target := target, mismatch := none } }

/-- A replay of a context up to a retirement count of a crew, where a checkpoint before it can be put
back. -/
def State.replayTo (s : State) (ctx : Nat) (crew : BitVec 16) (target : Nat) : Option State :=
  let x := s.context ctx
  match x.ckptFor crew target with
  | none => none
  | some j => match x.ckpts[j]? with
    | none => none
    | some k =>
      if x.killed || !s.cores.all (fun (n, c) => c.takesCkpt k ctx n) then none
      else some (s.replayFrom ctx j k crew target)

/-- REPLAY (R323). -/
def execReplay (ctx : Nat) (crew : BitVec 16) (target : Nat) (s : State) :
    Host.Outcome State Fault Refusal :=
  .next ((s.replayTo ctx crew target).getD s)

/-- RSTEP (R323): to one retirement before the current one of the stopped crew. -/
def execRstep (ctx : Nat) (s : State) : Host.Outcome State Fault Refusal :=
  match s.device.session.attached, s.device.session.stops.head?.bind fun x => s.crew? x.ref.core x.ref.slot with
  | some a, some k =>
    if a = ctx ∧ k.id.ctx = ctx ∧ k.counts.retired ≠ 0 then
      .next ((s.replayTo ctx k.id.crewId (k.counts.retired - 1)).getD s)
    else .next s
  | _, _ => .next s

end Sys2Proof.Machine
end

