-- ==== Sys2Proof/Machine/Blocks.lean ====
section
/-! DEFINITION. Placement (R59, R258), prologue and start (R60, R221), spawned crews (R82, R83), release and
completion (R78, R79, R336), watchdog and SLEEPT (R77, R93). -/

namespace Sys2Proof.Machine

/-- The module runs work: started, and in ACTIVE (R341, R342). -/
def State.working (s : State) : Bool :=
  decide (s.device.start.stage = .ready) && decide (s.device.power.state = .active)

/-! ## Barriers in hardware (R55, R258) -/

/-- A block-scope barrier's physical level in a block: CORE or QUAD. -/
def barPhys (oneCore : Bool) (level : Nat) : Nat := if level = 0 then (if oneCore then 1 else 2) else level

/-- Barriers that a record's block needs at a physical level. -/
def LaunchRec.needs (r : LaunchRec) (level : Nat) : Nat :=
  ((r.barriers false 1).filter fun (_, b) => decide (barPhys r.oneCore b.level = level)).length

/-- Barriers in use at a physical level in the instance that holds a core. -/
def State.barsUsed (s : State) (core level : Nat) : Nat :=
  s.blocks.foldl (fun n (_, b) =>
    let here := if level = 1 then b.cores.contains core else b.cores.any fun c => decide (quadOf c = quadOf core)
    let one := decide (b.cores.length = 1)
    if here then n + (b.bars.filter fun (_, x) => decide (barPhys one x.level = level)).length else n) 0

/-- Launch-scope barriers of uncompleted launches at a level; for DIE, of those on a die. -/
def State.wideUsed (s : State) (level : Nat) (die : Option Nat) : Nat :=
  s.launches.foldl (fun n (_, l) =>
    if l.completed || (decide (level = 3) && decide (l.die ≠ die)) then n
    else n + (l.bars.filter fun (_, x) => decide (x.level = level)).length) 0

/-- The launch-scope barriers that a record needs are free (R258). -/
def State.wideFree (s : State) (r : LaunchRec) : Bool :=
  decide (s.wideUsed 4 none + r.barsAt 4 ≤ levelBars 4) && decide (s.wideUsed 5 none + r.barsAt 5 ≤ levelBars 5)
    && (decide (r.barsAt 3 = 0) || (List.range Config.dies).any fun d =>
      decide (s.wideUsed 3 (some d) + r.barsAt 3 ≤ levelBars 3))

/-! ## Placement (R59) -/

/-- Crews that each core of a quad takes, ascending. -/
def fillCores (room : Nat → Nat) : Nat → List Nat → List (Nat × Nat)
  | _, [] => []
  | n, c :: cs =>
    let k := min n (room c)
    if k = 0 then fillCores room n cs else (c, k) :: fillCores room (n - k) cs

/-- The cores that a record's block would use among those of a choice, with their crews; none where the
choice does not hold the block. -/
def State.shares (s : State) (r : LaunchRec) (cores : List Nat) : Option (List (Nat × Nat)) :=
  let room := fun c => (s.core c).roomFor r.vallot
  match cores with
  | [] => none
  | c :: _ =>
    if Config.cores ≤ c then none
    else if r.oneCore then
      if cores = [c] ∧ r.crews ≤ room c then some [(c, r.crews)] else none
    else
      let xs := fillCores room r.crews ((List.range 4).map (4 * quadOf c + ·))
      if xs.map Prod.fst = cores ∧ xs.foldl (fun n (_, k) => n + k) 0 = r.crews then some xs else none

/-- One launch-time entry is placed on a core (R130, R147, R148); none where it cannot be. -/
def Core.placeEntry (c : Core) (ctx block tick : Nat) (e : Nat × Bool × Nat) : Option Core :=
  let old := c.entry ctx e.1
  if old.desc.st ≠ .free ∨ old.reserved then none
  else
    let d := { Desc.ofNat e.2.2 with own := false, clampz := false, st := .live }
    let x := { Entry.free with desc := d, owner := .block block }
    if e.2.1 then some (c.setEntry ctx e.1 x)
    else
      let d := { d with nrows := d.needRows }
      match c.find d.banklog d.nrows d.rank 0 with
      | none => none
      | some (b0, row, _) =>
        let c := (c.setEntry ctx e.1 { x with desc := { d with bank0 := b0, row0 := row } }).light b0 d.banklog tick
        some { c with cells := zeroCells c.cells b0 d.banklog row d.nrows }

/-- Every launch-time entry. -/
def Core.placeEntries (c : Core) (ctx block tick : Nat) : List (Nat × Bool × Nat) → Option Core
  | [] => some c
  | e :: es => (c.placeEntry ctx block tick e).bind fun c => c.placeEntries ctx block tick es

/-- Crew numbers that exist in a context, and those that its queued requests still name (R101). -/
def State.idsInUse (s : State) (ctx : Nat) : List (BitVec 16) :=
  (s.cores.flatMap fun (_, c) =>
    (c.slots.filterMap fun (_, k) => if k.id.ctx = ctx then some k.id.crewId else none)
      ++ c.reqs.filterMap fun r => if r.ctx = ctx then some r.crewId else none)
  ++ (s.context ctx).saved.map fun v => v.crew.id.crewId

/-- A choice of crew numbers is free. -/
def State.idsFree (s : State) (ctx : Nat) (ids : List (BitVec 16)) : Bool :=
  decide (ids.eraseDups.length = ids.length) && ids.all fun i => !(s.idsInUse ctx).contains i

/-- The launch whose block is placed next: the earliest released one that has waiting blocks (R59). -/
def State.nextLaunch (s : State) : Option Nat :=
  (s.launches.find? fun (_, l) => !l.completed && !l.waiting.isEmpty && !(s.context l.ctx).killed).map Prod.fst

/-- A block is not one that a time slice evicted. -/
def State.isNew (s : State) (launch index : Nat) : Bool :=
  !s.blocks.any fun (_, b) => decide (b.launch = launch) && decide (b.index = index) && !b.spawned

/-- A die can take a launch with DIE barriers, or already has it. -/
def State.dieOk (s : State) (l : Launch) (die : Nat) : Bool :=
  decide (l.record.barsAt 3 = 0) || decide (l.die = some die)
    || (l.die.isNone && decide (s.wideUsed 3 (some die) + l.record.barsAt 3 ≤ levelBars 3))

/-- What placement checks; the crews of each core. -/
def State.placing (s : State) (e : PlaceEv) : Option (Launch × List (Nat × Nat)) :=
  match tget? s.launches e.launch with
  | none => none
  | some l =>
    let r := l.record
    let c := e.cores.headD 0
    if s.working && decide (s.nextLaunch = some e.launch) && decide (l.waiting.head? = some e.block)
      && s.isNew e.launch e.block && decide (e.crewIds.length = r.crews) && s.idsFree l.ctx e.crewIds
      && s.dieOk l (dieOf c)
      && decide (s.barsUsed c 1 + r.needs 1 ≤ levelBars 1) && decide (s.barsUsed c 2 + r.needs 2 ≤ levelBars 2)
      && e.cores.all (fun k => ((s.core k).placeEntries l.ctx 0 (s.coreTick k) r.entries).isSome)
    then (s.shares r e.cores).map fun xs => (l, xs) else none

/-- A placed crew goes into the lowest free slot of a core, in PROLOGUE (R61). -/
def State.addCrew (s : State) (c : Nat) (r : LaunchRec) (st : CrewSt) (id : CrewId) (threads : Tab Thread) :
    State :=
  let now := s.coreCycle c
  match (s.core c).freeSlots with
  | [] => s
  | slot :: _ =>
    let k := r.crew st { id with age := s.serial, entered := now } threads now
    let s := s.modCore c fun x => { x with slots := tset x.slots slot k }
    (s.modBlock id.block fun b => { b with crews := b.crews ++ [⟨c, slot⟩] }).bump

/-- A new block. -/
def Block.make (launch index : Nat) (xyz : List Nat) (spawned : Bool) (cores : List Nat) (left orbit stab tick : Nat)
    (bars : Tab Bar) : Block :=
  { launch := launch, index := index, xyz := xyz, spawned := spawned, cores := cores, crews := [], saved := 0,
    left := left, bars := bars, orbit := orbit, stab := stab, placedAt := tick, nextBind := 0, bound := [], started := false,
    publishing := false }

/-- The crews of a block on one core: the first has index `i`. -/
def State.addCrews (s : State) (l : Launch) (key launch : Nat) (ids : List (BitVec 16)) (c : Nat) : Nat → Nat → State
  | _, 0 => s
  | i, n + 1 =>
    let r := l.record
    let id : CrewId :=
      { ctx := l.ctx, launch := launch, block := key, index := i, crewId := ids.getD i 0, vallot := r.vallot,
        high := r.high, regroup := r.regroup, spawned := false, age := 0, entered := 0 }
    let s := s.addCrew c r .prologue id (r.threads ((s.context l.ctx).start r.code) (s.coreCycle c))
    s.addCrews l key launch ids c (i + 1) n

/-- The block is placed. -/
def State.placeBlock (s : State) (e : PlaceEv) (l : Launch) (xs : List (Nat × Nat)) : State :=
  let key := s.serial
  let r := l.record
  let xyz := xyzOfIndex r.grid e.block
  let b := Block.make e.launch e.block xyz false e.cores r.crews (l.orbitOf xyz) (l.stabOf xyz) s.tick
    (r.barriers false 1)
  let s := { s.bump with blocks := tset s.blocks key b }
  let s := s.modLaunch e.launch fun l =>
    { l with waiting := l.waiting.drop 1
             die := if r.barsAt 3 = 0 then l.die else some (dieOf (e.cores.headD 0)) }
  let s := e.cores.foldl (fun s c =>
    match (s.core c).placeEntries l.ctx key (s.coreTick c) r.entries with
    | some k => s.setCore c k
    | none => s) s
  (xs.foldl (fun (acc : State × Nat) (c, n) =>
    (acc.1.addCrews l key e.launch e.crewIds c acc.2 n, acc.2 + n)) (s, 0)).1

/-- nupdb's `run` prints where a block of its symmetric launch was placed (R360). -/
def State.showPlaced (s : State) (l : Launch) (e : PlaceEv) : State :=
  let v := s.device.session
  if !l.elems.isEmpty && decide (v.ran = l.queue.map fun q => (l.ctx, q)) then
    { s with device := { s.device with session := { v with out := v.out ++ [.list (e.block :: e.cores)] } } }
  else s

/-- BLOCK_PLACEMENT (R59). -/
def execBlockPlacement (e : PlaceEv) (s : State) : Host.Outcome State Fault Refusal :=
  match s.placing e with
  | none => s.event false id
  | some (l, xs) => s.event true fun s => (s.placeBlock e l xs).showPlaced l e

/-! ## Prologue and start (R60, R221) -/

/-- The bindings of a block's launch. -/
def State.bindsOf (s : State) (b : Block) : List Nat :=
  ((tget? s.launches b.launch).map (·.record.bind)).getD []

/-- Requests of the prologue engine for a block. -/
def State.binding? (s : State) (block : Nat) : Bool :=
  s.cores.any fun (_, c) => c.reqs.any fun r => decide (r.block = block) && match r.kind with
    | .binding _ _ => true
    | _ => false

/-- Every crew of a block is in PROLOGUE. -/
def State.inPrologue (s : State) (b : Block) : Bool :=
  !b.started && decide (b.saved = 0) && !b.spawned && !b.crews.isEmpty && b.crews.all fun r =>
    match s.crew? r.core r.slot with
    | some k => decide (k.st = .prologue) && k.evict.isNone
    | none => false

/-- The next binding may begin: the one before has ended. -/
def State.bindNext (s : State) (block : Nat) : Bool :=
  match tget? s.blocks block with
  | none => false
  | some b => s.inPrologue b && decide (b.nextBind < (s.bindsOf b).length) && !s.binding? block

/-- A binding's request on one core; where its destination is not LIVE it completes LOST at once. -/
def State.bindOn (s : State) (block w c : Nat) (b : Block) : State :=
  match b.crews.find? fun r => decide (r.core = c) with
  | none => s
  | some r =>
    match s.crew? c r.slot with
    | none => s
    | some k =>
      let ctx := k.id.ctx
      let dd := ((s.core c).entry ctx (bindDst w)).desc
      let sd := ((s.core c).entry ctx (bindSrc w)).desc
      if dd.st ≠ .live ∨ sd.st ≠ .live then s
      else s.accept c { mkReq s.serial (.binding (bindWord w) (bindScale w)) k r.slot 0
        (endOf c (bindSrc w) sd sd.origin) (endOf c (bindDst w) dd dd.origin) none 0 k.id.entered with
          block := block }

/-- PROLOGUE_BINDING (R221): one binding in record order, on every core of the block. -/
def execPrologueBinding (block : Nat) (s : State) : Host.Outcome State Fault Refusal :=
  s.event (s.bindNext block) fun s =>
    match tget? s.blocks block with
    | none => s
    | some b =>
      let w := (s.bindsOf b).getD b.nextBind 0
      let s := s.modBlock block fun b => { b with nextBind := b.nextBind + 1 }
      b.cores.foldl (fun s c => s.bindOn block w c b) s

/-- No bank of a block's entries on a core is WAKING. -/
def Core.entriesLit (c : Core) (block : Nat) : Bool :=
  c.layout.all fun (_, e) => decide (e.owner ≠ .block block) || e.desc.isGlobal
    || (List.range (2 ^ e.desc.banklog)).all fun i => !isWaking (c.bank (e.desc.bank0 + i))

/-- R60 holds. -/
def State.canStart (s : State) (block : Nat) : Bool :=
  match tget? s.blocks block with
  | none => false
  | some b => s.inPrologue b && decide ((s.bindsOf b).length ≤ b.nextBind) && !s.binding? block
      && b.cores.all fun c => (s.core c).entriesLit block

/-- Entries that a transform binding has filled are FULL at the start of the crews (R145). -/
def State.fillBound (s : State) (b : Block) : State :=
  b.crews.foldl (fun s r => match s.crew? r.core r.slot with
    | none => s
    | some k => b.bound.foldl (fun s (c, n) =>
        if c = r.core then s.modCore c fun x => x.modEntry k.id.ctx n fun e =>
          if e.desc.st = .live then { e with desc := { e.desc with full := true } } else e
        else s) s) s

/-- CREW_START (R60): all crews of the block become runnable in one cycle. -/
def execCrewStart (block : Nat) (s : State) : Host.Outcome State Fault Refusal :=
  s.event (s.canStart block) fun s =>
    match tget? s.blocks block with
    | none => s
    | some b =>
      let s := (s.modBlock block fun b => { b with started := true }).fillBound b
      b.crews.foldl (fun s r =>
        let now := s.coreCycle r.core
        s.modCrew r.core r.slot fun k =>
          { k.mapThreads (fun _ t => { t with nextA := now, nextB := now, since := now }) with
            st := .run }) s

/-! ## Spawned crews (R82, R83) -/

/-- A valid entry of a record meets a condition on the record's home core. -/
def State.taskEntry (s : State) (core ctx : Nat) (n : BitVec 8) (full : Bool) : Bool :=
  let d := ((s.core core).entry ctx n.toNat).desc
  decide (d.st = .live) && decide (d.full = full)

/-- A record is eligible (R82). -/
def State.eligible (s : State) (die : Nat) (r : TaskRec) : Bool :=
  let core := 64 * die + r.hcore
  (!r.v.getLsbD 0 || s.taskEntry core r.ctx r.in0 true) && (!r.v.getLsbD 1 || s.taskEntry core r.ctx r.in1 true)
    && (!r.v.getLsbD 2 || s.taskEntry core r.ctx r.oute false)

/-- The eligible records of a bin, oldest first. -/
def State.inBin (s : State) (die bin : Nat) : List TaskRec :=
  let d := s.die die
  match d.bins[bin]? with
  | none => []
  | some key => d.tasks.filter fun r => decide (r.key = key) && r.binned.isSome && s.eligible die r

/-- The core of a formed crew has room (R82). -/
def State.taskRoom (s : State) (e : TaskEv) (r : TaskRec) : Bool :=
  match tget? s.launches r.launch with
  | none => false
  | some l => s.working && decide (dieOf e.core = e.die) && (r.hany || decide (e.core % 64 = r.hcore))
      && decide (1 ≤ (s.core e.core).roomFor l.record.vallot) && s.idsFree r.ctx [e.crewId]

/-- A thread of a spawned crew (R83). -/
def State.taskThread (s : State) (l : Launch) (r : TaskRec) (now : Nat) : Thread :=
  let pc := (s.context r.ctx).start (r.code &&& 0xFFFFFFFC)
  Thread.start pc ((r.frame.zipIdx).map fun (v, i) => (i, v)) l.record.params r.jid now

/-- A crew is formed from records: record k becomes the thread of lane k. -/
def State.formCrew (s : State) (e : TaskEv) (rs : List TaskRec) : State :=
  match rs.head?.bind fun r => (tget? s.launches r.launch).map fun l => (r, l) with
  | none => s
  | some (r, l) =>
    let key := s.serial
    let all1 := 0xFFFFFFFF
    let b := { Block.make r.launch all1 [all1, all1, all1] true [e.core] 1 1 1 s.tick [] with started := true }
    let s := { s.bump with blocks := tset s.blocks key b }
    let s := s.modLaunch r.launch fun l => { l with spawned := l.spawned + 1 }
    let s := s.modDie e.die fun d =>
      { d with tasks := rs.foldl List.erase d.tasks }.rebin s.tick Config.taskBins
    let now := s.coreCycle e.core
    let id : CrewId :=
      { ctx := r.ctx, launch := r.launch, block := key, index := 0, crewId := e.crewId, vallot := l.record.vallot,
        high := l.record.high, regroup := l.record.regroup, spawned := true, age := 0, entered := 0 }
    s.addCrew e.core l.record .run id ((rs.zipIdx).map fun (t, i) => (i, s.taskThread l t now))

/-- TASK_CREW_FORM (R82): a bin holds 64 eligible records. -/
def execTaskCrewForm (e : TaskEv) (s : State) : Host.Outcome State Fault Refusal :=
  let rs := s.inBin e.die e.bin
  s.event (decide (Config.lanes ≤ rs.length) && rs.head?.any (s.taskRoom e)) fun s =>
    s.formCrew e (rs.take Config.lanes)

/-- TASK_BIN_TIMEOUT (R82): the oldest eligible record has waited 2,000 of TICK in its bin. -/
def execTaskBinTimeout (e : TaskEv) (s : State) : Host.Outcome State Fault Refusal :=
  let rs := s.inBin e.die e.bin
  s.event (rs.head?.any fun r => s.taskRoom e r && match r.binned with
      | some t => decide (t + 2000 ≤ s.tick)
      | none => false) fun s =>
    s.formCrew e (rs.take Config.lanes)

/-! ## Release and completion (R78, R79) -/

/-- Engine operations of a crew that have not landed; its queued deferred requests stay (R35). -/
def State.engineBusy (s : State) (c slot : Nat) (k : Crew) : Bool :=
  (s.core c).reqs.any (fun r => decide (r.ctx = k.id.ctx) && decide (r.crewId = k.id.crewId)
      && !(r.deferred && r.publishing.isNone))
    || (s.quad (quadOf c)).table.any (fun r => r.ofCrew c k)
    || (s.core c).late.any fun (_, o) => o.ofCtx k.id.ctx || o.slots.contains slot

/-- A HELD crew with nothing in flight. -/
def State.heldIdle (s : State) (r : SlotRef) : Bool :=
  match s.crew? r.core r.slot with
  | some k => decide (k.st = .held) && !s.engineBusy r.core r.slot k
  | none => false

/-- The tiles a crew has reserved are free (R225). -/
def State.freeTiles (s : State) (c ctx : Nat) (id : BitVec 16) : State :=
  let q := quadOf c
  if (s.tilesOf q ctx).tiles.any (fun (_, t) => decide (t.owner = some (c, id))) then
    let go := fun (t : Tile) => if t.owner = some (c, id) then { t with owner := none } else t
    s.modTiles q ctx fun b => { b with tiles := tmap b.tiles fun _ t => go t }
  else s

/-- The crew of a slot goes: coalescer records that name it will read RETIRED (R314), and nupdb keeps its token
count. -/
def State.noteGone (s : State) (r : SlotRef) (k : Crew) : State :=
  let mark := fun (x : FaultRec) =>
    if x.ctx = k.id.ctx ∧ x.crewId = k.id.crewId then { x with gone := true } else x
  let s := s.modCore r.core fun c => { c with openRecs := c.openRecs.map mark, waiting := c.waiting.map mark }
  let v := s.device.session
  if v.speaks = some (r, k.id.age) then
    { s with device := { s.device with session := { v with spent := k.counts.cntr.getD 5 0 } } }
  else s

/-- The slot of a crew becomes FREE. -/
def State.freeSlot (s : State) (r : SlotRef) : State :=
  match s.crew? r.core r.slot with
  | none => s
  | some k =>
    let s := s.noteGone r k
    let s := s.freeTiles r.core k.id.ctx k.id.crewId
    let s := s.modCore r.core fun c => { c with slots := tdel c.slots r.slot }
    let s := s.modBlock k.id.block fun b =>
      { b with crews := b.crews.filter (fun x => decide (x ≠ r)), left := b.left - 1 }
    s.tidyBank (quadOf r.core) k.id.ctx

/-- CREW_RELEASE (R78): a crew that is not the last of its block. -/
def execCrewRelease (r : SlotRef) (s : State) : Host.Outcome State Fault Refusal :=
  s.event (s.heldIdle r && match (s.crew? r.core r.slot).bind fun k => tget? s.blocks k.id.block with
      | some b => decide (1 < b.left)
      | none => false) fun s => s.freeSlot r

/-- The key under which a block publishes. -/
def blockKey (block : Nat) : Nat := 2 * block + 1

/-- Deferred requests of a block have not landed, whichever publish has taken them. -/
def State.blockWrites (s : State) (block : Nat) : Bool :=
  s.cores.any fun (_, c) => c.reqs.any fun r => decide (r.block = block) && r.deferred

/-- The last crew of a block has come to the last step of R78, and what it publishes has landed (R79). -/
def State.blockOver (s : State) (block : Nat) : Bool :=
  match tget? s.blocks block with
  | none => false
  | some b => decide (b.left = 1) && decide (b.saved = 0) && decide (b.crews.length = 1)
      && b.crews.all s.heldIdle
      && !(b.publishing && s.blockWrites block)

/-- The owner of entries ends on a core (R130, R162). -/
def Core.dropOwner (c : Core) (o : Owner) : Core :=
  { c with layout := c.layout.filterMap fun (k, e) =>
      if e.owner ≠ o then some (k, e)
      else if e.desc.st = .losing ∨ e.doomed then some (k, { e with cleared := true })
      else none }

/-- Deferred requests of a block begin to publish (R214). -/
def State.publishBlock (s : State) (block : Nat) : State :=
  { s with cores := tmap s.cores fun _ c =>
      { c with reqs := c.reqs.map fun r =>
          if r.block = block ∧ r.deferred ∧ r.publishing.isNone then
            { r with publishing := some (blockKey block), tagged := s.serial }
          else r } }

/-- What a block published has landed: the order log keeps it (R322). -/
def State.logPublish (s : State) (block : Nat) (b : Block) : State :=
  match tget? s.launches b.launch with
  | some l => if b.publishing then s.logItem l.ctx 7 0 0 [blockKey block] else s
  | none => s

/-- The block is complete: entries, barriers and slots are freed and its launch counts it (R79). -/
def State.endBlock (s : State) (block : Nat) (b : Block) : State :=
  let s := b.cores.foldl (fun s c => s.modCore c fun k => k.dropOwner (.block block)) s
  let s := b.crews.foldl (fun s r => s.freeSlot r) s
  let s := { s with blocks := tdel s.blocks block }
  s.modLaunch b.launch fun l =>
    if b.spawned then { l with spawned := l.spawned - 1 }
    else { l with done := l.done + 1, waiting := l.waiting.filter fun i => decide (i ≠ b.index) }

/-- BLOCK_COMPLETE (R79): its deferred writes publish, then the rest. -/
def execBlockComplete (block : Nat) (s : State) : Host.Outcome State Fault Refusal :=
  s.event (s.blockOver block) fun s =>
    match tget? s.blocks block with
    | none => s
    | some b =>
      if !b.publishing && s.blockWrites block then
        (s.publishBlock block).modBlock block fun b => { b with publishing := true }
      else (s.logPublish block b).endBlock block b

/-- The launch has nothing left to do (R79), or it is refused. -/
def Launch.isOver (l : Launch) : Bool :=
  !l.completed && (decide (l.status = 3) || (decide (l.done = l.total) && decide (l.spawned = 0)
    && decide (l.population = 0)))

/-- LAUNCH_COMPLETE (R336): the entries that the launch owns are freed and its record is written. -/
def execLaunchComplete (launch : Nat) (s : State) : Host.Outcome State Fault Refusal :=
  s.event ((tget? s.launches launch).any Launch.isOver) fun s =>
    let s := { s with cores := tmap s.cores fun _ c => c.dropOwner (.launch launch) }
    s.finishLaunch launch

/-! ## Watchdog and SLEEPT (R77, R93) -/

/-- The cycles of a crew do not count: its threads sleep or are parked in WAITCAP with a deadline. -/
def Crew.wdStops (k : Crew) : Bool :=
  k.threads.all fun (_, t) => match t.st with
    | .retired | .sleeping _ | .parked (.cap _ _ _ (some _)) => true
    | _ => false

/-- The counter of a crew, in PROLOGUE or running, has reached its threshold; a HELD crew has nothing left to retire
(log 41). -/
def State.wdDue (s : State) (r : SlotRef) : Bool :=
  match s.crew? r.core r.slot with
  | some k => decide (k.st ≠ .held)
      && decide (k.counts.wdBase + 2 ^ (s.context k.id.ctx).ccb.wdlog ≤ s.coreCycle r.core)
  | none => false

/-- WATCHDOG (R77). -/
def execWatchdog (r : SlotRef) (s : State) : Host.Outcome State Fault Refusal :=
  s.event (s.wdDue r) fun s =>
    match s.crew? r.core r.slot with
    | none => s
    | some k =>
      let pc := ((k.thread? (lowLane k.live)).map (·.pc)).getD 0
      (s.report r.core (k.record 5 0 r.slot false pc 0)).modCrew r.core r.slot fun k =>
        { k with counts := { k.counts with wdBase := s.coreCycle r.core } }

/-- Threads whose SLEEPT deadline TICK has reached. -/
def State.sleepers (s : State) (r : SlotRef) : Mask :=
  match s.crew? r.core r.slot with
  | some k => k.lanesWhere fun t => match t.st with
      | .sleeping d => decide (d ≤ s.coreTick r.core)
      | _ => false
  | none => 0

/-- SLEEP_WAKE (R93). -/
def execSleepWake (r : SlotRef) (s : State) : Host.Outcome State Fault Refusal :=
  s.event (decide (s.sleepers r ≠ 0)) fun s => s.wakeAll r.core r.slot (s.sleepers r) (fun _ t => t) 64

end Sys2Proof.Machine
end

