-- ==== Sys2Proof/Machine/CopyEv.lean ====
section
/-! DEFINITION. Events of the copy units: starting, landing, chunks, pages, resets, publishes, atomics and
migrations (R176, R199, R200, R205 to R221, R263, R272). -/

namespace Sys2Proof.Machine

/-! ## Starting and landing (R205, R207, R209) -/

/-- A request that waits in the queue to be started by the unit itself; a QSCR write of a lane once its source has been
read (R203). -/
def Req.startable (r : Req) : Bool :=
  match r.kind with
  | .thread _ _ _ => !r.started && (!r.dst.desc.isGlobal || !r.held.isEmpty)
  | .bulk _ | .migr _ _ _ _ | .binding _ _ | .launch _ _ => !r.started
  | _ => false

/-- The request goes on: it is not parked, its pages are there, it is not to be cancelled, and the thread accesses before
it are done. -/
def State.mayMove (s : State) (r : Req) : Bool :=
  s.clocked && r.parked.isNone && (s.missing r).isNone && !s.heldByMove r && !s.lateReader r.serial && s.banksReady r

/-- A request that the debugger held waits for those accepted before it (R357). -/
def Core.inOrder (c : Core) (r : Req) : Bool :=
  !r.inTurn || !(c.reqs.takeWhile fun q => decide (q.serial ≠ r.serial)).any fun q =>
    q.inTurn && q.startable && q.parked.isNone

/-- A replay imposes the order in which operations end (R322, R323). -/
def State.mayEnd (s : State) (r : Req) : Bool := (s.context r.ctx).allows 3 r.crewId

/-- The unit may start a request. -/
def State.mayStart (s : State) (c : Nat) (r : Req) : Bool :=
  r.startable && !(s.core c).holdCopy && (s.core c).inOrder r && s.mayMove r

/-- An entry of another core that a request reads may still be read: it is LIVE, or the request was accepted
before its doom (R160). -/
def State.canRead (s : State) (c : Nat) (r : Req) (d : Desc) : Bool :=
  s.reachable c r.ctx d
    || (let (k, t) := s.behind c r.ctx d
        decide (t.st = .losing) && (s.core k).dooms.any fun m => m.readers.contains r.serial)

/-- The far ends of a request can be used. -/
def State.endsOpen (s : State) (c : Nat) (r : Req) : Bool :=
  s.canRead c r r.src.desc && s.reachable c r.ctx r.dst.desc

/-- The bytes of an end come from the host, from another module, or from an allocation that another context has too. -/
def State.inbound (s : State) (ctx : Nat) (d : Desc) : Bool :=
  d.isGlobal && (decide (d.space = 4 ∨ d.space = 5) || (decide (2 ≤ d.space) && s.contexts.any fun (i, x) =>
    decide (i ≠ ctx) && x.allocs.any fun a => decide (a.handle = d.handle)))

/-- What a request reads; the order log keeps inbound bytes, and a replay imposes them (R322, R323). -/
def State.readLog (s : State) (c : Nat) (r : Req) (view : Mem) (u : Nat) : State × List Nat :=
  let vals := s.readUnit c r view u
  if s.inbound r.ctx r.src.desc then
    let vals := (s.context r.ctx).inboundVals r.crewId vals
    (s.logItem r.ctx 8 r.crewId (s.retiredOf c r.ctx r.crewId) vals, vals)
  else (s, vals)

/-- A request with what it has read. -/
def State.readInto (s : State) (c : Nat) (r : Req) (u : Nat) : State :=
  let (s, vals) := s.readLog c r (s.viewOf c r) u
  s.modReq c r.serial fun q => { q with held := tset q.held u vals }

/-- COPY_START (R207): a request of one lane reads its bytes. -/
def execCopyStart (e : ReqRef) (s : State) : Host.Outcome State Fault Refusal :=
  match s.req? e.core e.req with
  | none => s.event false id
  | some r => s.event (s.mayStart e.core r) fun s =>
      if !s.endsOpen e.core r then s.endReq e.core r .lost
      else
        let s := s.modReq e.core r.serial fun q => { q with started := true }
        let s := match r.ticket with
          | some i => s.modCore e.core fun k => k.modTicket i fun t => { t with st := .run }
          | none => s
        if r.isThread && r.held.isEmpty then s.readInto e.core r 0 else s

/-- A unit lands and is counted (R212). -/
def State.landAndCount (s : State) (c : Nat) (r : Req) (u : Nat) : State :=
  let s := s.landUnit c r u (tget [] r.held u)
  (s.modReq c r.serial fun q => { q with chunks := q.chunks ++ [u] }).landed c r 1

/-- A LAUNCH that waited for a page. -/
def Req.isLaunch (r : Req) : Bool :=
  match r.kind with
  | .launch _ _ => true
  | _ => false

/-- A request lands in one act. -/
def Req.landsWhole (r : Req) : Bool := (r.isThread && !r.deferred) || r.isLaunch

/-- The record of a LAUNCH that waited for a page is read and appended (R97). -/
def State.endLaunch (s : State) (c : Nat) (r : Req) : State :=
  let s := s.dropReq c r
  match r.kind with
  | .launch qi dep =>
    s.appendLaunch (fun cause => s.report c (r.record cause 0)) r.ctx qi r.launch dep (s.cycle, c, r.crewId.toNat)
      (s.recordBytes c r.ctx r.src.desc r.src.coord)
  | _ => s

/-- COPY_LANDING (R205): a request under a tag lands whole. -/
def execCopyLanding (e : ReqRef) (s : State) : Host.Outcome State Fault Refusal :=
  match s.req? e.core e.req with
  | none => s.event false id
  | some r => s.event (r.landsWhole && r.started && s.mayMove r && s.mayEnd r) fun s =>
      if r.isLaunch then s.endLaunch e.core r
      else if !s.reachable e.core r.ctx r.dst.desc then s.endReq e.core r .lost
      else (s.landAndCount e.core r 0).endReq e.core r .done

/-- A bulk request moves its units one after another, in any order. -/
def Req.bulkMoves (r : Req) : Bool :=
  r.started && match r.kind with
    | .bulk _ | .binding _ _ | .migr _ _ _ _ => true
    | _ => false

/-- A migration's unit has no cells to move: its bytes keep their handle. -/
def Req.isMigr (r : Req) : Bool :=
  match r.kind with
  | .migr _ _ _ _ => true
  | _ => false

/-- COPY_CHUNK (R176): the chunk that holds a unit is demanded; once it is paid, the unit is read, and then it
lands. -/
def execCopyChunk (e : ReqRef) (u : Nat) (s : State) : Host.Outcome State Fault Refusal :=
  match s.req? e.core e.req with
  | none => s.event false id
  | some r => s.event (r.bulkMoves && decide (u < r.units) && !r.chunks.contains u && s.mayMove r) fun s =>
      if !r.isPaid u then s.demandChunk e.core r
      else if r.isMigr then
        (s.modReq e.core r.serial fun q => { q with chunks := q.chunks ++ [u] }).landed e.core r 1
      else if !s.endsOpen e.core r then s.endReq e.core r .lost
      else if (tget? r.held u).isNone then s.readInto e.core r u
      else (s.landAndCount e.core r u).modReq e.core r.serial fun q => { q with held := tdel q.held u }

/-- Every unit has landed. -/
def Req.allLanded (r : Req) : Bool := decide (r.units ≤ r.chunks.length)

/-- BULK_COPY_COMPLETE (R209). -/
def execBulkCopyComplete (e : ReqRef) (s : State) : Host.Outcome State Fault Refusal :=
  match s.req? e.core e.req with
  | none => s.event false id
  | some r => s.event (r.bulkMoves && !r.isMigr && r.allLanded && s.mayEnd r) fun s => s.endReq e.core r .done

/-- MIGR_COMMIT (R219): one write of the map entry with COMMIT; the ticket is DONE. -/
def execMigrCommit (e : ReqRef) (s : State) : Host.Outcome State Fault Refusal :=
  match s.req? e.core e.req with
  | none => s.event false id
  | some r => s.event (r.bulkMoves && r.isMigr && r.allLanded && s.mayEnd r) fun s => s.endReq e.core r .done

/-! ## Pages (R199) -/

/-- The page of a global address as a record holds it. -/
def pageAddr (h : BitVec 64) (page : Nat) : Nat := (h.toNat * 2 ^ 32 + page) % 2 ^ 64

/-- A request of the copy unit has come to the page it lacks: a deferred one only at its publish. -/
def Req.reached (r : Req) : Bool := !r.deferred || r.publishing.isSome

/-- A matrix request of a core. -/
def State.mat? (s : State) (core serial : Nat) : Option MatReq :=
  (s.quad (quadOf core)).table.find? fun r => decide (r.core = core) && decide (r.serial = serial)

/-- A ticket parks, or goes on. -/
def State.setTicket (s : State) (c : Nat) (i : Option Nat) (st : TickSt) : State :=
  match i with
  | none => s
  | some i => s.modCore c fun k => k.modTicket i fun t => { t with st := st }

/-- The page for which a copy request would park now. -/
def State.faultPage (s : State) (r : Req) : Option (Desc × Nat) :=
  if r.parked.isNone && r.reached then s.missing r else none

/-- The page for which a drain would park now (R228). -/
def State.drainPage (s : State) (q : Nat) (r : MatReq) : Option Nat :=
  match r.st with
  | .granted d => if r.parked.isNone && decide (d ≤ s.quadCycle q) then s.drainMissing r else none
  | _ => none

/-- PAGE_FAULT (R199): the request parks and a PAGE record goes to the coalescer. -/
def execPageFault (e : ReqRef) (s : State) : Host.Outcome State Fault Refusal :=
  let q := quadOf e.core
  match s.req? e.core e.req, s.mat? e.core e.req with
  | some r, _ => s.event (s.faultPage r).isSome fun s =>
      match s.faultPage r with
      | none => s
      | some (d, p) =>
        let s := s.modReq e.core r.serial fun x => { x with parked := some p }
        (s.setTicket e.core r.ticket .parked).report e.core (r.record 3 (pageAddr d.handle p))
  | none, some r => s.event (s.drainPage q r).isSome fun s =>
      match s.drainPage q r with
      | none => s
      | some p =>
        let s := s.modMat q r.serial fun x => { x with parked := some p }
        (s.setTicket e.core (some r.ticket) .parked).report e.core
          (r.record 3 (pageAddr (r.opEnd 0).desc.handle p))
  | none, none => s.event false id

/-- A copy request is parked on a page. -/
def Req.onPage (r : Req) (p : PageRef) : Bool :=
  decide (r.ctx = p.ctx) && decide (r.parked = some p.page)
    && (decide (r.src.desc.handle = p.handle) || decide (r.dst.desc.handle = p.handle))
def MatReq.onPage (r : MatReq) (p : PageRef) : Bool :=
  decide (r.ctx = p.ctx) && decide (r.parked = some p.page) && decide ((r.opEnd 0).desc.handle = p.handle)

/-- Every request parked on a page, with its core. -/
def State.parkedOn (s : State) (p : PageRef) : List (Nat × Req) :=
  s.cores.flatMap fun (c, k) => (k.reqs.filter fun r => r.onPage p).map fun r => (c, r)
def State.drainsOn (s : State) (p : PageRef) : List (Nat × MatReq) :=
  s.quads.flatMap fun (q, k) => (k.table.filter fun r => r.onPage p).map fun r => (q, r)

/-- The page has no translation. -/
def State.isUnmapped (s : State) (p : PageRef) : Bool :=
  (s.context p.ctx).allocs.any fun a => decide (a.handle = p.handle) && a.unmapped.contains p.page

/-- The order log keeps a resumption or a failure (R322). -/
def State.logPage (s : State) (p : PageRef) (failed : Bool) : State :=
  s.logItem p.ctx 6 0 0 [p.handle.toNat, p.page, failed.toNat]

/-- PAGE_RESUME: the page is mapped and every request parked on it goes on. -/
def execPageResume (p : PageRef) (s : State) : Host.Outcome State Fault Refusal :=
  s.event (s.isUnmapped p) fun s =>
    let rs := s.parkedOn p
    let ds := s.drainsOn p
    let s := s.modContext p.ctx fun x => { x with allocs := x.allocs.map fun a =>
      if a.handle = p.handle then { a with unmapped := a.unmapped.filter fun i => decide (i ≠ p.page) } else a }
    let s := rs.foldl (fun s (c, r) =>
      (s.modReq c r.serial fun x => { x with parked := none }).setTicket c r.ticket .run) s
    let s := ds.foldl (fun s (q, r) =>
      (s.modMat q r.serial fun x => { x with parked := none }).setTicket r.core (some r.ticket) .run) s
    s.logPage p false

/-- The block of a binding that failed stays unstarted: its launch ends FAULT and its crews retire (R221). -/
def State.failBlock (s : State) (block : Nat) : State :=
  match tget? s.blocks block with
  | none => s
  | some b =>
    let s := s.modLaunch b.launch fun l => l.join 2
    b.crews.foldl (fun s r => match s.crew? r.core r.slot with
      | none => s
      | some k => (lanesOf k.live).foldl (fun s l => s.retireQuiet r.core r.slot l false) s) s

/-- A request fails with FAULT and its record: OUTFAULT at a publish, else FAILED (R214, R273, R315). -/
def State.faultReq (s : State) (c : Nat) (r : Req) (addr : Nat) (rec' : Bool) : State :=
  let cause := if r.deferred then 4 else 0x0C
  let s := if rec' || (r.deferred && r.publishing.isSome) then s.report c (r.record cause addr) else s
  let s := s.failReq c r .fault
  match r.kind with
  | .binding _ _ => s.failBlock r.block
  | _ => s

/-- PAGE_FAIL: every request parked on the page completes with FAULT. -/
def execPageFail (p : PageRef) (s : State) : Host.Outcome State Fault Refusal :=
  s.event (decide (s.parkedOn p ≠ [] ∨ s.drainsOn p ≠ [])) fun s =>
    let addr := pageAddr p.handle p.page
    let s := (s.parkedOn p).foldl (fun s (c, r) => s.faultReq c r addr true) s
    let s := (s.drainsOn p).foldl (fun s (q, r) =>
      let s := if r.image = 0 then s
        else s.modOwner r.core r.ctx r.crewId fun k => { k with copy := k.copy.out .fault }
      (s.report r.core (r.record 0x0C addr)).endMat q r .fault) s
    s.logPage p true

/-! ## Resets (R200, R249) -/

/-- A context is concerned by a reset: every one for a unit fault. -/
def concerned (ctx : Option Nat) (c : Nat) : Bool :=
  match ctx with
  | none => true
  | some x => decide (x = c)

/-- A reset takes a request: queued deferred ones survive a unit fault. -/
def Req.resets (r : Req) (ctx : Option Nat) : Bool :=
  concerned ctx r.ctx && (ctx.isSome || !(r.deferred && r.publishing.isNone))

/-- A queued request that does not publish is discarded (R200): its source is no longer pinned. -/
def State.discardReq (s : State) (c : Nat) (r : Req) : State :=
  (((s.dropReq c r).settleTicket c r.ticket .fault).settleImage c r).wakeEngine c

/-- The 64 KiB page at which a request lands next (R314). -/
def State.landPage (s : State) (r : Req) : Nat :=
  pageAddr r.dst.desc.handle (((s.dstOffsets r).headD 0) / 65536)

/-- COPY_UNIT_RESET (R200). -/
def execCopyUnitReset (core : Nat) (ctx : Option Nat) (s : State) : Host.Outcome State Fault Refusal :=
  s.event (decide (core < Config.cores)) fun s =>
    ((s.core core).reqs.filter fun r => r.resets ctx).foldl (fun s r =>
      if r.deferred && r.publishing.isNone then s.discardReq core r
      else s.faultReq core r (s.landPage r) false) s

/-- ENGINE_RESET (R249): requests leave the table with FAULT; the banks of a killed context go FREE. -/
def execEngineReset (quad : Nat) (ctx : Option Nat) (s : State) : Host.Outcome State Fault Refusal :=
  s.event (decide (quad < Config.quads)) fun s =>
    let rs := (s.quad quad).table.filter fun r => concerned ctx r.ctx
    let s := rs.foldl (fun s r => if r.granted then s.resetMat quad r else s.dropOne r .fault) s
    match ctx with
    | none => s
    | some x => (s.modQuad quad fun k =>
        { k with banks := k.banks.map fun b => if b.use.names x then TileBank.reset else b }).bindWaiting quad

/-! ## Publishing (R214, R300) -/

/-- A publishing request parked for a page holds the later ones that write a byte of its own: the later accepted one
remains (R214, R300). -/
def State.behindParked (s : State) (c : Nat) (r : Req) : Bool :=
  ((s.core c).reqs.takeWhile fun q => decide (q.serial ≠ r.serial)).any fun q =>
    q.publishing.isSome && q.parked.isSome && decide (q.dst.desc.handle = r.dst.desc.handle)
      && (s.writesOf q).any fun o => (s.writesOf r).contains o

/-- The request whose turn it is on a core: the oldest publishing one that is not parked and need not wait for one that
is. -/
def State.turn (s : State) (c : Nat) : Option Req :=
  (s.core c).reqs.find? fun r => r.publishing.isSome && r.parked.isNone && !s.behindParked c r

/-- The lowest unit that has not landed. -/
def Req.nextUnit (r : Req) : Nat := r.chunks.length

/-- An image lands; after the last one the request is done. -/
def State.landImage (s : State) (c : Nat) (r : Req) : State :=
  let s := (List.range r.units).foldl (fun s u => s.landUnit c r u (tget [] r.held u)) s
  let s := s.landed c r r.units
  if r.image < (s.reqImages r).length then
    s.modReq c r.serial fun q => { q with image := q.image + 1 }
  else s.endReq c r .done

/-- The next unit of the base: paid, read, landed; after the last one come the images. -/
def State.landBase (s : State) (c : Nat) (r : Req) : State :=
  let u := r.nextUnit
  if r.deferred && !r.isThread && !r.isPaid u then s.demandChunk c r
  else
    let (s, vals) := s.readLog c r s.globalMem u
    let r' := { r with held := tset r.held u vals }
    let s := s.modReq c r.serial fun q => { q with held := r'.held }
    let s := s.landAndCount c r' u
    if u + 1 < r.units then s
    else if (s.reqImages r).isEmpty then s.endReq c r .done
    else s.modReq c r.serial fun q => { q with image := 1 }

/-- The next landing of a publishing request is its last one. -/
def State.lastLanding (s : State) (r : Req) : Bool :=
  decide ((s.reqImages r).length ≤ r.image) && (decide (r.image ≠ 0) || decide (r.units ≤ r.nextUnit + 1))

/-- PUBLISH_REQUEST_LANDING (R214): the request in turn reads its source and lands, then its images. -/
def execPublishRequestLanding (core : Nat) (s : State) : Host.Outcome State Fault Refusal :=
  match s.turn core with
  | none => s.event false id
  | some r => s.event (!(s.core core).holdCopy && s.mayMove r && (!s.lastLanding r || s.mayEnd r)) fun s =>
      let s := s.modReq core r.serial fun q => { q with started := true }
      let s := if r.image = 0 ∧ r.chunks.isEmpty then s.setTicket core r.ticket .run else s
      if r.image = 0 then s.landBase core r else s.landImage core r

/-! ## Atomics (R272) -/

/-- An update may be performed, and a replay allows it. -/
def State.atomNow (s : State) (c : Nat) (r : Req) (ret : Bool) : Bool :=
  (match r.kind with
    | .atom b _ _ _ _ _ _ => b == ret
    | _ => false)
  && s.clocked && s.atomReady c r && (s.context r.ctx).allows 2 r.crewId

/-- ATOM_UPDATE: the group gets its results and goes on. -/
def execAtomUpdate (e : ReqRef) (s : State) : Host.Outcome State Fault Refusal :=
  match s.req? e.core e.req with
  | none => s.event false id
  | some r => s.event (s.atomNow e.core r true) fun s => s.performAtom e.core r

/-- ATRED_UPDATE. -/
def execAtredUpdate (e : ReqRef) (s : State) : Host.Outcome State Fault Refusal :=
  match s.req? e.core e.req with
  | none => s.event false id
  | some r => s.event (s.atomNow e.core r false) fun s => s.performAtom e.core r

/-! ## Barriers open (R186, R260 to R263) -/

/-- The barrier behind a key: its block or launch, whether it is a launch's, and its number. -/
def keyParts (key : Nat) : Nat × Bool × Nat := (key / 32, decide (key % 2 = 1), key / 2 % 16)

def State.barOf (s : State) (key : Nat) : Option Bar :=
  let (i, wide, b) := keyParts key
  (if wide then (tget? s.launches i).map (·.bars) else (tget? s.blocks i).map (·.bars)).bind fun t => tget? t b

def State.setBar (s : State) (key : Nat) (f : Bar → Bar) : State :=
  let (i, wide, b) := keyParts key
  if wide then s.modLaunch i fun l => { l with bars := tmod l.bars b f }
  else s.modBlock i fun k => { k with bars := tmod k.bars b f }

/-- A block takes part in a barrier. -/
def State.barHas (s : State) (key block : Nat) : Bool :=
  let (i, wide, _) := keyParts key
  if wide then ((tget? s.blocks block).map fun b => decide (b.launch = i) && !b.spawned).getD false
  else decide (block = i)

/-- The index of a crew in its block, resident or saved. -/
def State.crewIndex (s : State) (core ctx : Nat) (id : BitVec 16) : Option Nat :=
  match ((s.core core).slotOf? ctx id).bind fun slot => s.crew? core slot with
  | some k => some k.id.index
  | none => ((s.context ctx).saved.find? fun v => decide (v.core = core) && decide (v.crew.id.crewId = id)).map
      (·.crew.id.index)

/-- The serial number of a member's arrival in a generation; none where it has not arrived but retired. -/
def Member.arrival (m : Member) (g : Nat) : Option Nat :=
  if m.count = g then some m.last else if g < m.count then some m.prev else none

/-- The retirement count of its crew at a member's arrival in a generation (R322). -/
def Member.retiredAt (m : Member) (g : Nat) : Nat :=
  if m.count = g then m.retired else if g < m.count then m.before else 0

/-- A request was made before its lane's arrival in the generation that opens next. -/
def State.beforeArrival (s : State) (key : Nat) (b : Bar) (core : Nat) (r : Req) (lane : Nat) : Bool :=
  s.barHas key r.block && match s.crewIndex core r.ctx r.crewId with
    | none => true
    | some i =>
      let (_, wide, _) := keyParts key
      let idx := if wide then ((tget? s.blocks r.block).map (·.index)).getD 0 else 0
      match (tget Member.zero b.members (memberNo idx i lane b.crewMem)).arrival (b.opened + 1) with
      | some n => decide (r.serial < n)
      | none => true

/-- Lanes for which a request counts before an arrival: an update's lanes, or its own. -/
def Req.lanes (r : Req) : List Nat :=
  match r.kind with
  | .atom _ _ _ _ _ ls _ => ls.map AtomLane.lane
  | _ => [r.lane]

/-- Earlier ATRED updates and per-thread QSCR writes of the members have been performed (R262). -/
def State.arrivalsCounted (s : State) (key : Nat) (b : Bar) : Bool :=
  !s.cores.any fun (c, k) => k.reqs.any fun r =>
    (match r.kind with
      | .atom _ _ _ _ _ _ _ => true
      | .thread _ _ _ => r.dst.desc.isGlobal
      | _ => false)
    && r.lanes.any fun l => s.beforeArrival key b c r l

/-- The key under which a barrier publishes. -/
def barPubKey (key : Nat) : Nat := 2 * key

/-- The deferred requests of the members that were made before their arrivals begin to publish (R263). -/
def State.publishBar (s : State) (key : Nat) (b : Bar) : State :=
  { s with cores := tmap s.cores fun c k =>
      { k with reqs := k.reqs.map fun r =>
          if r.deferred && r.publishing.isNone && s.beforeArrival key b c r r.lane then
            { r with publishing := some (barPubKey key), tagged := s.serial }
          else r } }

/-- The publish of a generation is complete: no write that a member made before its arrival is under way, whichever
event publishes it (R250, R263). -/
def State.published (s : State) (key : Nat) (b : Bar) : Bool :=
  !s.cores.any fun (c, k) => k.reqs.any fun r =>
    r.deferred && r.publishing.isSome && s.beforeArrival key b c r r.lane

/-- Crews of a quad with threads parked at a generation, in the order of the waves (R186). -/
def State.waveOrder (s : State) (q key gen : Nat) : List SlotRef :=
  let rs := (List.range 4).flatMap fun i =>
    let c := 4 * q + i
    (s.core c).slots.filterMap fun (slot, k) =>
      if k.parkedWhere (fun _ w => decide (w = .barrier key gen)) ≠ 0 then some (k.id.entered, c, k.id.age, slot)
      else none
  let le := fun (a b : Nat × Nat × Nat × Nat) => lexLe [a.1, a.2.1, a.2.2.1] [b.1, b.2.1, b.2.2.1]
  (rs.mergeSort le).map fun x => ⟨x.2.1, x.2.2.2⟩

/-- The threads of one quad that wait for a generation wait for their waves. -/
def State.setWaves (s : State) (q key gen : Nat) : State :=
  let qd := s.quad q
  let now := s.quadCycle q
  ((s.waveOrder q key gen).zipIdx).foldl (fun s (r, i) =>
    let at' := now + (if qd.wave = 0 then 0 else i / qd.wave * qd.slope)
    s.modCrew r.core r.slot fun k => k.mapThreads fun _ t =>
      if t.st = .parked (.barrier key gen) then { t with st := .parked (.wave at') } else t) s

/-- The generation opens; the order log keeps each member crew's retirement count at its arrival (R322). -/
def State.openGen (s : State) (key : Nat) (b : Bar) : State :=
  let g := b.opened + 1
  let counts := b.members.map fun (_, m) => m.retiredAt g
  let ctx := (s.cores.findSome? fun (_, c) => c.slots.findSome? fun (_, k) =>
    if s.barHas key k.id.block then some k.id.ctx else none)
  let s := s.setBar key fun b =>
    { b with opened := g, publishing := false, pub := b.pub.filter fun i => decide (i ≠ g) }
  let s := match ctx with
    | some x => s.logItem x (if b.publishing then 7 else 1) 0 0 ([key, g] ++ counts)
    | none => s
  let qs := s.quads.map Prod.fst ++ s.cores.map (fun p => quadOf p.1)
  qs.eraseDups.foldl (fun s q => s.setWaves q key g) s

/-- The context of a barrier. -/
def State.barCtx (s : State) (key : Nat) : Nat :=
  let (i, wide, _) := keyParts key
  let l := if wide then i else ((tget? s.blocks i).map (·.launch)).getD 0
  ((tget? s.launches l).map (·.ctx)).getD 0

/-- The next generation may open, or begin its publish. -/
def State.genReady (s : State) (key : Nat) (b : Bar) : Bool :=
  b.isFull && s.arrivalsCounted key b
    && (!b.publishing || s.published key b)
    && (s.context (s.barCtx key)).allows (if b.pub.contains (b.opened + 1) then 7 else 1) 0

/-- GENERATION_OPEN (R263): a publishing generation publishes first. -/
def execGenerationOpen (key : Nat) (s : State) : Host.Outcome State Fault Refusal :=
  match s.barOf key with
  | none => s.event false id
  | some b => s.event (s.genReady key b) fun s =>
      if b.pub.contains (b.opened + 1) && !b.publishing then
        (s.publishBar key b).setBar key fun b => { b with publishing := true }
      else s.openGen key b

/-- Threads of a crew whose wave has come. -/
def State.waveThreads (s : State) (r : SlotRef) : Mask :=
  match s.crew? r.core r.slot with
  | some k => k.parkedWhere fun _ w => match w with
      | .wave t => decide (t ≤ s.coreCycle r.core)
      | _ => false
  | none => 0

/-- WAVE_RELEASE (R186): all of a crew's waiting threads together. -/
def execWaveRelease (r : SlotRef) (s : State) : Host.Outcome State Fault Refusal :=
  s.event (decide (s.waveThreads r ≠ 0)) fun s => s.wakeAll r.core r.slot (s.waveThreads r) (fun _ t => t) 64

/-! ## The matrix engine (R224, R227, R228, R233, R241) -/

/-- B_TILE_LOAD. -/
def execBTileLoad (quad : Nat) (s : State) : Host.Outcome State Fault Refusal :=
  match s.loadable quad with
  | none => s.event false id
  | some r => s.event true fun s => s.loadB quad r

/-- MMAS_GATHER. -/
def execMmasGather (quad : Nat) (s : State) : Host.Outcome State Fault Refusal :=
  match s.gatherable quad with
  | none => s.event false id
  | some r => s.event true fun s => s.gatherB quad r

/-- MATRIX_GRANT. -/
def execMatrixGrant (quad : Nat) (s : State) : Host.Outcome State Fault Refusal :=
  match s.nextGrant quad with
  | none => s.event false id
  | some r => s.event true fun s => s.grant quad r

/-- MATRIX_OP_COMPLETE. -/
def execMatrixOpComplete (quad : Nat) (port : Bool) (s : State) : Host.Outcome State Fault Refusal :=
  match s.finished quad port with
  | none => s.event false id
  | some r => s.event true fun s => s.completeMat quad r

/-- The bank that is spilled: one whose context has no request first, then the older latest grant. -/
def Quad.spillChoice (q : Quad) : Option Nat :=
  let idle := fun (c : Nat) => !q.table.any fun r => decide (r.ctx = c)
  let xs := (q.banks.zipIdx).filterMap fun (b, i) => match b.use with
    | .bound c => if b.granted then some (idle c, b.lastGrant, i) else none
    | _ => none
  match xs.find? fun x => x.1 with
  | some (_, _, i) => some i
  | none => (xs.foldl (fun (m : Option (Nat × Nat)) (_, t, i) => match m with
      | some (u, _) => if t < u then some (t, i) else m
      | none => some (t, i)) none).map (·.2)

/-- No bank is FREE, none is on its way, and this one is chosen (R224). -/
def Quad.mustSpill (q : Quad) (bank : Nat) : Bool :=
  q.waiter.isSome && decide (q.spillChoice = some bank)
    && q.banks.all fun b => match b.use with
      | .free | .spilling _ => false
      | _ => true

/-- The bank is SPILLING and its granted operations have finished. -/
def Quad.spilled (q : Quad) (bank : Nat) : Option (Nat × TileBank) :=
  match q.banks[bank]? with
  | some b => match b.use with
    | .spilling c => if q.table.any fun r => decide (r.ctx = c) && r.granted then none else some (c, b)
    | _ => none
  | none => none

/-- BANK_SPILL: the chosen bank takes no more grants; once its operations have finished it is in its context's
save area and the waiting context takes it. -/
def execBankSpill (quad bank : Nat) (s : State) : Host.Outcome State Fault Refusal :=
  let q := s.quad quad
  match q.spilled bank with
  | some (c, b) => s.event true fun s =>
      let s := s.modContext c fun x =>
        { x with savedTiles := tset x.savedTiles quad { b with use := .free } }
      let s := s.modQuad quad fun k => { k with banks := k.banks.set bank TileBank.reset }
      (match q.waiter with
        | some w => s.bindBank quad w
        | none => s).bindWaiting quad
  | none => s.event (q.mustSpill bank) fun s =>
      s.modQuad quad fun k => { k with banks := k.banks.modify bank fun b => match b.use with
        | .bound c => { b with use := .spilling c }
        | _ => b }

/-- BANK_FILL: the bank is restored from the save area. -/
def execBankFill (quad bank : Nat) (s : State) : Host.Outcome State Fault Refusal :=
  match ((s.quad quad).banks[bank]?).map (·.use) with
  | some (BankUse.filling c) => s.event true fun s =>
      let b := tget TileBank.reset (s.context c).savedTiles quad
      let s := s.modContext c fun x => { x with savedTiles := tdel x.savedTiles quad }
      (s.modQuad quad fun k =>
        { k with banks := k.banks.set bank { b with use := .bound c, granted := false } }).tidyBank quad c
  | _ => s.event false id

end Sys2Proof.Machine
end

