-- ==== Sys2Proof/Machine/Capacity.lean ====
section
/-! DEFINITION. Events of capacity and of tokens: CAPCTL, Kale's dooms, the dark instant, waking banks and
capacity waits (R153 to R163, R168), the ring (R179 to R182). -/

namespace Sys2Proof.Machine

/-! ## CAPCTL (R153) -/

/-- A write of CAPCTL. A value above 64 makes the write ignored as a whole; while FORCE is 1 a write of TARGET
that is not of debug is ignored. -/
def CapSt.write (c : CapSt) (e : CapctlEv) : CapSt :=
  let bad := fun (v : Option Nat) => match v with
    | some n => decide (64 < n)
    | none => false
  if bad e.target || bad e.pinQuota then c
  else
    let t := if e.debug || !c.force then e.target else none
    { c with target := t.getD c.target, pinq := e.pinQuota.getD c.pinq, force := e.force.getD c.force,
             pending := c.pending || t.isSome }

def execCapctlWrite (e : CapctlEv) (s : State) : Host.Outcome State Fault Refusal :=
  s.event (decide (e.core < Config.cores)) fun s => s.modCore e.core fun c => { c with cap := c.cap.write e }

/-! ## The darkening order (R157, R158) -/

/-- Banks that hold the source of a deferred write: they have protect rank 7. -/
def Core.sourceBanks (c : Core) : List Nat :=
  allBanks.filter fun b => c.reqs.any fun r => r.deferred && !r.src.desc.isGlobal
    && (c.entry r.ctx r.src.entry).touches b

/-- Place of a bank in the order: untouched first, then protect rank, live bytes, and the highest index. -/
def choiceKey (live : List Entry) (b : Nat) : List Nat :=
  match live.filter fun e => e.touches b with
  | [] => [0, 0, 0, 63 - b]
  | es => [1, es.foldl (fun m e => max m e.desc.rank) 0,
      32 * es.foldl (fun n e => n + e.desc.nrows) 0, 63 - b]

/-- A bank may be chosen. -/
def choosable (live : List Entry) (pins : List Nat) (b : Nat) : Bool :=
  !pins.contains b && !live.any fun e => e.touches b && decide (e.desc.rank = 7)

/-- Kale's choices, each over the entries that the ones before it leave. -/
def chooseBanks (pins : List Nat) : Nat → List Nat → List Entry → List Nat
  | 0, _, _ => []
  | n + 1, lit, live =>
    let best := (lit.filter (choosable live pins)).foldl (fun (m : Option Nat) b => match m with
      | none => some b
      | some x => if lexLe (choiceKey live x) (choiceKey live b) then some x else some b) none
    match best with
    | none => []
    | some b => b :: chooseBanks pins n (lit.filter fun x => decide (x ≠ b))
        (live.filter fun e => !e.touches b)

def Core.litBanks (c : Core) : List Nat := allBanks.filter fun b => decide (c.bank b = .lit)
def Core.liveEntries (c : Core) : List Entry := (c.layout.map Prod.snd).filter Entry.isLive

/-- Banks that Kale chooses now. -/
def Core.chosen (c : Core) : List Nat :=
  chooseBanks c.sourceBanks (c.nLit + c.nWaking - c.cap.target) c.litBanks c.liveEntries

/-- The banks that a replay imposes: those of the next logged event, a doom on this core (R323). -/
def State.imposedDoom (s : State) (c : Nat) : Option (List Nat) :=
  s.contexts.findSome? fun (_, x) => match x.replaying with
    | none => none
    | some r => match r.todo with
      | i :: _ => if i.what = 5 ∧ i.vals.head? = some c then some ((i.vals.drop 2).take (i.vals.getD 1 0))
          else none
      | [] => none

/-- A context is being replayed on the core: its dooms come from the log. -/
def State.replayedOn (s : State) (c : Nat) : Bool :=
  (s.core c).layout.any fun (k, _) => (s.context (k / 256)).replaying.isSome

def State.doomChoice (s : State) (c : Nat) : List Nat :=
  match s.imposedDoom c with
  | some bs => bs.filter fun b => (s.core c).litBanks.contains b
  | none => (s.core c).chosen

/-! ## Doom (R160 to R162) -/

/-- An end of an engine operation of core `c` reads or writes one of a core's entries: named by key, or
through a QSCR window. -/
def CopyEnd.meets (e : CopyEnd) (c ctx core : Nat) (keys : List Nat) : Bool :=
  if e.desc.isGlobal then
    decide (e.desc.space = 1) && decide (qscrCore (quadOf c) e.desc.handle = core)
      && keys.contains (entryKey ctx (qscrEntry e.desc.handle))
  else decide (e.core = core) && keys.contains (entryKey ctx e.entry)

/-- What a doom makes of a copy unit's requests: writers stop LOST; a reader that cannot start because its
unit is held is cancelled; the other readers run on. `all` adds the entries of the banks that an earlier doom took: their
readers still run. -/
def State.doomReqs (s : State) (core : Nat) (keys all : List Nat) : State × List Nat :=
  let rs := s.cores.flatMap fun (c, k) => k.reqs.map fun r => (c, k.holdCopy, r)
  rs.foldl (fun (acc : State × List Nat) (x : Nat × Bool × Req) =>
    let (c, held, r) := x
    if r.dst.meets c r.ctx core keys then (acc.1.failReq c r .lost, acc.2)
    else if r.src.meets c r.ctx core all then
      if held && !r.started && r.src.meets c r.ctx core keys then (acc.1.failReq c r .lost, acc.2) else (acc.1, acc.2 ++ [r.serial])
    else acc) (s, [])

/-- The same of the matrix engine: requests that are not granted, and drains, end LOST; a granted operation
goes on reading. -/
def State.doomMats (s : State) (core : Nat) (keys all : List Nat) : State × List Nat :=
  let q := quadOf core
  (s.quad q).table.foldl (fun (acc : State × List Nat) r =>
    if !r.ends.any fun e => e.meets r.core r.ctx core keys then
      if r.granted && r.ends.any fun e => e.meets r.core r.ctx core all then (acc.1, acc.2 ++ [r.serial]) else acc
    else if !r.granted then (acc.1.dropOne r .lost, acc.2)
    else if r.op.port then (acc.1.endMat q r .lost, acc.2)
    else (acc.1, acc.2 ++ [r.serial])) (s, [])

/-- The slot whose crew places an entry. -/
def Core.placerOf (c : Core) (ctx n : Nat) : Nat :=
  ((c.slots.find? fun (_, k) => decide (k.id.ctx = ctx) && decide (k.parkedWhere (fun _ w => match w with
    | .place m _ _ _ => decide (m = n)
    | _ => false) ≠ 0)).map Prod.fst).getD 0

/-- The protect rank by which a doomed bank is counted in the field data; 8: none (R344). -/
def Core.rankKey (c : Core) (b : Nat) : Nat :=
  match choiceKey c.liveEntries b with
  | 1 :: r :: _ => r
  | _ => 8

/-- The doom of a set of banks (R160): their entries go LOSING, placements in them fail. -/
def State.doomBanks (s : State) (c : Nat) (bs : List Nat) : State :=
  let k := s.core c
  let hit := k.layout.filter fun (_, e) => (e.isLive || e.reserved) && bs.any e.touches
  let placing := hit.filter fun (_, e) => e.reserved
  let keys := (hit.filter fun (_, e) => !e.reserved).map Prod.fst
  let all := keys ++ (k.layout.filter fun (_, e) => bs.any e.touches && (decide (e.desc.st = .losing)
    || (decide (e.desc.st = .rebuild) && e.doomed))).map Prod.fst
  let lose := fun (e : Entry) =>
    if e.desc.st = .live then { e with desc := { e.desc with st := .losing } } else { e with doomed := true }
  let s := s.modCore c fun k =>
    { k with banks := bs.foldl (fun t b => tset t b .doomed) k.banks,
             layout := tmap k.layout fun i e => if keys.contains i then lose e else e }
  let s := placing.foldl (fun s (i, _) =>
    s.placed c ((s.core c).placerOf (i / 256) (i % 256)) (i / 256) (i % 256) false) s
  let (s, r1) := s.doomReqs c keys all
  let (s, r2) := s.doomMats c keys all
  let d : Doom := ⟨s.coreCycle c, s.coreTick c, bs, keys, k.nextAccess + 5, r1 ++ r2⟩
  let s := s.modCore c fun k => { k with dooms := k.dooms ++ [d] }
  let s := s.modField fun f =>
    { f with dooms := bs.foldl (fun t b => addField t (16 * c + k.rankKey b) 1) f.dooms }
  ((hit.map fun (i, _) => i / 256).eraseDups).foldl (fun s ctx =>
    s.logItem ctx 5 0 0 ([c, bs.length] ++ bs ++ (s.core c).slots.map fun (_, w) => w.counts.retired)) s

/-- Kale has something to do: a write of TARGET to compare, or banks above the target that may be chosen. -/
def State.kaleDue (s : State) (c : Nat) : Bool :=
  (s.imposedDoom c).isSome
    || (!s.replayedOn c && ((s.core c).cap.pending
        || (decide ((s.core c).nShort ≠ 0) && decide ((s.core c).chosen ≠ []))))

/-- Nothing has happened in this cycle yet: the state is that at its start (R158). -/
def State.atStart (s : State) (c : Nat) : Bool :=
  let now := s.coreCycle c
  !s.moved && decide ((s.core c).lastA ≠ some now) && decide ((s.core c).lastB ≠ some now)

/-- KALE_DOOM (R155, R158), at the start of a cycle: an access that issues in it finds the entries LOSING (R159). -/
def execKaleDoom (core : Nat) (s : State) : Host.Outcome State Fault Refusal :=
  s.event (decide (core < Config.cores) && s.kaleDue core && s.atStart core) fun s =>
    let bs := s.doomChoice core
    let s := s.modCore core fun k => { k with cap := { k.cap with pending := false } }
    if bs.isEmpty then s else s.doomBanks core bs

/-! ## The dark instant (R160, R163) -/

/-- An operation named by its serial number is still going on. -/
def State.inFlight (s : State) (n : Nat) : Bool :=
  s.cores.any (fun (_, k) => k.reqs.any fun r => decide (r.serial = n))
    || s.quads.any fun (_, q) => q.table.any fun r => decide (r.serial = n)

/-- A doom has reached its dark instant. -/
def State.isDark (s : State) (c : Nat) (d : Doom) : Bool :=
  let now := s.coreCycle c
  decide (d.t0 + 8 ≤ now) && decide (d.lastPass ≤ now) && !d.readers.any s.inFlight

/-- What the dark instant makes of an entry that the doom took: none where it goes FREE. -/
def Entry.darken (e : Entry) : Option Entry :=
  if e.desc.st = .losing then
    if e.cleared then none else some { e with desc := { e.desc with st := .lost } }
  else if e.desc.st = .rebuild && e.doomed then some { e with revived := false, doomed := false }
  else some e

/-- Threads of a crew that waited for the doom to end: behind an entry that has gone LOST, at a WAITF on it,
or in the handler of an entry that was revived. -/
def Crew.darkWaiters (k : Crew) (lost redo : List Nat) : Mask :=
  k.parkedWhere fun l w => match w with
    | .entry n _ => lost.contains n
        || (redo.contains n && k.trap.handling && k.trap.hact.getLsbD l)
    | .full n => lost.contains n
    | _ => false

/-- Bytes of a bank. -/
def bankOfAddr (a : Nat) : Nat := a / 32 / 384

/-- A thread that waited for the dark instant executes its access again, in the order in which it parked (R165). -/
def Thread.redo (t : Thread) (lost : List Nat) (now : Nat) : Thread :=
  let place := match t.st with
    | .parked (.entry n o) => if lost.contains n then some ⟨n, o, false⟩ else none
    | _ => none
  { t.goAt t.pc now with released := place }

/-- Banks go DARK, the LOSING entries of the doom LOST, and the groups that waited go on. -/
def State.goDark (s : State) (c : Nat) (d : Doom) : State :=
  let k := s.core c
  let hit := k.layout.filter fun (i, e) => d.entries.contains i
    && (decide (e.desc.st = .losing) || (decide (e.desc.st = .rebuild) && e.doomed))
  let lost := (hit.filter fun (_, e) => decide (e.desc.st = .losing)).map Prod.fst
  let redo := (hit.filter fun (_, e) => decide (e.desc.st = .rebuild)).map Prod.fst
  let layout := hit.foldl (fun t (i, e) => match e.darken with
    | some e => tset t i e
    | none => tdel t i) k.layout
  let s := s.modCore c fun k =>
    { k with layout := layout, dooms := k.dooms.erase d,
             banks := d.banks.foldl (fun t b => tset t b .dark) k.banks,
             cells := k.cells.filter fun x => !d.banks.contains (bankOfAddr x.1) }
  (s.core c).slots.foldl (fun s (slot, w) =>
    let ofCtx := fun (ks : List Nat) => ks.filterMap fun i => if i / 256 = w.id.ctx then some (i % 256) else none
    let m := w.darkWaiters (ofCtx lost) ((ofCtx redo).filter fun n => decide
      (((s.core c).entry w.id.ctx n).rebuilder = some slot))
    if m = 0 then s else s.modLanes c slot m fun _ t => t.redo (ofCtx lost) (s.coreCycle c)) s

/-- DARK_INSTANT (R160). -/
def execDarkInstant (core : Nat) (s : State) : Host.Outcome State Fault Refusal :=
  match (s.core core).dooms.find? (s.isDark core) with
  | none => s.event false id
  | some d => s.event true fun s => s.goDark core d

/-- ENGINE_READ_CANCEL (R160, R161): it ends LOST; a matrix pass writes nothing. -/
def execEngineReadCancel (e : ReqRef) (s : State) : Host.Outcome State Fault Refusal :=
  s.event (s.lateReader e.req) fun s =>
    match s.req? e.core e.req, s.mat? e.core e.req with
    | some r, _ => s.failReq e.core r .lost
    | none, some r => s.endMat (quadOf e.core) r .lost
    | none, none => s

/-! ## Waking and waiting (R156, R168) -/

/-- BANK_WAKE: 400 of TICK have passed; Kale compares again. -/
def execBankWake (core bank : Nat) (s : State) : Host.Outcome State Fault Refusal :=
  match (s.core core).bank bank with
  | .waking t => s.event (decide (t ≤ s.coreTick core)) fun s => s.modCore core fun k =>
      { k with banks := tset k.banks bank .lit, cap := { k.cap with pending := true } }
  | _ => s.event false id

/-- What a crew's parked WAITCAP asks for. -/
def Crew.capWait (k : Crew) : Option (Nat × Nat × PIdx × Option Nat) :=
  k.threads.findSome? fun (_, t) => match t.st with
    | .parked (.cap n r p d) => some (n, r, p, d)
    | _ => none

/-- The threads of a parked WAITCAP go on with a result. -/
def State.endCap (s : State) (r : SlotRef) (p : PIdx) (v : Bool) : State :=
  s.wakeWhere r.core r.slot (fun _ w => match w with
    | .cap _ _ _ _ => true
    | _ => false) fun _ t => t.put (pKey p) (BitVec.ofNat 32 v.toNat)

/-- WAITCAP_DEADLINE. -/
def execWaitcapDeadline (r : SlotRef) (s : State) : Host.Outcome State Fault Refusal :=
  match (s.crew? r.core r.slot).bind Crew.capWait with
  | some (_, _, p, some d) => s.event (decide (d ≤ s.coreTick r.core)) fun s => s.endCap r p false
  | _ => s.event false id

/-- The waiting crew whose turn it is: the highest rank first, then the oldest. One whose deadline has come first is not
among them. -/
def State.nextCap (s : State) (c : Nat) : Option (Nat × Nat × PIdx) :=
  let open' := fun (d : Option Nat) => match d with
    | some x => decide (s.coreTick c < x)
    | none => true
  let ws := (s.core c).slots.filterMap fun (slot, k) => match k.capWait with
    | some (n, r, p, d) =>
      if open' d && s.capHolds c slot n r then some ([7 - r, k.id.age], slot, n, p) else none
    | none => none
  (ws.foldl (fun (best : Option (List Nat × Nat × Nat × PIdx)) w => match best with
    | none => some w
    | some b => if lexLe b.1 w.1 then some b else some w) none).map Prod.snd

/-- WAITCAP_WAKE: the crew takes its claim and goes on. -/
def execWaitcapWake (r : SlotRef) (s : State) : Host.Outcome State Fault Refusal :=
  match s.nextCap r.core with
  | some (slot, n, p) => s.event (decide (slot = r.slot)) fun s =>
      (s.takeClaim r.core slot n).endCap r p true
  | none => s.event false id

/-- CLAIM_EXPIRY. -/
def execClaimExpiry (r : SlotRef) (s : State) : Host.Outcome State Fault Refusal :=
  match (s.crew? r.core r.slot).bind Crew.claim with
  | some x => s.event (decide (x.expires ≤ s.coreTick r.core)) fun s =>
      s.modCrew r.core r.slot fun k => { k with claim := none }
  | none => s.event false id

/-- A placement whose banks are LIT zeroes its cells, one row of each bank a cycle, and is complete. -/
def State.placementStep (s : State) (c slot : Nat) : State :=
  match s.crew? c slot with
  | none => s
  | some k =>
    let w := k.threads.findSome? fun (_, t) => match t.st with
      | .parked (.place n _ lit cyc) => some (n, lit, cyc)
      | _ => none
    match w with
    | none => s
    | some (n, lit, cyc) =>
      let e := (s.core c).entry k.id.ctx n
      if lit ≠ 0 then
        if (s.core c).litAt e.spot.1 e.desc.banklog ≠ 0 then s
        else s.modCrew c slot fun k => k.mapThreads fun _ t => match t.st with
          | .parked (.place m p _ _) =>
            if m = n then { t with st := .parked (.place m p 0 (s.coreCycle c + e.desc.nrows)) } else t
          | _ => t
      else if s.coreCycle c < cyc then s
      else s.placed c slot k.id.ctx n true

/-! ## The ring (R179 to R182) -/

/-- TOKEN_INJECTION. -/
def execTokenInjection (die : Nat) (s : State) : Host.Outcome State Fault Refusal :=
  s.event (decide (die < Config.dies) && decide (s.device.power.state = .active)) fun s => s.inject die

/-- TOKEN_TAKE. -/
def execTokenTake (core : Nat) (s : State) : Host.Outcome State Fault Refusal :=
  s.event (decide (core < Config.cores)) fun s => s.takeFlit core

/-- RING_CLAIM. -/
def execRingClaim (core : Nat) (s : State) : Host.Outcome State Fault Refusal :=
  s.event (decide (core < Config.cores)) fun s => s.claimFlit core

/-- PARTY_HUNGRY. -/
def execPartyHungry (core : Nat) (s : State) : Host.Outcome State Fault Refusal :=
  s.event (decide (core < Config.cores)) fun s => s.noteHunger core

end Sys2Proof.Machine
end

