-- ==== Sys2Proof/Machine/System.lean ====
section
/-! DEFINITION. Events of system software and of the power microcontroller: TKCAP and CAPDROP (R177, R180),
LTDAT (R152), CERR (R37), the control block (R330), control registers (R179, R186, R331), fault queues (R314,
R316), operating points (R188, R189), the control loop and its counters (R190). -/

namespace Sys2Proof.Machine

/-! ## CAPDROP (R176, R177) -/

/-- A held wide group: its instruction and the group. -/
def State.heldGroup (s : State) (c : Nat) (parts : List (Nat × Mask)) (pc : Word) : Option (Instr × Group) :=
  match parts with
  | [] => none
  | (slot, m) :: _ =>
    match s.crew? c slot with
    | none => none
    | some k => match (s.context k.id.ctx).fetch pc.toNat with
      | .error _ => none
      | .ok gs => match decode (s.privAt k m) gs with
        | .error _ => none
        | .ok i => some (i, { core := c, parts := parts, pc := pc, len := 4 * gs.length,
                              clsA := opcClassA (opcOf (gs.headD 0)), paid := false, chunk := none })

/-- An unpaid demand above TKCAP: a group takes PRICE, code CAPDROP; a matrix request leaves the table; a chunk is
formed again, the first by its group's issuing again, or its copy ends FAULT. -/
def State.dropDemand (s : State) (c : Nat) (d : Demand) : State :=
  let s := s.modCore c fun k => { k with demands := k.demands.filter fun e => decide (e.kind ≠ d.kind) }
  match d.kind with
  | .group _ parts _ (some _) =>
    parts.foldl (fun s (slot, m) => s.modLanes c slot m fun _ t => { t with st := .ready }) s
  | .group _ parts pc none =>
    match s.heldGroup c parts pc with
    | none => s
    | some (i, g) => match i.hdr? with
      | none => s
      | some h =>
        let s := parts.foldl (fun s (slot, m) => s.modLanes c slot m fun _ t => { t with st := .ready }) s
        s.raise g h 9 2 (BitVec.ofNat 32 d.price) 0
  | .matrix _ n =>
    match s.mat? c n with
    | none => s
    | some r => s.capDrop r
  | .chunk n _ _ =>
    match s.req? c n with
    | none => s
    | some r => s.demandChunk c r

/-- Every unpaid demand of a core that TKCAP no longer covers; then payment goes on. -/
def State.capDrops (s : State) (c : Nat) : State :=
  let ds := (s.core c).demands.filter fun d => !d.paid && decide ((s.core c).tok.tkcap < d.price)
  let s := ds.foldl (fun s d => s.dropDemand c d) s
  s.settleTokens c ((s.core c).demands.length + 1)

/-- TKCAP_WRITE (R180). -/
def execTkcapWrite (core v : Nat) (s : State) : Host.Outcome State Fault Refusal :=
  s.event (decide (core < Config.cores) && decide (v < 4096)) fun s =>
    (s.modCore core fun k => { k with tok := k.tok.setCap v }).capDrops core

/-! ## LTDAT, CERR, the control block -/

/-- A write through LTDAT. -/
def LateOp.isLtdat : LateOp → Bool
  | .ltdat _ _ _ _ _ => true
  | _ => false

/-- LTDAT_WRITE (R104, R152): the oldest write of a core whose distance has passed reaches its entry. -/
def execLtdatWrite (core : Nat) (s : State) : Host.Outcome State Fault Refusal :=
  match (s.core core).late.find? fun x => x.2.isLtdat && decide (x.1 ≤ s.coreCycle core) with
  | none => s.event false id
  | some x => s.event true fun s =>
      (s.modCore core fun k => { k with late := k.late.erase x }).applyLate core x.1 x.2

/-- CERR_CLEAR (R37). -/
def execCerrClear (ctx : Nat) (s : State) : Host.Outcome State Fault Refusal :=
  s.event (tget? s.contexts ctx).isSome fun s =>
    s.modContext ctx fun x => { x with ccb := { x.ccb with cerr := Cerr.reset } }

/-- The block with a field written; none for a value outside its range (R330). -/
def Ccb.write (b : Ccb) (f : CcbField) (v : Nat) : Option Ccb :=
  let ifOk := fun (ok : Bool) (b : Ccb) => if ok then some b else none
  match f with
  | .fqBase => ifOk (decide (v < 2 ^ 64)) { b with fqBase := BitVec.ofNat 64 v }
  | .fqHead => ifOk (decide (v < 2 ^ 16)) { b with fqHead := v }
  | .fqLog => ifOk (decide (4 ≤ v ∧ v ≤ 15)) { b with fqLog := v }
  | .priv => ifOk (decide (v < 2)) { b with priv := decide (v = 1) }
  | .replay => ifOk (decide (v < 2)) { b with replay := decide (v = 1) }
  | .ckpti => ifOk (decide (1 ≤ v ∧ v ≤ 100)) { b with ckpti := v }
  | .quant => ifOk (decide (v < 32)) { b with quant := v }
  | .plock => ifOk (decide (v < 2)) { b with plock := decide (v = 1) }
  | .wdlog => ifOk (decide (20 ≤ v ∧ v ≤ 32)) { b with wdlog := v }
  | .qtBase => ifOk (decide (v < 2 ^ 64)) { b with qtBase := BitVec.ofNat 64 v }
  | .nq => ifOk (decide (v ≤ 16)) { b with nq := v }

/-- One more line in the firmware's log. -/
def State.logFirmware (s : State) (v : Nat) : State :=
  let f := s.device.firmware
  { s with device := { s.device with firmware := { f with log := f.log ++ [v] } } }

/-- CONTROL_BLOCK_WRITE (R330): a value outside its range changes nothing and is logged. -/
def execControlBlockWrite (ctx : Nat) (f : CcbField) (v : Nat) (s : State) : Host.Outcome State Fault Refusal :=
  s.event (tget? s.contexts ctx).isSome fun s =>
    match (s.context ctx).ccb.write f v with
    | some b =>
      let s := s.modContext ctx fun x => { x with ccb := b }
      match f with
      | .qtBase | .nq => (List.range b.nq).foldl (fun s q => s.showQueue ctx q) s
      | _ => s
    | none => s.logFirmware v

/-! ## Control registers -/

/-- A field of a queue descriptor (R331); SLOG is 1 to 15. -/
def Queue.write (q : Queue) (f : QueueField) (v : Nat) : Queue :=
  match f with
  | .base => { q with base := BitVec.ofNat 64 v }
  | .slog => if 1 ≤ v ∧ v ≤ 15 then { q with slog := v } else q
  | .ranged => { q with ranged := bitOf v 0 }
  | .devfed => { q with devfed := bitOf v 0 }

/-- WAVECTL (R186). -/
def Quad.writeWave (q : Quad) (v : Nat) : Quad := { q with wave := bitsOf v 0 6, slope := bitsOf v 8 8 }

/-- A control register that only keeps what is written to it (R179, R186, R331). -/
def State.writeReg (s : State) (r : CtrlReg) (v : Nat) : State :=
  match r with
  | .ringctlInj d => if d < Config.dies then s.modDie d fun x => { x with inj := bitsOf v 0 12 } else s
  | .wavectl q => if q < Config.quads then s.modQuad q fun x => x.writeWave v else s
  | .queueField ctx q f => s.modQueue ctx q fun x => x.write f v

/-- REGISTER_WRITE. -/
def execRegisterWrite (r : CtrlReg) (v : Nat) (s : State) : Host.Outcome State Fault Refusal :=
  s.event true fun s => s.writeReg r v

/-! ## Fault queues (R314 to R316) -/

/-- A crew has retired: it is gone, or HELD. -/
def State.hasRetired (s : State) (c ctx : Nat) (id : BitVec 16) : Bool :=
  match ((s.core c).slotOf? ctx id).bind fun slot => s.crew? c slot with
  | some k => decide (k.st = .held)
  | none => !(s.context ctx).saved.any fun v => decide (v.core = c) && decide (v.crew.id.crewId = id)

/-- The 256 bits of a record as it is written (R314). -/
def State.faultWord (s : State) (c : Nat) (r : FaultRec) : Nat :=
  r.cause % 256 + 2 ^ 8 * (r.sub % 2 ^ 16) + 2 ^ 24 * r.count + 2 ^ 32 * (r.slots % 2 ^ 16)
    + 2 ^ 48 * (c % 64) + 2 ^ 54 * (dieOf c % 4) + 2 ^ 56 * (r.gone || s.hasRetired c r.ctx r.crewId).toNat
    + 2 ^ 57 * r.imprecise.toNat + 2 ^ 64 * r.pc.toNat + 2 ^ 96 * r.crewId.toNat + 2 ^ 128 * r.lid.toNat
    + 2 ^ 160 * (r.addr % 2 ^ 64) + 2 ^ 224 * (r.opened % 2 ^ 32)

/-- A record goes to the fault queue of its context and FQTAIL moves. -/
def State.putFault (s : State) (c : Nat) (r : FaultRec) : State :=
  let b := (s.context r.ctx).ccb
  let s := s.putGlobal b.fqBase (32 * (b.fqTail % 2 ^ b.fqLog)) (leBytes (s.faultWord c r) 32)
  s.modContext r.ctx fun x => { x with ccb := { x.ccb with fqTail := (x.ccb.fqTail + 1) % 2 ^ 16 } }

/-- Waiting events merge or open records, in order, while they can. -/
def State.takeIn (s : State) (c : Nat) : Nat → State
  | 0 => s
  | n + 1 =>
    let k := s.core c
    match k.waiting with
    | [] => s
    | r :: rest =>
      match mergeInto r k.openRecs with
      | some rs => (s.modCore c fun k => { k with openRecs := rs, waiting := rest }).takeIn c n
      | none =>
        if k.openRecs.length < Config.coalescerMax ∧ !(s.context r.ctx).ccb.fqFull then
          let r := { r with opened := s.tick }
          (s.modCore c fun k => { k with openRecs := k.openRecs ++ [r], waiting := rest }).takeIn c n
        else s

/-- The record that is written next: the oldest one whose queue has room, due or needed for a ninth. -/
def State.dueRecord (s : State) (c : Nat) : Option FaultRec :=
  let k := s.core c
  let forced := decide (Config.coalescerMax ≤ k.openRecs.length) && !k.waiting.isEmpty
  match k.openRecs.find? fun r => !(s.context r.ctx).ccb.fqFull with
  | some r => if forced || decide (r.opened + 1000 ≤ s.tick) then some r else none
  | none => none

/-- A waiting event can go on. -/
def State.canAdmit (s : State) (c : Nat) : Bool :=
  let k := s.core c
  match k.waiting with
  | [] => false
  | r :: _ => (mergeInto r k.openRecs).isSome
      || (decide (k.openRecs.length < Config.coalescerMax) && !(s.context r.ctx).ccb.fqFull)

/-- COALESCER_WRITE (R316). -/
def execCoalescerWrite (core : Nat) (s : State) : Host.Outcome State Fault Refusal :=
  s.event ((s.dueRecord core).isSome || s.canAdmit core) fun s =>
    let s := match s.dueRecord core with
      | some r => (s.putFault core r).modCore core fun k => { k with openRecs := k.openRecs.erase r }
      | none => s
    s.takeIn core ((s.core core).waiting.length + 1)

/-! ## Operating points (R188, R189) -/

/-- Frequency in MHz and voltage in mV of a point. -/
def opFreq (op : Nat) : Nat := [1050, 950, 850, 750, 650, 550, 475, 400].getD op 400
def opVolt (op : Nat) : Nat := [950, 880, 820, 770, 700, 640, 590, 550].getD op 550

/-- The clock goes on at another point (R188). -/
def Quad.switch (q : Quad) (now op : Nat) : Quad :=
  let d := q.phase + (now - q.mark) * opRate q.op
  { q with op := op, mark := now, cyc := q.cyc + d / 42, phase := d % 42 }

/-- The demands of a core under the table now in force (R175). -/
def State.reprice (s : State) (c : Nat) : State :=
  let op := (s.quad (quadOf c)).op
  let s := s.modCore c fun k =>
    { k with demands := k.demands.map fun d => if d.paid then d else { d with price := scaled op d.nominal } }
  s.capDrops c

/-- The frequency switch: the new price table takes force. -/
def State.switchPoint (s : State) (q op : Nat) : State :=
  let s := s.modQuad q fun x => x.switch s.ran op
  (List.range 4).foldl (fun s i => s.reprice (4 * q + i)) s

/-- The switch of a quad is due: at once going down, at the point's voltage going up. -/
def Quad.switches (q : Quad) : Bool :=
  decide (q.want ≠ q.op) && (decide (q.op < q.want) || decide (opVolt q.want ≤ q.mV))

/-- The rail moves by 10 mV per µs: 1 mV in 105 fabric cycles. -/
def Quad.ramp (q : Quad) (now : Nat) : Quad :=
  let t := opVolt q.want
  if now % 105 ≠ 0 ∨ q.mV = t then q
  else if q.mV < t then { q with mV := q.mV + 1 }
  else if q.op = q.want then { q with mV := q.mV - 1 }
  else q

/-- A quad is told to go to a point. -/
def State.goPoint (s : State) (q op : Nat) : State :=
  let s := s.modQuad q fun x => { x with want := op }
  if (s.quad q).switches then s.switchPoint q op else s

/-- The rail of a quad and its switch, once in a fabric cycle. -/
def State.rail (s : State) (q : Nat) : State :=
  let s := s.modQuad q fun x => x.ramp s.cycle
  if (s.quad q).switches then s.switchPoint q (s.quad q).want else s

/-- The fastest point that a frequency, and one that a voltage, allows. -/
def pointOf (freq : Nat) : Nat := (findFrom (fun op => decide (opFreq op ≤ freq)) 0 8).getD 7
def pointAt (mV : Nat) : Nat := (findFrom (fun op => decide (opVolt op ≤ mV)) 0 8).getD 7

/-- A request that is denied (R189). -/
def pointDenied (e : PointEv) : Bool :=
  decide (e.mV < 550 ∨ 950 < e.mV) || decide (e.freq < 400 ∨ 1050 < e.freq)
    || decide (opFreq (pointAt e.mV) < e.freq)

/-- OPERATING_POINT_CHANGE (R189). -/
def State.changePoint (s : State) (e : PointEv) : State :=
  if pointDenied e then
    let p := s.device.power
    { s with device := { s.device with power := { p with denied := p.denied ++ [e] } } }
  else s.goPoint e.quad (pointOf e.freq)

def execOperatingPointChange (e : PointEv) (s : State) : Host.Outcome State Fault Refusal :=
  s.event (decide (e.quad < Config.quads)) fun s => s.changePoint e

/-! ## The control loop (R190) -/

/-- One write of the loop. -/
def State.loopWrite (s : State) (w : LoopWrite) : State :=
  match w with
  | .point q op =>
    if q < Config.quads ∧ op < 8 then s.changePoint { quad := q, mV := opVolt op, freq := opFreq op } else s
  | .target c v =>
    if c < Config.cores then s.modCore c fun k =>
      { k with cap := k.cap.write { core := c, target := some v, pinQuota := none, force := none, debug := false } }
    else s
  | .inj d v => s.writeReg (.ringctlInj d) v

/-- CONTROL_LOOP: the loop has read the mailboxes (log 34). -/
def execControlLoop (ws : List LoopWrite) (s : State) : Host.Outcome State Fault Refusal :=
  s.event true fun s =>
    let s := { s with quads := tmap s.quads fun _ q => { q with mailbox := [] } }
    ws.foldl State.loopWrite s

/-- STALL_COUNTER_SNAPSHOT: every 10 µs. -/
def execStallCounterSnapshot (quad : Nat) (s : State) : Host.Outcome State Fault Refusal :=
  s.event (decide (quad < Config.quads) && decide ((s.quad quad).snapAt + 10000 ≤ s.tick)) fun s =>
    s.modQuad quad fun q => { q with snapshot := q.stall, stall := StallCnt.zero, snapAt := s.tick }

end Sys2Proof.Machine
end

