-- ==== Sys2Proof/Machine/Fabric.lean ====
section
/-! DEFINITION. Events of the host and of the firmware: queues (R332 to R337), Ettil (R328, R329), live update,
images and owners (R338 to R340), start (R341), power states (R342, R343). -/

namespace Sys2Proof.Machine

def State.modFirmware (s : State) (f : Firmware → Firmware) : State :=
  { s with device := { s.device with firmware := f s.device.firmware } }
def State.modPower (s : State) (f : PowerSt → PowerSt) : State :=
  { s with device := { s.device with power := f s.device.power } }

/-- Something for the module wakes it from a power state (R342). -/
def State.wakeDevice (s : State) : State :=
  if s.device.power.state = .active then s else s.modPower fun p => { p with woken := true }

/-- A report goes out on the management link. -/
def State.sendReport (s : State) (r : Report) : State :=
  { s with device := { s.device with reports := s.device.reports ++ [r] } }

/-! ## Tail writes (R332) -/

/-- A tail word reaches its queue. -/
def State.writeTail (s : State) (r : QueueRef) (tail : BitVec 16) : State :=
  let q := (s.context r.ctx).queue r.queue
  if q.devfed then s
  else if q.passes tail.toNat then s.modQueue r.ctx r.queue fun q => { q with stop := true }
  else (s.modQueue r.ctx r.queue fun q => { q with tail := tail.toNat }).wakeQueue r.ctx r.queue

/-- Held tail writes, in the order of their arrival; a take-over in progress holds them on (R339). -/
def State.serveTails (s : State) (ts : List (QueueRef × BitVec 16)) : State :=
  if s.device.firmware.quiesced then s.modFirmware fun f => { f with heldTails := f.heldTails ++ ts }
  else ts.foldl (fun s (r, t) => s.writeTail r t) s

/-- The queue exists and queues are accepted. -/
def State.queueOpen (s : State) (r : QueueRef) : Bool :=
  let x := s.context r.ctx
  decide (s.device.start.stage = .ready) && (tget? s.contexts r.ctx).isSome && !x.killed
    && decide (r.queue < x.ccb.nq)

/-- TAIL_WRITE: held during a power state (R342) and a take-over (R339). -/
def execTailWrite (q : QueueRef) (tail : BitVec 16) (s : State) : Host.Outcome State Fault Refusal :=
  s.event (s.queueOpen q) fun s =>
    if s.device.power.state ≠ .active then
      s.wakeDevice.modPower fun p => { p with heldTails := p.heldTails ++ [(q, tail)] }
    else s.serveTails [(q, tail)]

/-- QUEUE_STOP_CLEAR (R331): the queue takes in records again. -/
def execQueueStopClear (q : QueueRef) (s : State) : Host.Outcome State Fault Refusal :=
  s.event (s.queueOpen q) fun s =>
    (s.modQueue q.ctx q.queue fun x => { x with stop := false }).wakeQueue q.ctx q.queue

/-! ## Release (R334 to R337) -/

/-- The record may be released, and is of a kind. -/
def State.released (s : State) (r : RecRef) (kind : Nat) : Option QRec :=
  if s.working && !(s.context r.ctx).killed then
    (s.recReady r.ctx r.queue r.idx).bind fun q => if q.record.kind = kind then some q else none
  else none

/-- A record is released as a launch. -/
def State.startLaunch (s : State) (r : RecRef) (l : Launch) : State :=
  let key := s.serial
  let s := { s.bump with launches := tset s.launches key l }
  s.modQueue r.ctx r.queue fun q =>
    { q with window := q.window.modify r.idx fun w => { w with st := .released, launch := some key } }

/-- A record of the queue leaves it with status SKIPPED (R335). -/
def State.skipRec (s : State) (r : RecRef) (q : QRec) : State :=
  (s.putCompletion q.record 4 0 0).dropRec r.ctx r.queue r.idx

/-- Frames of a space are taken. -/
def State.takeFrames (s : State) (space : Nat) : Nat → State × List Nat
  | 0 => (s, [])
  | n + 1 =>
    let (s, f) := s.takeFrame space
    let (s, fs) := s.takeFrames space n
    (s, f :: fs)

/-- What nupdb's `run` prints of a symmetric launch (R360): the elements, each block that is issued with its ORBIT and
STAB, and each that is not. -/
def Launch.shown (l : Launch) : List Shown :=
  let r := l.record
  if l.elems.isEmpty then []
  else (l.elems.map fun e => Shown.list (e.gens ++ [e.neg.toNat]))
    ++ (List.range (r.grid.foldl (· * ·) 1)).map fun i =>
      Shown.list (if l.waiting.contains i then [i, l.orbitOf (xyzOfIndex r.grid i), l.stabOf (xyzOfIndex r.grid i)] else [i])

/-- What releasing a KERNEL does: SKIPPED, refused with its cause, or a launch with its backing region. -/
def State.releaseKernel (s : State) (r : RecRef) (q : QRec) : State :=
  if q.skip then s.skipRec r q
  else match s.refuses r.ctx q.record with
    | some cause => s.startLaunch r (q.record.refused r.ctx (some r.queue) cause)
    | none =>
      let (s, fs) := s.takeFrames 2 q.record.backing
      let l := { q.record.launch r.ctx (some r.queue) with frames := fs }
      let v := s.device.session
      let s := if v.ran = some (r.ctx, r.queue) then
          { s with device := { s.device with session := { v with out := v.out ++ l.shown } } } else s
      s.startLaunch r l

/-- LAUNCH_RELEASE (R334, R337): a launch waits for its launch-scope barriers (R258). -/
def execLaunchRelease (r : RecRef) (s : State) : Host.Outcome State Fault Refusal :=
  match s.released r 0 with
  | none => s.event false id
  | some q => s.event (q.skip || (s.refuses r.ctx q.record).isSome || s.wideFree q.record) fun s =>
      s.releaseKernel r q

/-- A 32-bit word of device memory, read at once. -/
def State.deviceWord (s : State) (h : BitVec 64) (off : Nat) : Word := Memory.readWord s.globalMem (gaddr h off)

/-- The next n records of the queue are skipped, those in the window first. -/
def Queue.skipAfter (q : Queue) (idx n : Nat) : Queue :=
  let k := q.window.length - (idx + 1)
  { q with window := (q.window.zipIdx).map fun (w, i) =>
             if idx < i ∧ i ≤ idx + n then { w with skip := true } else w
           skips := q.skips + (n - k) }

/-- COND (R335). -/
def execCond (r : RecRef) (s : State) : Host.Outcome State Fault Refusal :=
  match s.released r 1 with
  | none => s.event false id
  | some q => s.event true fun s =>
      if q.skip then s.skipRec r q
      else
        let s := if s.deviceWord q.record.pred 0 ≠ 0 then s
          else s.modQueue r.ctx r.queue fun x => x.skipAfter r.idx q.record.code.toNat
        s.dropRec r.ctx r.queue r.idx

/-- Offset of an event word in the queue table (R331). -/
def eventOff (nq e : Nat) : Nat := 32 * nq + 4 * e

/-- The event that SIGNAL and WAIT name. -/
def QRec.eventNo (q : QRec) : Nat := q.record.code.toNat % 64

/-- SIGNAL may add to its event word: no migration holds the word (R220). -/
def State.eventFree (s : State) (r : RecRef) (q : QRec) : Bool :=
  let b := (s.context r.ctx).ccb
  !s.inMove (gaddr b.qtBase (eventOff b.nq q.eventNo)) 4

/-- SIGNAL (R335). -/
def execSignal (r : RecRef) (s : State) : Host.Outcome State Fault Refusal :=
  match s.released r 2 with
  | none => s.event false id
  | some q => s.event (q.skip || s.eventFree r q) fun s =>
      let b := (s.context r.ctx).ccb
      let off := eventOff b.nq q.eventNo
      if q.skip then s.skipRec r q
      else (s.putGlobal b.qtBase off (leBytes (s.deviceWord b.qtBase off + 1).toNat 4)).dropRec r.ctx r.queue r.idx

/-- WAIT (R335): its event word has reached the awaited value. -/
def execWait (r : RecRef) (s : State) : Host.Outcome State Fault Refusal :=
  match s.released r 3 with
  | none => s.event false id
  | some q =>
    let b := (s.context r.ctx).ccb
    let v := (s.deviceWord b.qtBase (eventOff b.nq q.eventNo)).toNat
    s.event (q.skip || decide (q.record.pred.toNat % 2 ^ 32 ≤ v)) fun s =>
      if q.skip then s.skipRec r q else s.dropRec r.ctx r.queue r.idx

/-- System software makes a global allocation of new frames, where the memory of its space has room (R1, R218). -/
def State.makeAlloc (s : State) (ctx : Nat) (handle : BitVec 64) (space size : Nat) : State :=
  let x := s.device.frames
  let base := tget 0 x.next space
  let top := base + ceilDiv size 65536
  let a : Alloc := { handle := handle, space := space, size := size, base := base, unmapped := [], homes := [] }
  if !frameFits space top then s
  else { s with device := { s.device with frames := { x with next := tset x.next space top } } }.modContext ctx
    fun x => { x with allocs := x.allocs ++ [a] }

/-! ## Ettil (R328, R329) -/

/-- The fields of a descriptor after a write of `n` bytes at `lo` of it (R331): STOP goes where a 1 is written to it. -/
def Queue.rewrite (q : Queue) (v lo n : Nat) : Queue :=
  let at8 := decide (lo ≤ 8) && decide (8 < lo + n)
  { q with base := BitVec.ofNat 64 (bitsOf v 0 64)
           slog := if bitsOf v 64 4 = 0 then q.slog else bitsOf v 64 4
           ranged := bitOf v 68, devfed := bitOf v 69, stop := q.stop && !(at8 && bitOf v 70) }

/-- A write has reached the descriptor of a queue: its fields, and its tail word, are as written. -/
def State.descWritten (s : State) (ctx qi lo n : Nat) : State :=
  let b := (s.context ctx).ccb
  let v := leNat (Memory.readN s.globalMem (gaddr b.qtBase (32 * qi)) 32)
  let s := s.modQueue ctx qi fun q => q.rewrite v lo n
  let s := if decide (lo < 16) && decide (14 < lo + n) then
      s.serveTails [(⟨ctx, qi⟩, BitVec.ofNat 16 (bitsOf v 112 16))] else s
  s.showQueue ctx qi

/-- The descriptors that a write of `n` bytes at an offset of an allocation has reached. -/
def State.tableWritten (s : State) (h : BitVec 64) (off n : Nat) : State :=
  s.contexts.foldl (fun s (ctx, x) =>
    if x.ccb.qtBase ≠ h then s
    else (List.range x.ccb.nq).foldl (fun s qi =>
      if off < 32 * qi + 32 ∧ 32 * qi < off + n then
        s.descWritten ctx qi (off - 32 * qi) (n - (32 * qi - off)) else s) s) s

/-- ETTIL_WRITE: a write of another node changes device memory at once, but for a tile in migration (R220); it wakes the
module (R342). -/
def execEttilWrite (e : EttilEv) (s : State) : Host.Outcome State Fault Refusal :=
  s.event (decide (s.device.start.stage = .ready) && decide (e.node < 1024)
      && decide (e.offset + e.bytes.length ≤ 2 ^ 48)) fun s =>
    (s.wakeDevice.putGlobal e.handle e.offset e.bytes).tableWritten e.handle e.offset e.bytes.length

def Link.reset : Link := { ettil := false, trained := false, retrains := 0, reported := false }
def State.modLink (s : State) (l : Nat) (f : Link → Link) : State :=
  { s with device := { s.device with
      links := tset s.device.links l (f (tget Link.reset s.device.links l)) } }

/-- LINK_TRAINING, from BRINGUP on (R341): standard mode first, Ettil mode where both ends and the channel allow it. -/
def execLinkTraining (link : Nat) (bothEttil testsOk : Bool) (s : State) : Host.Outcome State Fault Refusal :=
  s.event (decide (link < 36) && decide (s.device.start.stage ≠ .safe)) fun s =>
    let s := if bothEttil && testsOk then s else s.sendReport (.standardMode link)
    s.modLink link fun l =>
      { l with trained := true, ettil := bothEttil && testsOk, reported := !(bothEttil && testsOk) }

/-- LINK_RETRAIN: counted in the field data (R344). -/
def execLinkRetrain (link : Nat) (s : State) : Host.Outcome State Fault Refusal :=
  s.event (decide (link < 36) && (tget Link.reset s.device.links link).trained) fun s =>
    (s.modLink link fun l => { l with retrains := l.retrains + 1 }).modField fun f =>
      { f with retrains := addField f.retrains link 1 }

/-! ## Firmware (R338 to R340) -/

/-- Contexts that hold a saved record too old for a version. -/
def State.stale (s : State) (version : Nat) : List Nat :=
  (s.contexts.filter fun (_, x) => x.saved.any fun v => decide (v.version + 1 < version)).map Prod.fst

/-- A forced activation fails the queues of a context (R339). -/
def State.failSaved (s : State) (ctx : Nat) : State :=
  let s := s.dropContext ctx
  let s := ((s.context ctx).queues.map Prod.fst).foldl (fun s q => s.failQueue ctx q 5) s
  let s := { s with launches := tmap s.launches fun _ l =>
    if l.ctx = ctx ∧ !l.completed then { l.join 5 with completed := true } else l }
  s.modContext ctx fun x => { x with saved := [] }

/-- One step of a live update (R339). -/
def State.update (s : State) (u : UpdateStep) : State :=
  let f := s.device.firmware
  match u, f.standby with
  | .boot, some _ => if f.verified then s.modFirmware fun f => { f with booted := true } else s
  | .exportState, some _ => if f.booted then s.modFirmware fun f => { f with exported := true } else s
  | .takeOver forced, some (image, version) =>
    let old := s.stale version
    if !f.exported || f.quiesced || f.ownerKeys.isEmpty || (!forced && !old.isEmpty) then s
    else (old.foldl State.failSaved s).modFirmware fun f =>
      { f with image := image, version := version, standby := some (f.image, f.version), verified := false,
               booted := false, exported := false, quiesced := true }
  | .serve, _ =>
    if f.quiesced then
      (s.modFirmware fun f => { f with quiesced := false, heldTails := [] }).serveTails f.heldTails
    else s
  | .fail, some _ =>
    if f.quiesced then s
    else s.modFirmware fun f => { f with standby := none, verified := false, booted := false, exported := false }
  | _, none => s

/-- LIVE_UPDATE. -/
def execLiveUpdate (u : UpdateStep) (s : State) : Host.Outcome State Fault Refusal :=
  s.event true fun s => s.update u

/-- IMAGE_VERIFY (R340): both signatures, and an enrolled owner key. -/
def execImageVerify (e : ImageEv) (s : State) : Host.Outcome State Fault Refusal :=
  s.event true fun s =>
    if s.device.firmware.quiesced then s
    else if e.makerSig && e.ownerSig && !s.device.firmware.ownerKeys.isEmpty then
      s.modFirmware fun f => { f with standby := some (e.image, e.version), verified := true, booted := false,
                                      exported := false, measured := f.measured ++ [e.digest] }
    else s.logFirmware e.image

/-- OWNERSHIP_TRANSFER (R340): the running image stays, and an image accepted under an old key is a new image again. -/
def execOwnershipTransfer (s : State) : Host.Outcome State Fault Refusal :=
  s.event true fun s => s.modFirmware fun f =>
    { f with ownerKeys := [], verified := false, booted := false, exported := false }

/-- OWNER_KEY_ENROLLMENT (R340). -/
def execOwnerKeyEnrollment (key : Nat) (s : State) : Host.Outcome State Fault Refusal :=
  s.event true fun s => s.modFirmware fun f =>
    { f with ownerKeys := if f.ownerKeys.contains key then f.ownerKeys else f.ownerKeys ++ [key] }

/-! ## Start (R341) -/

/-- Every bank of a core DARK (R156). -/
def darkBanks : Tab BankSt := allBanks.map fun b => (b, .dark)

/-- Change every core of the package. -/
def State.allCores (s : State) (f : Core → Core) : State :=
  (List.range Config.cores).foldl (fun s c => s.modCore c f) s

def State.setStart (s : State) (x : StartSt) : State := { s with device := { s.device with start := x } }

/-- Package reset: SAFE, with FAILED reported where the module is kept there. What the firmware keeps, the field data and
the package's place stay. -/
def State.safe (s : State) (failed : Bool) : State :=
  let d := s.device
  let f := { Firmware.reset with image := d.firmware.image, version := d.firmware.version,
                                 ownerKeys := d.firmware.ownerKeys, log := d.firmware.log }
  let r := { State.reset with
    agenda := s.agenda
    device := { Device.reset with pkg := d.pkg, start := { stage := .safe, failed := failed }, firmware := f,
                                  field := d.field
                                  reports := if failed then d.reports ++ [Report.failed] else d.reports } }
  r.allCores fun c => { c with banks := darkBanks }

/-- The next stage has been measured (R340) and runs. -/
def State.setStage (s : State) (x : Stage) : State :=
  (s.modFirmware fun f => f.measure (if x = .ready then 2 else 1)).setStart { stage := x, failed := false }

/-- PACKAGE_RESET: one stage of the start; `testOk`: no bank, stack or die has failed. -/
def execPackageReset (stage : Stage) (testOk : Bool) (s : State) : Host.Outcome State Fault Refusal :=
  match stage, s.device.start.stage with
  | .safe, _ => s.event true fun s => s.safe false
  | .bringup, .safe => s.event (!s.device.start.failed) fun s => s.setStage .bringup
  | .ready, .bringup => s.event true fun s =>
      if testOk then (s.allCores fun c => { c with banks := [], cap := CapSt.reset }).setStage .ready else s.safe true
  | _, _ => s.event false id

/-! ## Power states (R342, R343) -/

/-- No queue holds a record, no crew is resident, nothing is outstanding. -/
def State.idleAll (s : State) : Bool :=
  s.contexts.all (fun (_, x) => x.queues.all fun (_, q) => q.window.isEmpty && decide (q.head = q.tail))
    && s.cores.all (fun (_, c) => c.slots.isEmpty && c.reqs.isEmpty && c.late.isEmpty)
    && s.quads.all fun (_, q) => q.table.isEmpty && q.banks.all fun b => match b.use with
      | .free | .bound _ => true
      | _ => false

/-- NAP: TARGET falls to PINNED; OP7 (R342). -/
def State.nap (s : State) : State :=
  let kept := (List.range Config.cores).map fun c => (c, (s.core c).cap)
  let s := s.allCores fun c => { c with cap := { c.cap with target := c.nPinned, pending := true } }
  let s := (List.range Config.quads).foldl (fun s q => s.goPoint q 7) s
  s.modPower fun p => { p with state := .nap, kept := kept }

/-- An entry when the cores lose their power. -/
def Entry.powerOff (e : Entry) : Entry :=
  if e.desc.isGlobal ∨ e.desc.st = .free then e
  else { e with desc := { e.desc with st := .lost }, rebuilder := none, revived := false, doomed := false }

/-- Bound matrix banks go to the save areas (R224). -/
def State.spillAll (s : State) (q : Nat) : State :=
  (s.quad q).banks.foldl (fun s b => match b.use with
    | .bound c =>
      let s := s.modContext c fun x => { x with savedTiles := tset x.savedTiles q { b with use := .free } }
      s.modQuad q fun k => { k with banks := k.banks.map fun x => if x.use = .bound c then TileBank.reset else x }
    | _ => s) s

/-- DOZE (R342). -/
def State.doze (s : State) : State :=
  let s := (s.quads.map Prod.fst).foldl (fun s q => s.spillAll q) s
  let s := s.allCores fun c =>
    { c with banks := darkBanks, cells := [], dooms := [],
             layout := (c.layout.filter fun (_, e) => !e.cleared).map fun (k, e) => (k, e.powerOff) }
  s.modPower fun p => { p with state := .doze }

/-- Exit latency in µs, which grows from state to state (R342). -/
def exitLatency (p : Power) : Nat :=
  match p with
  | .active => 0
  | .idle => 2
  | .nap => 50
  | .doze => 2000

/-- The lowest state that the host's tolerance, and the device's work, allow. -/
def State.lowest (s : State) : Power :=
  let t := s.device.power.tolerance
  let idle := s.idleAll
  if idle && decide (exitLatency .doze ≤ t) then .doze
  else if idle && decide (exitLatency .nap ≤ t) then .nap
  else if exitLatency .idle ≤ t then .idle else .active

/-- POWER_STATE_ENTRY: the device goes down to that state. -/
def execPowerStateEntry (p : Power) (s : State) : Host.Outcome State Fault Refusal :=
  s.event (decide (s.device.start.stage = .ready) && decide (p = s.lowest)
      && decide (exitLatency s.device.power.state < exitLatency p)) fun s =>
    (match p with
      | .nap => s.nap
      | .doze => s.doze
      | _ => s.modPower fun x => { x with state := p }).modPower fun x => { x with woken := false }

/-- Capacity as a state is left (R343). -/
def State.restoreCap (s : State) : State :=
  match s.device.power.state with
  | .nap => s.device.power.kept.foldl (fun s (c, k) => s.modCore c fun x => { x with cap := { k with pending := true } }) s
  | .doze => s.allCores fun c => { c with cap := CapSt.reset }
  | _ => s

/-- POWER_STATE_EXIT, once something has woken the module: held tail writes are served; a bank that fails its test keeps
the module in SAFE. -/
def execPowerStateExit (testOk : Bool) (s : State) : Host.Outcome State Fault Refusal :=
  s.event (decide (s.device.power.state ≠ .active) && s.device.power.woken) fun s =>
    if s.device.power.state = .doze ∧ !testOk then s.safe true
    else
      let held := s.device.power.heldTails
      ((s.restoreCap).modPower fun p => { p with state := .active, woken := false, kept := [], heldTails := [] }).serveTails held

end Sys2Proof.Machine
end

