-- ==== Sys2Proof/Machine/Debug.lean ====
section
/-! DEFINITION. nupdb (R346 to R349, R352, R356, R357, R360): stopping and resuming crews, printing, the copy
hold, forced targets; and the turn of a group with its breakpoints. -/

namespace Sys2Proof.Machine

def State.modSession (s : State) (f : Session → Session) : State :=
  { s with device := { s.device with session := f s.device.session } }

/-! ## Stopped crews -/

/-- The crew that commands speak of, with its place: the one that stopped last. -/
def State.stoppedCrew (s : State) : Option (SlotRef × Crew) :=
  s.device.session.stops.head?.bind fun x => (s.crew? x.ref.core x.ref.slot).map fun k => (x.ref, k)

/-- Threads that the debugger has stopped. -/
def Crew.debugMask (k : Crew) : Mask := k.parkedWhere fun _ w => decide (w = .debugger)

/-- A crew's stop. -/
def Session.stopOf (v : Session) (r : SlotRef) : Option Stop := v.stops.find? fun x => decide (x.ref = r)

/-- A stopped crew may issue only what its `step` lets it retire, and no crew issues in a power state (R342). -/
def State.mayIssue (s : State) (r : SlotRef) (k : Crew) : Bool :=
  decide (s.device.power.state = .active) && match s.device.session.stopOf r with
    | none => true
    | some x => match x.stepTo with
      | some n => decide (k.counts.retired < n)
      | none => false

/-- A crew comes to a breakpoint that it has not just resumed from. -/
def State.breaksAt (s : State) (r : SlotRef) (k : Crew) (pc : Word) : Bool :=
  let v := s.device.session
  s.watched k && v.breaks.contains pc && (v.stopOf r).isNone && !v.pass.contains (r, pc)

/-- The group stops before its instruction (R346). -/
def State.stopAt (s : State) (g : Group) (r : SlotRef) : State :=
  let s := g.parts.foldl (fun s (slot, m) => s.modLanes g.core slot m fun _ t => { t with st := .parked .debugger }) s
  let age := ((s.crew? r.core r.slot).map (·.id.age)).getD 0
  s.modSession fun v => v.stop r age g.pc 0

/-- THE TURN OF A GROUP: it stops at a breakpoint, its crews are killed where its instruction does not execute,
or it issues in the state given. -/
def State.offer (s : State) (c slot : Nat) (pc : Word) : State × Option Instr :=
  let r : SlotRef := ⟨c, slot⟩
  match s.crew? c slot with
  | none => (s, none)
  | some k =>
    if !s.mayIssue r k then (s, none)
    else match s.turnOf c slot pc with
      | (.nothing, s) => (s, none)
      | (.kill slots cause at', s) => (s.killAll c slots cause at', none)
      | (.run i g, s) =>
        if s.breaksAt r k pc then (s.stopAt g r, none)
        else
          let s := if s.device.session.pass.contains (r, pc) then
              s.modSession fun v => { v with pass := v.pass.filter fun x => decide (x ≠ (r, pc)) } else s
          ({ s with cur := some g }, some i)

/-- Stopped threads of a crew go on. -/
def State.release (s : State) (r : SlotRef) (k : Crew) : State := s.reissue r.core r.slot k.debugMask

/-- Every crew with stopped threads. -/
def State.stoppedAll (s : State) : List (SlotRef × Crew) :=
  s.cores.flatMap fun (c, x) => x.slots.filterMap fun (slot, k) =>
    if k.debugMask ≠ 0 then some (⟨c, slot⟩, k) else none

/-- Breakpoints at which a crew's stopped threads stand. -/
def Crew.standsAt (k : Crew) (breaks : List Word) : List Word :=
  (breaks.filter fun pc => (lanesOf k.debugMask).any fun l => decide ((k.thread? l).map (·.pc) = some pc)).eraseDups

/-- `cap … after` counts from the time at which the crew resumes (R357). -/
def Session.arm (v : Session) (now : Nat) : Session :=
  { v with caps := v.caps.map fun x => if x.armed then x else { x with tick := now + x.tick, armed := true } }

/-- The stopped crews resume, and a finished replay ends (R323). -/
def State.resumeAll (s : State) : State :=
  let bs := s.device.session.breaks
  let rs := s.stoppedAll
  let pass := rs.flatMap fun (r, k) => (k.standsAt bs).map fun pc => (r, pc)
  let now := s.tick
  let s := rs.foldl (fun s (r, k) => s.release r k) s
  let s := s.modSession fun v => { v.arm now with stops := [], pass := pass }
  { s with contexts := tmap s.contexts fun i x => if s.replayOver i then { x with replaying := none } else x }

/-- Parameter words of a kernel with the handles of its images (R11). -/
def runWords (e : RunEv) : List (Nat × Word) :=
  e.params ++ e.images.flatMap fun x =>
    [(x.sreg, BitVec.ofNat 32 x.handle.toNat), (x.sreg + 1, BitVec.ofNat 32 (x.handle.toNat / 2 ^ 32))]

/-- The code address at which nupdb places a kernel (R353). -/
def runPc : Nat := 0x4000

/-- The launch record of `run`: the one nupas built, at the kernel's address, with the FPCTL defaults, the parameter words
and the handles of its GLOBAL entries (R333, R346). -/
def runRecord (e : RunEv) : Nat :=
  let v := leNat (e.record.take 2048)
  let v := setBits (setBits (setBits v 0 2 0) 32 32 runPc) 160 18 e.fpctl.toNat
  let v := (runWords e).zipIdx.foldl (fun v ((r, w), i) =>
    setBits (setBits v (8 * 0x40 + 32 * i) 32 w.toNat) (8 * 0xC0 + 8 * i) 8 r) v
  e.images.foldl (fun v x => (List.range 16).foldl (fun v i =>
    let b := 8 * (0x200 + 48 * i)
    if bitOf v (b + 8) && bitOf v (b + 9) && x.entries.contains (bitsOf v b 8) then
      setBits v (b + 128) 64 x.handle.toNat else v) v) v

/-- An image is placed in HBM, at the origin of its allocation (R11). -/
def State.placeImage (s : State) (ctx : Nat) (x : RunImage) : State :=
  (s.makeAlloc ctx x.handle 2 x.bytes.length).putGlobal x.handle 0 x.bytes

/-- `run kernel`: code, images and record are placed, and the queue's tail moves past the record (R332, R346, R353). -/
def State.runKernel (s : State) (e : RunEv) : State :=
  let s := s.modContext e.ctx fun x =>
    { x with codeBase := runPc, codeSize := e.code.length, code := Memory.writeN x.code runPc e.code }
  let s := e.images.foldl (fun s x => s.placeImage e.ctx x) s
  let q := (s.context e.ctx).queue e.queue
  let s := s.putGlobal q.base (2048 * (q.tail % 2 ^ q.slog)) (leBytes (runRecord e) 2048)
  let s := s.modSession fun v => { v with labels := e.labels, ran := some (e.ctx, e.queue) }
  s.serveTails [(⟨e.ctx, e.queue⟩, BitVec.ofNat 16 (q.tail + 1))]

/-- RUN (R346): a kernel as a single-launch queue, or a resumption. -/
def execRun (kernel : Option RunEv) (s : State) : Host.Outcome State Fault Refusal :=
  match kernel with
  | some e => s.event (s.queueOpen ⟨e.ctx, e.queue⟩ && decide (s.device.session.attached = some e.ctx)
      && decide (s.device.power.state = .active) && decide ((runWords e).length ≤ 32)) fun s => s.runKernel e
  | none => s.event true fun s => s.resumeAll

/-- BREAK (R346). -/
def execBreak (pc : Word) (s : State) : Host.Outcome State Fault Refusal :=
  s.event s.device.session.attached.isSome fun s => s.modSession fun v =>
    { v with breaks := if v.breaks.contains pc then v.breaks else v.breaks ++ [pc] }

/-- STEP (R346): the stopped crew may retire n instructions. -/
def execStep (n : Nat) (s : State) : Host.Outcome State Fault Refusal :=
  match s.stoppedCrew with
  | none => s.event false id
  | some (r, k) => s.event true fun s =>
      (s.release r k).modSession fun v => { v.arm s.tick with stops := v.stops.map fun x =>
        if x.ref = r then { x with stepTo := some (k.counts.retired + n) } else x }

/-- FOCUS (R360). -/
def execFocus (x y : Nat) (s : State) : Host.Outcome State Fault Refusal :=
  s.event s.device.session.attached.isSome fun s => s.modSession fun v => { v with focus := some (x, y) }

/-! ## Printing (R347 to R349, R352, R356, R357) -/

def State.show (s : State) (xs : List Shown) : State := s.modSession fun v => { v with out := v.out ++ xs }

/-- A command about the stopped crew; it changes nothing but what is printed. -/
def State.tell (s : State) (f : SlotRef → Crew → List Shown) : Host.Outcome State Fault Refusal :=
  match s.stoppedCrew with
  | none => s.event false id
  | some (r, k) => s.event true fun s => s.show (f r k)

/-- TAGS (R347): count, loss and fault of each tag; the outbound word; the TCNT word. -/
def execTags (s : State) : Host.Outcome State Fault Refusal :=
  s.tell fun r k =>
    let one := fun (t : Nat) =>
      let x := tget { ids := [], loss := false, fault := false } k.copy.tags t
      Shown.list [t, min 63 x.ids.length, x.loss.toNat, x.fault.toNat]
    (List.range 8).map one ++ [.wide (k.copy.outWord ((s.core r.core).pendOf k)), .wide k.copy.word]

/-- Change the core of the crew that stopped last. -/
def State.atStopped (s : State) (f : State → Nat → State) : Host.Outcome State Fault Refusal :=
  match s.device.session.speaks with
  | none => s.event false id
  | some (r, _) => s.event true fun s => f s r.core

/-- TOKENS (R347): the level word and the count of `tokq.sp`, for the crew that stopped last; once its slot is FREE
it is not hungry, holds no earmark, and its count is the last one. -/
def execTokens (s : State) : Host.Outcome State Fault Refusal :=
  match s.device.session.speaks with
  | none => s.event false id
  | some (r, age) => s.event true fun s =>
      match s.crew? r.core r.slot with
      | some k =>
        if k.id.age = age then s.show [.wide (s.levelWord r.core k), .wide (s.counter r.core k 5)]
        else s.show [.wide ((s.core r.core).tok.word false false), .wide s.device.session.spent]
      | none => s.show [.wide ((s.core r.core).tok.word false false), .wide s.device.session.spent]

/-- Codes of the bank states as `banks` prints them. -/
def BankSt.code : BankSt → Nat
  | .dark => 0
  | .waking _ => 1
  | .lit => 2
  | .doomed => 3

/-- The protect rank of a bank; 8: none (R157). -/
def Core.protect (c : Core) (b : Nat) : Nat := if c.sourceBanks.contains b then 7 else c.rankKey b

/-- BANKS (R347): each bank that holds an entry: its number, state, protect rank, and the entries. -/
def execBanks (s : State) : Host.Outcome State Fault Refusal :=
  s.atStopped fun s c =>
    let c := s.core c
    s.show <| allBanks.filterMap fun b =>
      let es := c.layout.filter fun (_, e) => e.holdsCells && e.touches b
      if es.isEmpty then none
      else some (.list ([b, (c.bank b).code, c.protect b] ++ es.map fun (i, _) => i % 256))

/-- The lane by which a stopped crew reads what is not a lane's: the lowest stopped one, else the lowest live. -/
def Crew.readLane (k : Crew) : Nat := lowLane (if k.debugMask = 0 then k.live else k.debugMask)

/-- A register key of the lanes given, in their order; nothing where a lane has no thread. -/
def Crew.lanesPrint (k : Crew) (lanes : List Nat) (key : Nat) : List Shown :=
  if lanes.all fun l => (k.thread? l).isSome then
    [.list (lanes.map fun l => ((k.thread? l).map fun t => (t.read key).toNat).getD 0)]
  else []

/-- `lo` to `hi`. -/
def span (lo hi : Nat) : List Nat := (List.range (hi + 1 - lo)).map (lo + ·)

/-- Coordinates that a range in each coordinate names, in ascending order. -/
def selCoords : List (Nat × Nat) → List (List Nat)
  | [] => [[]]
  | (lo, hi) :: rest => (span lo hi).flatMap fun i => (selCoords rest).map (i :: ·)

/-- A selection names elements of the entry: one coordinate each, a range in at most one (R349). -/
def selOk (exts : List Nat) (sel : List (Nat × Nat)) : Bool :=
  decide (sel.length = exts.length) && ((sel.zip exts).all fun (x, e) => decide (x.1 ≤ x.2 ∧ x.2 < e))
    && decide ((sel.filter fun x => decide (x.1 ≠ x.2)).length ≤ 1)

/-- Elements of an entry, through its read port (R348): the whole of it, or those named. -/
def State.entryPrint (s : State) (c ctx n : Nat) (sel : List (Nat × Nat)) : List Shown :=
  let d := ((s.core c).entry ctx n).desc
  let sel := if sel.isEmpty then d.exts.map fun e => (0, e - 1) else sel
  if d.st = .free then []
  else if d.st = .lost then [.unavailable]
  else
    let p := s.port c ctx d
    let m := s.memOf p s.globalMem
    [.list ((selCoords sel).map fun x => p.elem m d x)]

/-- A data image of the session's context, as its home stands (R348); a handle that names none prints nothing. -/
def State.imagePrint (s : State) (h : BitVec 64) (w lo hi : Nat) : List Shown :=
  let known := match s.device.session.attached with
    | some c => (s.context c).allocs.any fun a => decide (a.handle = h) && decide (w * (hi + 1) ≤ a.size)
    | none => false
  if known then [.list ((span lo hi).map fun i => leNat (Memory.readN s.globalMem (gaddr h (w * i)) w))] else []

/-- Predicate n: the lanes that hold 1, then all others (R352). -/
def Crew.predPrint (k : Crew) (n : PIdx) : List Shown :=
  let on := fun (l : Nat) => decide (((k.thread? l).map fun t => t.read (pKey n)) = some 1)
  let ls := (List.range Config.lanes).filter fun l => (k.thread? l).isSome
  [.list (ls.filter on), .list (ls.filter fun l => !on l)]

/-- What a form prints for the stopped crew. -/
def State.printOf (s : State) (f : PrintForm) (r : SlotRef) (k : Crew) : List Shown :=
  let c := s.core r.core
  let l := k.readLane
  let rd := fun (key : Nat) => ((k.thread? l).map fun t => (t.read key).toNat).getD 0
  match f with
  | .v n lanes =>
    let ls := match lanes with
      | some (a, b) => span a b
      | none => (k.threads.map Prod.fst)
    if n.toNat < k.id.vallot then k.lanesPrint ls n.toNat else []
  | .p n lane => match lane with
    | some a => k.lanesPrint [a] (pKey n)
    | none => k.predPrint n
  | .s n => if n.toNat < 192 then [.word (BitVec.ofNat 32 (rd (256 + n.toNat)))] else []
  | .sPair n =>
    if n.toNat < 192 ∧ n.toNat % 2 = 0 then
      [.wide (rd (256 + n.toNat) + 2 ^ 32 * rd (257 + n.toNat))] else []
  | .special code => match k.thread? l, specialAssigned code with
    | some t, true => [.wide (s.special r.core l k t code.toNat)]
    | _, _ => []
  | .capq st => [.word (c.capWord st)]
  | .entry n sel =>
    if sel.isEmpty || selOk (c.entry k.id.ctx n.toNat).desc.exts sel then s.entryPrint r.core k.id.ctx n.toNat sel
    else []
  | .image h w lo hi => s.imagePrint h w lo hi
  | .barrier b => match s.bar? k.id.block b.toNat with
    | some (_, x) => [.list [x.level, x.opened, x.arrivals (x.opened + 1), x.expected]]
    | none => []
  | .ticket n =>
    if n.toNat < 192 then
      let id := BitVec.ofNat 32 (rd (256 + n.toNat))
      [.word id, .word (BitVec.ofNat 32 (c.queryWord id))] else []
  | .ltState n => [.word (c.entry k.id.ctx n.toNat).ltqWord, .list [(c.entry k.id.ctx n.toNat).revived.toNat]]

/-- An image is printed without a stopped crew too. -/
def State.printFree (s : State) (f : PrintForm) : List Shown :=
  match f with
  | .image h w lo hi => s.imagePrint h w lo hi
  | _ => []

/-- PRINT; `focus` restricts it to the crews of its block (R360). -/
def execPrint (f : PrintForm) (s : State) : Host.Outcome State Fault Refusal :=
  s.event true fun s => s.show (match s.stoppedCrew with
    | some (r, k) => if s.watched k then s.printOf f r k else s.printFree f
    | none => s.printFree f)

/-- The PC of a stopped crew. -/
def Crew.pcNow (k : Crew) : Word := ((k.thread? k.readLane).map (·.pc)).getD 0

/-- A PC as the number of the last label before it and the bytes from there. -/
def labelled (labels : List Word) (pc : Word) : List Shown :=
  let before := labels.zipIdx.filter fun (a, _) => decide (a.toNat ≤ pc.toNat)
  match before.foldl (fun (b : Option (Word × Nat)) x => match b with
      | some y => if y.1.toNat ≤ x.1.toNat then some x else b
      | none => some x) none with
  | some (a, i) => [.list [i, pc.toNat - a.toNat]]
  | none => []

/-- WHERE (R356): PC, as an address and from its label, and HANDLING, with the trap class and HACT while it is 1. -/
def execWhere (s : State) : Host.Outcome State Fault Refusal :=
  s.tell fun _ k =>
    [.word k.pcNow] ++ labelled s.device.session.labels k.pcNow
      ++ [.list (if k.trap.handling then [1, k.trap.frame.cls, k.trap.hact.toNat] else [0])]

/-! ## Holding copies and forcing targets (R357) -/

/-- HOLD_COPY. -/
def execHoldCopy (s : State) : Host.Outcome State Fault Refusal :=
  s.atStopped fun s c => s.modCore c fun k => { k with holdCopy := true }

/-- RELEASE_COPY: the held requests start in the order of their acceptance. -/
def execReleaseCopy (s : State) : Host.Outcome State Fault Refusal :=
  s.atStopped fun s c => s.modCore c fun k =>
    { k with holdCopy := false, reqs := k.reqs.map fun r => if r.startable then { r with inTurn := true } else r }

/-- TARGET := n and FORCE := 1 (R153). -/
def State.forceTarget (s : State) (c n : Nat) : State :=
  let e : CapctlEv := { core := c, target := some n, pinQuota := none, force := some true, debug := true }
  s.modCore c fun k => { k with cap := k.cap.write e }

/-- CAP: now, or a time after the crew next resumes. -/
def execCap (n : Nat) (after : Option Nat) (s : State) : Host.Outcome State Fault Refusal :=
  s.atStopped fun s c => match after with
    | none => (s.forceTarget c n).modSession fun v => { v with capPrint := some (c, none) }
    | some t => s.modSession fun v =>
        { v with caps := v.caps ++ [{ core := c, target := n, tick := t, armed := false }] }

/-- CAP_AUTO. -/
def execCapAuto (s : State) : Host.Outcome State Fault Refusal :=
  s.atStopped fun s c =>
    let e : CapctlEv := { core := c, target := none, pinQuota := none, force := some false, debug := true }
    s.modCore c fun k => { k with cap := k.cap.write e }

/-- The delayed writes that are due. -/
def State.capsDue (s : State) : State :=
  let v := s.device.session
  let due := v.caps.filter fun x => x.armed && decide (x.tick ≤ s.tick)
  if due.isEmpty then s
  else (due.foldl (fun s x => s.forceTarget x.core x.target) s).modSession fun v =>
    { v with caps := v.caps.filter fun x => !(x.armed && decide (x.tick ≤ s.tick)) }

/-- `cap n` returns once Kale has acted and no dark instant is to come: it prints t0 and t1. -/
def State.capReturns (s : State) : State :=
  match s.device.session.capPrint with
  | none => s
  | some (c, t0) =>
    let k := s.core c
    match k.dooms.getLast? with
    | some d => if t0.isSome then s else s.modSession fun v => { v with capPrint := some (c, some d.t0) }
    | none =>
      if k.cap.pending then s
      else (s.show [.list (match t0 with
        | some t => [t, s.coreCycle c]
        | none => [])]).modSession fun v => { v with capPrint := none }

end Sys2Proof.Machine
end

