-- ==== Sys2Proof/Machine/Clock.lean ====
section
/-! DEFINITION. The passing of one fabric cycle (R178 to R182, R186 to R190, R77, R195), and the acts of the
outside that no row of the table names (log 8). -/

namespace Sys2Proof.Machine

/-! ## One core cycle of a core -/

/-- Counters 0x02 and 0x06 of a crew, and the watchdog's base while it does not count (R77, R195). -/
def Crew.cycle (k : Crew) (unpaid : Bool) (n : Nat) : Crew :=
  let waits := k.threads.any fun (_, t) => match t.st with
    | .parked (.wave _) => true
    | _ => false
  let k := if unpaid then k.addCntr 2 n else k
  let k := if waits then k.addCntr 6 n else k
  if k.wdStops then { k with counts := { k.counts with wdBase := k.counts.wdBase + n } } else k

/-- A crew waits for copies or matrix operations (R190). -/
def Crew.engineWaits (k : Crew) : Bool :=
  decide (k.parkedWhere (fun _ w => match w with
    | .tag _ | .ticket _ _ _ | .atomic _ | .image _ _ => true
    | _ => false) ≠ 0)

/-- A core's part of the stall-ratio counters in one core cycle. -/
def Core.stallOf (c : Core) (now : Nat) : StallCnt :=
  let used := (if c.lastA = some now then 1 else 0) + (if c.lastB = some now then 1 else 0)
  let held := c.demands.any fun d => !d.paid && match d.kind with
    | .group _ _ _ _ => true
    | _ => false
  { slots := 2, issued := used, tokwait := if held then 2 - used else 0,
    engwait := if c.slots.any (fun (_, k) => k.engineWaits) then 2 - used else 0, hung := 0 }

def StallCnt.add (a b : StallCnt) : StallCnt :=
  { slots := a.slots + b.slots, issued := a.issued + b.issued, tokwait := a.tokwait + b.tokwait,
    engwait := a.engwait + b.engwait, hung := a.hung + b.hung }

/-- A quad's counters before its cycle ends (R190). -/
def State.stallQuad (s : State) (q : Nat) : State :=
  let now := s.quadCycle q
  let cs := (List.range 4).map fun i => s.core (4 * q + i)
  let sum := cs.foldl (fun a c => a.add (c.stallOf now)) StallCnt.zero
  let hung := cs.any fun c => c.slots.any fun (_, k) => k.hungry
  s.modQuad q fun x => { x with stall := x.stall.add { sum with hung := hung.toNat } }

/-- A core cycle has passed on a core: what is due is done. -/
def State.coreTurn (s : State) (c : Nat) : State :=
  let unpaid := fun (k : Core) (slot : Nat) => k.demands.any fun d => !d.paid && decide (d.party = slot)
  let s := s.modCore c fun k => { k with slots := tmap k.slots fun slot w => w.cycle (unpaid k slot) 1 }
  let s := ((s.noteHunger c).drainLate c).wakeEngine c
  let s := ((s.core c).slots.map Prod.fst).foldl (fun s slot => s.placementStep c slot) s
  s.modCore c fun k => k.tidyPc (s.coreCycle c)

/-! ## The ring (R178) -/

/-- Every flit moves to the next stop. -/
def rotate (fs : List Flit) : List Flit :=
  match fs.getLast? with
  | some f => f :: fs.dropLast
  | none => []

/-- A core has something to do at its stop. -/
def Core.atStop (c : Core) : Bool :=
  c.tok.filling || decide (c.tok.level < c.tok.tkcap / 4) || !c.demands.isEmpty || c.tok.holds
    || c.tok.head.isSome

/-- What the cores of a die do at their stops in this cycle, and the head's wait. -/
def State.stopTurn (s : State) (c : Nat) : State :=
  if (s.core c).atStop then s.takeFlit c else s

/-- The ring of a die in one fabric cycle. -/
def State.ringTurn (s : State) (d : Nat) : State :=
  let s := if s.device.power.state = .active then s.inject d else s
  (List.range Config.coresPerDie).foldl (fun s i => s.stopTurn (64 * d + i)) s

/-! ## The fabric cycle -/

/-- The fabric cycle ends: flits move to their next stops, and a cycle for which the clocks are stopped is not theirs
(R101, R342). -/
def State.tickOver (s : State) : State :=
  let p := s.device.power
  { s with cycle := s.cycle + 1, moved := false
           dies := if s.clocked then tmap s.dies fun _ d => { d with flits := rotate d.flits } else s.dies
           device := { s.device with power := if s.clocked then p else { p with stopped := p.stopped + 1 } } }

/-- Core cycles that pass on a core with the fabric cycle. -/
def State.passes (s : State) (c : Nat) : Bool := decide (s.tickOver.coreCycle c ≠ s.coreCycle c)

/-- The front ends take in what queues hold and had to wait for (R332). -/
def State.takeAll (s : State) : State :=
  s.contexts.foldl (fun s (ctx, x) => x.queues.foldl (fun s (qi, q) =>
    if q.head = q.tail then s else s.wakeQueue ctx qi) s) s

/-- THE CLOCK: one fabric cycle passes. -/
def State.clockTurn (s : State) : State :=
  let s := s.capReturns
  let s := if s.clocked then (List.range Config.dies).foldl State.ringTurn s else s
  let busy := (s.cores.filter fun (_, c) => !c.slots.isEmpty || !c.late.isEmpty || !c.reqs.isEmpty).map Prod.fst
  let turned := busy.filter s.passes
  let s := ((List.range Config.quads).filter fun q => s.passes (4 * q)).foldl State.stallQuad s
  let s := s.tickOver
  let s := (s.quads.map Prod.fst).foldl State.rail s
  let s := turned.foldl State.coreTurn s
  let s := if s.clocked then s.takeAll else s
  s.capsDue

/-! ## Acts of the outside (log 8) -/

/-- System software makes a context with its code. -/
def State.makeContext (s : State) (ctx codeBase codeSize : Nat) (code : Mem) : State :=
  let x := { Context.empty with codeBase := codeBase, codeSize := codeSize, code := code }
  { s with contexts := tset s.contexts ctx x }

/-- It takes a page's translation away (R199). -/
def State.unmapPage (s : State) (ctx : Nat) (handle : BitVec 64) (page : Nat) : State :=
  s.modContext ctx fun x => { x with allocs := x.allocs.map fun a =>
    if a.handle = handle ∧ !a.unmapped.contains page then { a with unmapped := a.unmapped ++ [page] } else a }

/-- It reserves backing in a space (R81, R219). -/
def State.reserveSpace (s : State) (ctx space : Nat) : State :=
  s.modContext ctx fun x =>
    { x with reserved := if x.reserved.contains space then x.reserved else x.reserved ++ [space] }

/-- It sets up a queue, with SLOG in its range (R331). -/
def State.makeQueue (s : State) (ctx q : Nat) (base : BitVec 64) (slog : Nat) (ranged devfed : Bool) : State :=
  if 1 ≤ slog ∧ slog ≤ 15 then
    s.modQueue ctx q fun _ => { Queue.reset with base := base, slog := slog, ranged := ranged, devfed := devfed }
  else s

/-- The host sets its latency tolerance, in µs (R342). -/
def State.setTolerance (s : State) (us : Nat) : State := s.modPower fun p => { p with tolerance := us }

/-- A sensor of a die falls into a bin of the histograms, and rows of a class are corrected (R344). -/
def State.sample (s : State) (die temperature voltage : Nat) : State :=
  s.modField fun f => { f with temperature := addField f.temperature (16 * die + temperature % 16) 1
                               voltage := addField f.voltage (16 * die + voltage % 16) 1 }
def State.softError (s : State) (row : Nat) : State :=
  s.modField fun f => { f with softErrors := addField f.softErrors (row % 3) 1 }

/-- A report on the management link: 0 the measurement registers (R340), else the field data (R344). -/
def State.reportOut (s : State) (what : Nat) : State :=
  s.sendReport (if what = 0 then .measurements s.device.firmware.measured else .field s.device.field)

/-- nupdb attaches to a context, or leaves it. -/
def State.attachTo (s : State) (ctx : Option Nat) : State := s.modSession fun v => { v with attached := ctx }

end Sys2Proof.Machine
end

