-- ==== Sys2Proof/Machine/Auto.lean ====
section
/-! DEFINITION. What happens next where the agenda names nothing (log 1): the first event of the hardware that may
take place, else the group that has been READY longest, else the clock. Nothing rests on this choice: the agenda
can name every other one. -/

namespace Sys2Proof.Machine

/-- The first answer of a list of questions. -/
def firstOf {α : Type} (p : α → Option Instr) : List α → Option Instr
  | [] => none
  | a :: as => match p a with
    | some i => some i
    | none => firstOf p as

def ask (c : Bool) (i : Instr) : Option Instr := if c then some i else none

/-- An event of a crew. -/
def State.crewEvent (s : State) (r : SlotRef) (k : Crew) : Option Instr :=
  firstOf (fun (x : Bool × Instr) => ask x.1 x.2)
    [ (k.endedLevel.isSome, .loopEnd r),
      (s.maySave r k, .crewSave r),
      (decide (s.waveThreads r ≠ 0), .waveRelease r),
      (decide (s.sleepers r ≠ 0), .sleepWake r),
      (match k.capWait with
        | some (_, _, _, some d) => decide (d ≤ s.coreTick r.core)
        | _ => false, .waitcapDeadline r),
      (match k.claim with
        | some x => decide (x.expires ≤ s.coreTick r.core)
        | none => false, .claimExpiry r),
      (s.heldIdle r && (match tget? s.blocks k.id.block with
        | some b => decide (1 < b.left)
        | none => false), .crewRelease r),
      (s.wdDue r, .watchdog r) ]
  <|> ((k.threads.find? fun (l, _) => s.promotes r l).map fun (l, _) => Instr.threadPromotion r l)

/-- A request waits for the payment of a chunk. -/
def State.unpaid (s : State) (c : Nat) (r : Req) : Bool :=
  (s.core c).demands.any fun d => d.ofReq r.serial

/-- An event of a request. -/
def State.reqEvent (s : State) (c : Nat) (r : Req) : Option Instr :=
  let e : ReqRef := ⟨c, r.serial⟩
  let u := r.nextUnit
  firstOf (fun (x : Bool × Instr) => ask x.1 x.2)
    [ ((s.faultPage r).isSome, .pageFault e),
      (s.lateReader r.serial, .engineReadCancel e),
      (s.mayStart c r, .copyStart e),
      (r.landsWhole && r.started && s.mayMove r && s.mayEnd r, .copyLanding e),
      (r.bulkMoves && decide (u < r.units) && !r.chunks.contains u && s.mayMove r
        && (r.isPaid u || !s.unpaid c r), .copyChunk e u),
      (r.bulkMoves && r.allLanded && s.mayEnd r, if r.isMigr then .migrCommit e else .bulkCopyComplete e),
      (s.atomNow c r true, .atomUpdate e),
      (s.atomNow c r false, .atredUpdate e) ]

/-- The request in turn of a publish can go on. -/
def State.publishes (s : State) (c : Nat) : Bool :=
  match s.turn c with
  | some r => !(s.core c).holdCopy && s.mayMove r && !s.unpaid c r && (!s.lastLanding r || s.mayEnd r)
  | none => false

/-- An event of a core. -/
def State.coreEvent (s : State) (c : Nat) (k : Core) : Option Instr :=
  (firstOf (fun b => match k.bank b with
      | .waking t => ask (decide (t ≤ s.coreTick c)) (.bankWake c b)
      | _ => none) (k.banks.map Prod.fst))
  <|> ask (k.dooms.any (s.isDark c)) (.darkInstant c)
  <|> ask ((s.dueRecord c).isSome || s.canAdmit c) (.coalescerWrite c)
  <|> ((s.nextCap c).map fun (slot, _, _) => Instr.waitcapWake ⟨c, slot⟩)
  <|> firstOf (fun (slot, w) => s.crewEvent ⟨c, slot⟩ w) k.slots
  <|> ask (s.publishes c) (.publishRequestLanding c)
  <|> firstOf (s.reqEvent c) k.reqs

/-- An event of a quad. -/
def State.quadEvent (s : State) (q : Nat) (x : Quad) : Option Instr :=
  firstOf (fun (x : Bool × Instr) => ask x.1 x.2)
    [ ((s.finished q false).isSome, .matrixOpComplete q false),
      ((s.finished q true).isSome, .matrixOpComplete q true),
      ((s.gatherable q).isSome, .mmasGather q),
      ((s.loadable q).isSome, .bTileLoad q),
      ((s.nextGrant q).isSome, .matrixGrant q),
      (decide (x.snapAt + 10000 ≤ s.tick), .stallCounterSnapshot q) ]
  <|> firstOf (fun i =>
      match (x.banks[i]?).map (·.use) with
      | some (BankUse.filling _) => some (.bankFill q i)
      | _ => ask ((x.spilled i).isSome || x.mustSpill i) (.bankSpill q i)) [0, 1]
  <|> firstOf (fun r => ask (s.drainPage q r).isSome (.pageFault ⟨r.core, r.serial⟩)) x.table
  <|> firstOf (fun r => ask (r.granted && s.lateReader r.serial) (.engineReadCancel ⟨r.core, r.serial⟩)) x.table

/-- The key of a barrier of a block or launch. -/
def keyOf (i : Nat) (wide : Bool) (b : Nat) : Nat := 32 * i + 2 * b + wide.toNat

def State.barEvent (s : State) (i : Nat) (wide : Bool) (bars : Tab Bar) : Option Instr :=
  firstOf (fun (b, x) => ask (s.genReady (keyOf i wide b) x) (.generationOpen (keyOf i wide b))) bars

/-- An event of a block. -/
def State.blockEvent (s : State) (i : Nat) (b : Block) : Option Instr :=
  firstOf (fun (x : Bool × Instr) => ask x.1 x.2)
    [ (s.bindNext i, .prologueBinding i), (s.canStart i, .crewStart i), (s.blockOver i, .blockComplete i),
      (s.quantumOver i, .timeSliceEviction i) ]
  <|> s.barEvent i false b.bars

/-- The lowest crew numbers that are free. -/
def State.newIds (s : State) (ctx n : Nat) : List (BitVec 16) :=
  let used := s.idsInUse ctx
  (((List.range (used.length + n)).map fun i => BitVec.ofNat 16 i).filter fun i => !used.contains i).take n

/-- A placement on the lowest cores that take the block. -/
def State.placeEvent (s : State) (l : Nat) (x : Launch) : Option Instr :=
  match x.waiting.head? with
  | none => none
  | some b =>
    if s.nextLaunch ≠ some l ∨ !s.isNew l b then none
    else
      let ids := s.newIds x.ctx x.record.crews
      let ev := fun (cores : List Nat) => PlaceEv.mk l b cores ids
      let room := fun (c : Nat) => (s.core c).roomFor x.record.vallot
      let choices := if x.record.oneCore then (List.range Config.cores).map fun c => [c]
        else (List.range Config.quads).map fun q =>
          (fillCores room x.record.crews ((List.range 4).map (4 * q + ·))).map Prod.fst
      firstOf (fun cores => ask (s.placing (ev cores)).isSome (.blockPlacement (ev cores))) choices

/-- An event of a launch. -/
def State.launchEvent (s : State) (l : Nat) (x : Launch) : Option Instr :=
  if x.completed then none
  else ask x.isOver (.launchComplete l) <|> s.barEvent l true x.bars <|> s.placeEvent l x

/-- An event of a queue's window. -/
def State.recEvent (s : State) (ctx q i : Nat) : Option Instr :=
  let r : RecRef := ⟨ctx, q, i⟩
  match s.recReady ctx q i with
  | none => none
  | some w =>
    if !s.working then none
    else match w.record.kind with
      | 0 => ask (w.skip || (s.refuses ctx w.record).isSome || s.wideFree w.record) (.launchRelease r)
      | 1 => some (.cond r)
      | 2 => ask (w.skip || s.eventFree r w) (.signal r)
      | _ =>
        let b := (s.context ctx).ccb
        let v := (s.deviceWord b.qtBase (eventOff b.nq w.eventNo)).toNat
        ask (w.skip || decide (w.record.pred.toNat % 2 ^ 32 ≤ v)) (.wait r)

/-- An event of a context. -/
def State.contextEvent (s : State) (ctx : Nat) (x : Context) : Option Instr :=
  firstOf (fun (q, w) => firstOf (s.recEvent ctx q) (List.range w.window.length)) x.queues
  <|> ask (s.ckptDue ctx) (.checkpoint ctx)
  <|> firstOf (fun (v, i) => match (s.core v.core).freeSlots with
      | slot :: _ => ask (s.canRestore ctx v slot) (.crewRestore ⟨ctx, i, slot⟩)
      | [] => none) x.saved.zipIdx

/-- An event of a die's tasks: crews are formed on the home core, or on the first core that has room. -/
def State.taskEvent (s : State) (d bin : Nat) : Option Instr :=
  match s.inBin d bin with
  | [] => none
  | r :: rs =>
    let n := rs.length + 1
    let due := match r.binned with
      | some t => decide (t + 2000 ≤ s.tick)
      | none => false
    if n < Config.lanes ∧ !due then none
    else
      let cores := if r.hany then List.range Config.coresPerDie else [r.hcore]
      let id := (s.newIds r.ctx 1).headD 0
      firstOf (fun c =>
        let e : TaskEv := ⟨d, bin, 64 * d + c, id⟩
        ask (s.taskRoom e r) (if n < Config.lanes then .taskBinTimeout e else .taskCrewForm e)) cores

/-- The first event of the hardware that may take place. -/
def State.nextEvent (s : State) : Option Instr :=
  firstOf (fun (c, _) => ask (s.kaleDue c && s.atStart c) (.kaleDoom c)) s.cores
  <|> firstOf (fun (c, k) => s.coreEvent c k) s.cores
  <|> firstOf (fun (q, x) => s.quadEvent q x) s.quads
  <|> firstOf (fun (i, b) => s.blockEvent i b) s.blocks
  <|> firstOf (fun (l, x) => s.launchEvent l x) s.launches
  <|> firstOf (fun (i, x) => s.contextEvent i x) s.contexts
  <|> firstOf (fun (d, x) => firstOf (s.taskEvent d) (List.range x.bins.length)) s.dies

/-- A group that might issue: since when it has been READY, its core, slot and PC. -/
structure IssueTurn where
  since : Nat
  core : Nat
  slot : Nat
  pc : Word

/-- READY threads of a crew, by PC. -/
def State.crewTurns (s : State) (c slot : Nat) (k : Crew) : List IssueTurn :=
  let now := s.coreCycle c
  if !k.runs now || !s.mayIssue ⟨c, slot⟩ k then []
  else k.threads.foldl (fun (l : List IssueTurn) (_, t) =>
    if t.isReady now && !l.any (fun x => decide (x.pc = t.pc)) then ⟨t.since, c, slot, t.pc⟩ :: l else l) []

/-- Groups that have been paid. -/
def Core.paidTurns (k : Core) (c : Nat) : List IssueTurn :=
  k.demands.filterMap fun d => match d.kind with
    | .group slot _ pc _ => if d.paid then some ⟨d.since, c, slot, pc⟩ else none
    | _ => none

def IssueTurn.insert (x : IssueTurn) : List IssueTurn → List IssueTurn
  | [] => [x]
  | y :: ys => if x.since ≤ y.since then x :: y :: ys else y :: x.insert ys

/-- The group that issues next. -/
def State.nextIssue (s : State) : Option IssueTurn :=
  let xs := s.cores.flatMap fun (c, k) =>
    k.paidTurns c ++ k.slots.flatMap fun (slot, w) => s.crewTurns c slot w
  (xs.foldr IssueTurn.insert []).find? fun x => match s.crew? x.core x.slot with
    | none => false
    | some k => s.mayIssue ⟨x.core, x.slot⟩ k && match (s.turnOf x.core x.slot x.pc).1 with
      | .nothing => false
      | _ => true

/-- The turn that is taken where the agenda is empty. -/
def State.auto (s : State) : Turn :=
  match s.nextEvent with
  | some i => .event i
  | none => match s.nextIssue with
    | some x => .issue x.core x.slot x.pc
    | none => .clock

/-! ## An instruction placed for the next step (log 8) -/

/-- The launch of a crew that stands at an instruction: one block of one crew, v0 to v255. -/
def standRecord : LaunchRec :=
  { parseRecord 0 with crews := 1, vallot := 256, grid := [1, 1, 1], shape := [1, 1, 1], images := [] }

/-- The crew of 64 threads. -/
def standCrew (pc : Word) (now : Nat) : Crew :=
  let id : CrewId :=
    { ctx := 0, launch := 0, block := 0, index := 0, crewId := 0, vallot := 256, high := false, regroup := false,
      spawned := false, age := 0, entered := now }
  standRecord.crew .run id (standRecord.threads pc now) now

/-- Where the instruction is placed. -/
def standPc : Word := 0x4000

/-- A machine in which a crew of a privileged context stands in slot 0 of core 0 at an instruction of the bytes
given, and whose next turn is that crew's. -/
def State.standAt (s : State) (bytes : List Byte) : State :=
  let x := { Context.empty with
    codeBase := 0x4000, codeSize := 0x1000, code := Memory.writeN [] standPc.toNat bytes,
    ccb := { Ccb.reset with priv := true } }
  let now := s.coreCycle 0
  let c := s.core 0
  let k := standCrew standPc now
  let b := { Block.make 0 0 [0, 0, 0] false [0] 1 1 1 s.tick [] with crews := [⟨0, 0⟩], started := true }
  let l := { standRecord.launch 0 none with waiting := [], elems := [⟨[], false⟩], total := 1 }
  let c := { c with slots := tset c.slots 0 k, pcTable := [], lastA := none, lastB := none,
                    tok := { c.tok with level := c.tok.tkcap } }
  let s := s.setCore 0 c
  { s with contexts := tset s.contexts 0 x, launches := tset s.launches 0 l, blocks := tset s.blocks 0 b,
           agenda := .issue 0 0 standPc :: s.agenda }

end Sys2Proof.Machine
end

