-- ==== Sys2Proof/Machine/Float.lean ====
section
/-! DEFINITION. The FP32 group (R110, R111). -/

namespace Sys2Proof.Machine

/-- The F32 pattern of a register. -/
def Thread.f32 (t : Thread) (c : RegCode) : Nat := (t.reg c).toNat

/-- A predicate result of FSET. -/
def setRes (d : RegCode) (r : Bool × Nat) : LaneRes :=
  ⟨pKey (predOf d), BitVec.ofNat 32 r.1.toNat, r.2⟩

/-- FADD (R110). -/
def execFadd (h : Hdr) (o : Op3) (s : State) : Host.Outcome State Fault Refusal :=
  runFp (.fadd h o) h o.d 4 (fun ftz t =>
    (fadd F32 (rmodeOf o.ext.toNat) ftz (t.f32 o.a) (t.f32 o.b)).to o.d) s

/-- FSUB (R110). -/
def execFsub (h : Hdr) (o : Op3) (s : State) : Host.Outcome State Fault Refusal :=
  runFp (.fsub h o) h o.d 4 (fun ftz t =>
    (fsub F32 (rmodeOf o.ext.toNat) ftz (t.f32 o.a) (t.f32 o.b)).to o.d) s

/-- FMUL (R110). -/
def execFmul (h : Hdr) (o : Op3) (s : State) : Host.Outcome State Fault Refusal :=
  runFp (.fmul h o) h o.d 4 (fun ftz t =>
    (fmul F32 (rmodeOf o.ext.toNat) ftz (t.f32 o.a) (t.f32 o.b)).to o.d) s

/-- FFMA, one rounding (R110). -/
def execFfma (h : Hdr) (o : Op3) (s : State) : Host.Outcome State Fault Refusal :=
  runFp (.ffma h o) h o.d 4 (fun ftz t =>
    (ffma F32 (rmodeOf o.ext.toNat) ftz (t.f32 o.a) (t.f32 o.b) (t.f32 o.d)).to o.d) s

/-- FMIN (R110). -/
def execFmin (h : Hdr) (o : Op3) (s : State) : Host.Outcome State Fault Refusal :=
  runFp (.fmin h o) h o.d 4 (fun ftz t =>
    (minmax F32 false ftz (t.f32 o.a) (t.f32 o.b)).to o.d) s

/-- FMAX (R110). -/
def execFmax (h : Hdr) (o : Op3) (s : State) : Host.Outcome State Fault Refusal :=
  runFp (.fmax h o) h o.d 4 (fun ftz t =>
    (minmax F32 true ftz (t.f32 o.a) (t.f32 o.b)).to o.d) s

/-- FNEG (R110). -/
def execFneg (h : Hdr) (o : Op3) (s : State) : Host.Outcome State Fault Refusal :=
  runFp (.fneg h o) h o.d 4 (fun ftz t =>
    (negAbs F32 true ftz (t.f32 o.a)).to o.d) s

/-- FABS (R110). -/
def execFabs (h : Hdr) (o : Op3) (s : State) : Host.Outcome State Fault Refusal :=
  runFp (.fabs h o) h o.d 4 (fun ftz t =>
    (negAbs F32 false ftz (t.f32 o.a)).to o.d) s

/-- FSET (R110). -/
def execFset (h : Hdr) (o : Op3) (s : State) : Host.Outcome State Fault Refusal :=
  runFp (.fset h o) h o.d 4 (fun ftz t =>
    setRes o.d (fset F32 o.mod.toNat ftz (t.f32 o.a) (t.f32 o.b))) s

/-- FCLASS: no flag (R110). -/
def execFclass (h : Hdr) (o : Op3) (s : State) : Host.Outcome State Fault Refusal :=
  runFp (.fclass h o) h o.d 4 (fun ftz t =>
    ⟨o.d.toNat, BitVec.ofNat 32 (fclass F32 ftz (t.f32 o.a)), 0⟩) s

/-- FRCP (R54) (R110). -/
def execFrcp (h : Hdr) (o : Op3) (s : State) : Host.Outcome State Fault Refusal :=
  runFp (.frcp h o) h o.d 8 (fun ftz t =>
    (approxF .rcp ftz (t.f32 o.a)).to o.d) s

/-- FRSQ (R54) (R110). -/
def execFrsq (h : Hdr) (o : Op3) (s : State) : Host.Outcome State Fault Refusal :=
  runFp (.frsq h o) h o.d 8 (fun ftz t =>
    (approxF .rsq ftz (t.f32 o.a)).to o.d) s

/-- FEXP2 (R54) (R110). -/
def execFexp2 (h : Hdr) (o : Op3) (s : State) : Host.Outcome State Fault Refusal :=
  runFp (.fexp2 h o) h o.d 8 (fun ftz t =>
    (approxF .exp2 ftz (t.f32 o.a)).to o.d) s

/-- FLOG2 (R54) (R110). -/
def execFlog2 (h : Hdr) (o : Op3) (s : State) : Host.Outcome State Fault Refusal :=
  runFp (.flog2 h o) h o.d 8 (fun ftz t =>
    (approxF .log2 ftz (t.f32 o.a)).to o.d) s

/-- FTANH (R54) (R110). -/
def execFtanh (h : Hdr) (o : Op3) (s : State) : Host.Outcome State Fault Refusal :=
  runFp (.ftanh h o) h o.d 8 (fun ftz t =>
    (approxF .tanh ftz (t.f32 o.a)).to o.d) s

/-- FSCALEB: RN(a × 2^S(b)) (R110). -/
def execFscaleb (h : Hdr) (o : Op3) (s : State) : Host.Outcome State Fault Refusal :=
  runFp (.fscaleb h o) h o.d 4 (fun ftz t =>
    (fscaleb ftz (t.f32 o.a) (t.reg o.b).toInt).to o.d) s

/-- FADD with an immediate (R110). -/
def execFaddImm (h : Hdr) (o : OpI) (s : State) : Host.Outcome State Fault Refusal :=
  runFp (.faddImm h o) h o.d 4 (fun ftz t =>
    (fadd F32 (rmodeOf o.ext.toNat) ftz (t.f32 o.a) o.imm.toNat).to o.d) s

/-- FSUB with an immediate (R110). -/
def execFsubImm (h : Hdr) (o : OpI) (s : State) : Host.Outcome State Fault Refusal :=
  runFp (.fsubImm h o) h o.d 4 (fun ftz t =>
    (fsub F32 (rmodeOf o.ext.toNat) ftz (t.f32 o.a) o.imm.toNat).to o.d) s

/-- FMUL with an immediate (R110). -/
def execFmulImm (h : Hdr) (o : OpI) (s : State) : Host.Outcome State Fault Refusal :=
  runFp (.fmulImm h o) h o.d 4 (fun ftz t =>
    (fmul F32 (rmodeOf o.ext.toNat) ftz (t.f32 o.a) o.imm.toNat).to o.d) s

/-- FFMA with an immediate (R110). -/
def execFfmaImm (h : Hdr) (o : OpI) (s : State) : Host.Outcome State Fault Refusal :=
  runFp (.ffmaImm h o) h o.d 4 (fun ftz t =>
    (ffma F32 (rmodeOf o.ext.toNat) ftz (t.f32 o.a) o.imm.toNat (t.f32 o.d)).to o.d) s

/-- FMIN with an immediate (R110). -/
def execFminImm (h : Hdr) (o : OpI) (s : State) : Host.Outcome State Fault Refusal :=
  runFp (.fminImm h o) h o.d 4 (fun ftz t =>
    (minmax F32 false ftz (t.f32 o.a) o.imm.toNat).to o.d) s

/-- FMAX with an immediate (R110). -/
def execFmaxImm (h : Hdr) (o : OpI) (s : State) : Host.Outcome State Fault Refusal :=
  runFp (.fmaxImm h o) h o.d 4 (fun ftz t =>
    (minmax F32 true ftz (t.f32 o.a) o.imm.toNat).to o.d) s

/-- FSET with an immediate (R110). -/
def execFsetImm (h : Hdr) (o : OpI) (s : State) : Host.Outcome State Fault Refusal :=
  runFp (.fsetImm h o) h o.d 4 (fun ftz t =>
    setRes o.d (fset F32 o.mod.toNat ftz (t.f32 o.a) o.imm.toNat)) s

/-- FSCALEB with an immediate (R110). -/
def execFscalebImm (h : Hdr) (o : OpI) (s : State) : Host.Outcome State Fault Refusal :=
  runFp (.fscalebImm h o) h o.d 4 (fun ftz t =>
    (fscaleb ftz (t.f32 o.a) o.imm.toInt).to o.d) s

end Sys2Proof.Machine
end

