-- ==== Sys2Proof/Machine/CrossLane.lean ====
section
/-! DEFINITION. Cross-lane instructions (R119 to R126). The gate has gathered the NAMED threads: they
are the group; PART is the lanes whose guard holds. -/

namespace Sys2Proof.Machine

/-- A of a lane. -/
def Crew.laneReg (k : Crew) (a : RegCode) (l : Nat) : Word :=
  match k.thread? l with
  | some t => t.reg a
  | none => 0

/-- A shuffle's result in a lane: A of the source lane where it is NAMED, else its own (R121). -/
def Crew.pick (k : Crew) (named : Mask) (a : RegCode) (l : Nat) (src : Option Nat) : Word :=
  match src with
  | some x => if decide (x < 64) && named.getLsbD x then k.laneReg a x else k.laneReg a l
  | none => k.laneReg a l

/-- The shuffles and BCAST: `src` of a lane. -/
def runShuffle (i : Instr) (h : Hdr) (o : LaneOp) (src : Thread → Nat → Option Nat) (s : State) :
    Host.Outcome State Fault Refusal :=
  s.run i h fun s g =>
    (s.write g h o.d 3 fun l k t => k.pick g.mask o.a l (src t l)).finish g h

/-- SHFL (R121). -/
def execShfl (h : Hdr) (o : LaneOp) (s : State) : Host.Outcome State Fault Refusal :=
  runShuffle (.shfl h o) h o (fun t _ => some (t.reg o.b).toNat) s

/-- OFF of SHFR (R122). -/
def ShfrCtl.off (c : ShfrCtl) : Int :=
  if c.rel then (if c.neg then -((64 / 2 ^ c.j.toNat : Nat) : Int) else (64 / 2 ^ c.j.toNat : Nat))
  else c.k.toInt

/-- The lane OFF away, wrapped or clamped (R121). -/
def shfrLane (off : Int) (wrap : Bool) (l : Nat) : Option Nat :=
  let p := (l : Int) + off
  if wrap then some (p % 64).toNat
  else if 0 ≤ p ∧ p < 64 then some p.toNat
  else none

/-- SHFR (R121). -/
def execShfr (h : Hdr) (o : LaneOp) (c : ShfrCtl) (s : State) : Host.Outcome State Fault Refusal :=
  runShuffle (.shfr h o c) h o (fun _ l => shfrLane (ShfrCtl.off c) c.wrap l) s

/-- SHFX (R121). -/
def execShfx (h : Hdr) (o : LaneOp) (x : BitVec 6) (s : State) : Host.Outcome State Fault Refusal :=
  runShuffle (.shfx h o x) h o (fun _ l => some (l ^^^ x.toNat)) s

/-- BCAST (R121). -/
def execBcast (h : Hdr) (o : LaneOp) (l : BitVec 7) (s : State) : Host.Outcome State Fault Refusal :=
  runShuffle (.bcast h o l) h o (fun _ _ => some l.toNat) s

/-! ## RED and SCAN -/

/-- An operand of the tree: absent, or a pattern with the flags raised on the way (R123). -/
abbrev Leaf := Option (Nat × Nat)

/-- ⊕ of an operation (R123). -/
def combine (op : Nat) (ftz : Bool) (x y : Nat) : FR :=
  let a := BitVec.ofNat 32 x
  let b := BitVec.ofNat 32 y
  let w := fun (v : Word) => FR.mk v.toNat 0
  match op with
  | 0 => w (a + b)
  | 1 => fadd F32 .rn ftz x y
  | 2 => w (fnMin 0 a b)
  | 3 => w (fnMin 1 a b)
  | 4 => w (fnMax 0 a b)
  | 5 => w (fnMax 1 a b)
  | 6 => minmax F32 false ftz x y
  | 7 => minmax F32 true ftz x y
  | 8 => w (a &&& b)
  | 9 => w (a ||| b)
  | _ => w (a ^^^ b)

def meet (op : Nat) (ftz : Bool) (x y : Leaf) : Leaf :=
  match x, y with
  | none, y => y
  | x, none => x
  | some (a, f), some (b, f') =>
    let r := combine op ftz a b
    some (r.bits, f ||| f' ||| r.flags)

/-- One level of RED's tree over adjacent pairs. -/
def redLevel (op : Nat) (ftz : Bool) : List Leaf → List Leaf
  | x :: y :: r => meet op ftz x y :: redLevel op ftz r
  | l => l

/-- RED's tree over 64 leaves (R123). -/
def redTree (op : Nat) (ftz : Bool) (leaves : List Leaf) : Leaf :=
  ((iter (redLevel op ftz) 6 leaves).head?).getD none

/-- One level of SCAN: position q meets position q − 2^k. -/
def scanLevel (op : Nat) (ftz : Bool) (y : List Leaf) (k : Nat) : List Leaf :=
  (List.replicate (2 ^ k) none ++ y).zipWith (meet op ftz) y

/-- SCAN's levels, in the order of positions, with the union of all flags raised (R124). -/
def scanTree (op : Nat) (ftz : Bool) (y : List Leaf) : List Leaf :=
  (List.range 6).foldl (scanLevel op ftz) y

/-- IDENT (R124). -/
def ident (op : Nat) : Nat :=
  [0, 0, 0x7FFFFFFF, 0xFFFFFFFF, 0x80000000, 0, 0x7F800000, 0xFF800000, 0xFFFFFFFF, 0, 0].getD op 0

/-- The leaves of PART in the order of lanes. -/
def Crew.leaves (k : Crew) (part : Mask) (a : RegCode) : List Leaf :=
  (List.range 64).map fun l => if part.getLsbD l then some ((k.laneReg a l).toNat, 0) else none

/-- RED and SCAN of the gathered group: every PART lane's result and the flags of the tree; an enabled
flag makes every PART lane fault (R123). -/
def runTree (i : Instr) (h : Hdr) (d : RegCode)
    (f : Bool → Crew → Mask → List (Nat × Nat) × Nat) (s : State) :
    Host.Outcome State Fault Refusal :=
  s.run i h fun s g =>
    match s.crew? g.core g.slot with
    | none => s
    | some k =>
      let part := k.holding h g.mask
      let (rs, flags) := f (ftzOf (k.ctlAt g.mask)) k part
      let res := rs.map fun (l, v) => (l, LaneRes.mk d.toNat (BitVec.ofNat 32 v) flags)
      s.fpPart g h d 6 g.slot g.mask res true

/-- RED (R123). -/
def execRed (h : Hdr) (o : LaneOp) (op : BitVec 4) (s : State) : Host.Outcome State Fault Refusal :=
  runTree (.red h o op) h o.d (fun ftz k part =>
    match redTree op.toNat ftz (k.leaves part o.a) with
    | none => ([], 0)
    | some (v, fl) => ((lanesOf part).map fun l => (l, v), fl)) s

/-- SCAN (R124). -/
def execScan (h : Hdr) (o : LaneOp) (op : BitVec 4) (exc rev : Bool) (s : State) :
    Host.Outcome State Fault Refusal :=
  runTree (.scan h o op exc rev) h o.d (fun ftz k part =>
    let turn := fun (y : List Leaf) => if rev then y.reverse else y
    let y := scanTree op.toNat ftz (turn (k.leaves part o.a))
    let shifted := if exc then none :: y.dropLast else y
    let at' := turn shifted
    let flags := y.foldl (fun acc x => acc ||| (x.map (·.2)).getD 0) 0
    ((lanesOf part).map fun l => (l, (((at'.getD l none)).map (·.1)).getD (ident op.toNat)), flags)) s

/-! ## VOTE and MATCH -/

/-- PART lanes in which the predicate of VOTE's A field holds (R125). -/
def Crew.ballot (k : Crew) (part : Mask) (q : PIdx) : Mask :=
  maskFilter part fun l => match k.thread? l with
    | some t => t.pred q
    | none => false

/-- VOTE (R125). -/
def execVote (h : Hdr) (o : LaneOp) (mode : BitVec 2) (s : State) : Host.Outcome State Fault Refusal :=
  s.run (.vote h o mode) h fun s g =>
    let b := fun (k : Crew) => k.ballot (k.holding h g.mask) (predOf o.a)
    let s := match mode.toNat with
      | 0 => s.writeP g h (predOf o.d) 3 fun _ k _ => decide (b k ≠ 0)
      | 1 => s.writeP g h (predOf o.d) 3 fun _ k _ => decide (b k = k.holding h g.mask)
      | _ => s.writePair g h o.d 3 fun _ k _ => (b k).toNat
    s.finish g h

/-- MATCH (R126). -/
def execMatchLanes (h : Hdr) (o : LaneOp) (s : State) : Host.Outcome State Fault Refusal :=
  s.run (.matchLanes h o) h fun s g =>
    (s.writePair g h o.d 3 fun l k _ =>
      (maskFilter (k.holding h g.mask) fun x =>
        decide (k.laneReg o.a x = k.laneReg o.a l)).toNat).finish g h

end Sys2Proof.Machine
end

