-- ==== Sys2Proof/Machine/Integer.lean ====
section
/-! DEFINITION. The integer group and SEL (R106 to R109). -/

namespace Sys2Proof.Machine

/-- IADD (R107). -/
def execIadd (h : Hdr) (o : Op3) (s : State) : Host.Outcome State Fault Refusal :=
  runInt (.iadd h o) h o.d 2 (fun t => fnAdd o.mod (t.reg o.a) (t.reg o.b)) s

/-- ISUB (R107). -/
def execIsub (h : Hdr) (o : Op3) (s : State) : Host.Outcome State Fault Refusal :=
  runInt (.isub h o) h o.d 2 (fun t => fnSub o.mod (t.reg o.a) (t.reg o.b)) s

/-- IMUL (R107). -/
def execImul (h : Hdr) (o : Op3) (s : State) : Host.Outcome State Fault Refusal :=
  runInt (.imul h o) h o.d 2 (fun t => t.reg o.a * (t.reg o.b)) s

/-- IMULH (R107). -/
def execImulh (h : Hdr) (o : Op3) (s : State) : Host.Outcome State Fault Refusal :=
  runInt (.imulh h o) h o.d 2 (fun t => fnMulh o.mod (t.reg o.a) (t.reg o.b)) s

/-- IMAD (R107). -/
def execImad (h : Hdr) (o : Op3) (s : State) : Host.Outcome State Fault Refusal :=
  runInt (.imad h o) h o.d 2 (fun t => t.reg o.a * (t.reg o.b) + t.reg o.d) s

/-- IMIN (R107). -/
def execImin (h : Hdr) (o : Op3) (s : State) : Host.Outcome State Fault Refusal :=
  runInt (.imin h o) h o.d 2 (fun t => fnMin o.mod (t.reg o.a) (t.reg o.b)) s

/-- IMAX (R107). -/
def execImax (h : Hdr) (o : Op3) (s : State) : Host.Outcome State Fault Refusal :=
  runInt (.imax h o) h o.d 2 (fun t => fnMax o.mod (t.reg o.a) (t.reg o.b)) s

/-- IABS (R107). -/
def execIabs (h : Hdr) (o : Op3) (s : State) : Host.Outcome State Fault Refusal :=
  runInt (.iabs h o) h o.d 2 (fun t => fnAbs (t.reg o.b)) s

/-- AND (R107). -/
def execAnd (h : Hdr) (o : Op3) (s : State) : Host.Outcome State Fault Refusal :=
  runInt (.and h o) h o.d 2 (fun t => t.reg o.a &&& (t.reg o.b)) s

/-- OR (R107). -/
def execOr (h : Hdr) (o : Op3) (s : State) : Host.Outcome State Fault Refusal :=
  runInt (.or h o) h o.d 2 (fun t => t.reg o.a ||| (t.reg o.b)) s

/-- XOR (R107). -/
def execXor (h : Hdr) (o : Op3) (s : State) : Host.Outcome State Fault Refusal :=
  runInt (.xor h o) h o.d 2 (fun t => t.reg o.a ^^^ (t.reg o.b)) s

/-- ANDN (R107). -/
def execAndn (h : Hdr) (o : Op3) (s : State) : Host.Outcome State Fault Refusal :=
  runInt (.andn h o) h o.d 2 (fun t => t.reg o.a &&& ~~~(t.reg o.b)) s

/-- SHL (R107). -/
def execShl (h : Hdr) (o : Op3) (s : State) : Host.Outcome State Fault Refusal :=
  runInt (.shl h o) h o.d 2 (fun t => fnShl (t.reg o.a) (t.reg o.b)) s

/-- SHR (R107). -/
def execShr (h : Hdr) (o : Op3) (s : State) : Host.Outcome State Fault Refusal :=
  runInt (.shr h o) h o.d 2 (fun t => fnShr (t.reg o.a) (t.reg o.b)) s

/-- SAR (R107). -/
def execSar (h : Hdr) (o : Op3) (s : State) : Host.Outcome State Fault Refusal :=
  runInt (.sar h o) h o.d 2 (fun t => fnSar (t.reg o.a) (t.reg o.b)) s

/-- BFX (R107). -/
def execBfx (h : Hdr) (o : Op3) (s : State) : Host.Outcome State Fault Refusal :=
  runInt (.bfx h o) h o.d 2 (fun t => fnBfx o.mod (t.reg o.a) (t.reg o.b)) s

/-- BFI (R107). -/
def execBfi (h : Hdr) (o : Op3) (s : State) : Host.Outcome State Fault Refusal :=
  runInt (.bfi h o) h o.d 2 (fun t => fnBfi (t.reg o.a) (t.reg o.b) (t.reg o.d)) s

/-- POPC (R107). -/
def execPopc (h : Hdr) (o : Op3) (s : State) : Host.Outcome State Fault Refusal :=
  runInt (.popc h o) h o.d 2 (fun t => fnPopc (t.reg o.b)) s

/-- CLZ (R107). -/
def execClz (h : Hdr) (o : Op3) (s : State) : Host.Outcome State Fault Refusal :=
  runInt (.clz h o) h o.d 2 (fun t => fnClz (t.reg o.b)) s

/-- BREV (R107). -/
def execBrev (h : Hdr) (o : Op3) (s : State) : Host.Outcome State Fault Refusal :=
  runInt (.brev h o) h o.d 2 (fun t => fnBrev (t.reg o.b)) s

/-- ISET: a predicate per thread (R107, R108). -/
def execIset (h : Hdr) (o : Op3) (s : State) : Host.Outcome State Fault Refusal :=
  s.run (.iset h o) h fun s g =>
    (s.writeP g h (predOf o.d) 2 fun _ _ t => fnSet o.mod o.ext (t.reg o.a) (t.reg o.b)).finish g h

/-- MOV (R107). -/
def execMov (h : Hdr) (o : Op3) (s : State) : Host.Outcome State Fault Refusal :=
  runInt (.mov h o) h o.d 2 (fun t => t.reg o.b) s

/-! Immediate forms: the immediate replaces source B (R106). -/

/-- IADD with an immediate (R107). -/
def execIaddImm (h : Hdr) (o : OpI) (s : State) : Host.Outcome State Fault Refusal :=
  runInt (.iaddImm h o) h o.d 2 (fun t => fnAdd o.mod (t.reg o.a) o.imm) s

/-- ISUB with an immediate (R107). -/
def execIsubImm (h : Hdr) (o : OpI) (s : State) : Host.Outcome State Fault Refusal :=
  runInt (.isubImm h o) h o.d 2 (fun t => fnSub o.mod (t.reg o.a) o.imm) s

/-- IMUL with an immediate (R107). -/
def execImulImm (h : Hdr) (o : OpI) (s : State) : Host.Outcome State Fault Refusal :=
  runInt (.imulImm h o) h o.d 2 (fun t => t.reg o.a * o.imm) s

/-- IMULH with an immediate (R107). -/
def execImulhImm (h : Hdr) (o : OpI) (s : State) : Host.Outcome State Fault Refusal :=
  runInt (.imulhImm h o) h o.d 2 (fun t => fnMulh o.mod (t.reg o.a) o.imm) s

/-- IMAD with an immediate (R107). -/
def execImadImm (h : Hdr) (o : OpI) (s : State) : Host.Outcome State Fault Refusal :=
  runInt (.imadImm h o) h o.d 2 (fun t => t.reg o.a * o.imm + t.reg o.d) s

/-- IMIN with an immediate (R107). -/
def execIminImm (h : Hdr) (o : OpI) (s : State) : Host.Outcome State Fault Refusal :=
  runInt (.iminImm h o) h o.d 2 (fun t => fnMin o.mod (t.reg o.a) o.imm) s

/-- IMAX with an immediate (R107). -/
def execImaxImm (h : Hdr) (o : OpI) (s : State) : Host.Outcome State Fault Refusal :=
  runInt (.imaxImm h o) h o.d 2 (fun t => fnMax o.mod (t.reg o.a) o.imm) s

/-- IABS with an immediate (R107). -/
def execIabsImm (h : Hdr) (o : OpI) (s : State) : Host.Outcome State Fault Refusal :=
  runInt (.iabsImm h o) h o.d 2 (fun _ => fnAbs o.imm) s

/-- AND with an immediate (R107). -/
def execAndImm (h : Hdr) (o : OpI) (s : State) : Host.Outcome State Fault Refusal :=
  runInt (.andImm h o) h o.d 2 (fun t => t.reg o.a &&& o.imm) s

/-- OR with an immediate (R107). -/
def execOrImm (h : Hdr) (o : OpI) (s : State) : Host.Outcome State Fault Refusal :=
  runInt (.orImm h o) h o.d 2 (fun t => t.reg o.a ||| o.imm) s

/-- XOR with an immediate (R107). -/
def execXorImm (h : Hdr) (o : OpI) (s : State) : Host.Outcome State Fault Refusal :=
  runInt (.xorImm h o) h o.d 2 (fun t => t.reg o.a ^^^ o.imm) s

/-- ANDN with an immediate (R107). -/
def execAndnImm (h : Hdr) (o : OpI) (s : State) : Host.Outcome State Fault Refusal :=
  runInt (.andnImm h o) h o.d 2 (fun t => t.reg o.a &&& ~~~o.imm) s

/-- SHL with an immediate (R107). -/
def execShlImm (h : Hdr) (o : OpI) (s : State) : Host.Outcome State Fault Refusal :=
  runInt (.shlImm h o) h o.d 2 (fun t => fnShl (t.reg o.a) o.imm) s

/-- SHR with an immediate (R107). -/
def execShrImm (h : Hdr) (o : OpI) (s : State) : Host.Outcome State Fault Refusal :=
  runInt (.shrImm h o) h o.d 2 (fun t => fnShr (t.reg o.a) o.imm) s

/-- SAR with an immediate (R107). -/
def execSarImm (h : Hdr) (o : OpI) (s : State) : Host.Outcome State Fault Refusal :=
  runInt (.sarImm h o) h o.d 2 (fun t => fnSar (t.reg o.a) o.imm) s

/-- ISET with an immediate. -/
def execIsetImm (h : Hdr) (o : OpI) (s : State) : Host.Outcome State Fault Refusal :=
  s.run (.isetImm h o) h fun s g =>
    (s.writeP g h (predOf o.d) 2 fun _ _ t => fnSet o.mod o.ext (t.reg o.a) o.imm).finish g h

/-- MOVI (R107). -/
def execMovi (h : Hdr) (o : OpI) (s : State) : Host.Outcome State Fault Refusal :=
  runInt (.movi h o) h o.d 2 (fun _ => o.imm) s

/-- SEL (R109): D := (p XOR PN) ? A : B. -/
def execSel (h : Hdr) (o : SelOp) (s : State) : Host.Outcome State Fault Refusal :=
  runInt (.sel h o) h o.d 2 (fun t =>
    if t.pred o.p != o.pn then t.reg o.a else if o.bi then o.imm else t.reg o.b) s

end Sys2Proof.Machine
end

