-- ==== Sys2Proof/Machine/Packed.lean ====
section
/-! DEFINITION. Packed, convert and quantize instructions (R112 to R116). -/

namespace Sys2Proof.Machine

/-- Two 16-bit elements computed one by one; the flags are the union (R113). -/
def packed2 (f : Nat → FR) (d : RegCode) : LaneRes :=
  let lo := f 0
  let hi := f 1
  ⟨d.toNat, BitVec.ofNat 32 (lo.bits + 65536 * hi.bits), lo.flags ||| hi.flags⟩

/-- Element i of a register (R39). -/
def Thread.half (t : Thread) (c : RegCode) (i : Nat) : Nat := bitsOf (t.reg c).toNat (16 * i) 16

/-- MOD[0] selects F16 or BF16 (R113). -/
def packFmt (m : BitVec 3) : FFmt := if m.getLsbD 0 then BF16 else F16

/-- PADD2 (R113). -/
def execPadd2 (h : Hdr) (o : Op3) (s : State) : Host.Outcome State Fault Refusal :=
  runFp (.padd2 h o) h o.d 4 (fun ftz t => packed2 (fun i =>
    fadd (packFmt o.mod) .rn ftz (t.half o.a i) (t.half o.b i)) o.d) s

/-- PMUL2 (R113). -/
def execPmul2 (h : Hdr) (o : Op3) (s : State) : Host.Outcome State Fault Refusal :=
  runFp (.pmul2 h o) h o.d 4 (fun ftz t => packed2 (fun i =>
    fmul (packFmt o.mod) .rn ftz (t.half o.a i) (t.half o.b i)) o.d) s

/-- PFMA2, one rounding per element (R113). -/
def execPfma2 (h : Hdr) (o : Op3) (s : State) : Host.Outcome State Fault Refusal :=
  runFp (.pfma2 h o) h o.d 4 (fun ftz t => packed2 (fun i =>
    ffma (packFmt o.mod) .rn ftz (t.half o.a i) (t.half o.b i) (t.half o.d i)) o.d) s

/-- PMAX2 (R113). -/
def execPmax2 (h : Hdr) (o : Op3) (s : State) : Host.Outcome State Fault Refusal :=
  runFp (.pmax2 h o) h o.d 4 (fun ftz t => packed2 (fun i =>
    minmax (packFmt o.mod) true ftz (t.half o.a i) (t.half o.b i)) o.d) s

/-- PMIN2 (R113). -/
def execPmin2 (h : Hdr) (o : Op3) (s : State) : Host.Outcome State Fault Refusal :=
  runFp (.pmin2 h o) h o.d 4 (fun ftz t => packed2 (fun i =>
    minmax (packFmt o.mod) false ftz (t.half o.a i) (t.half o.b i)) o.d) s

/-- CVT (R114). -/
def execCvt (h : Hdr) (o : CvtOp) (s : State) : Host.Outcome State Fault Refusal :=
  runFp (.cvt h o) h o.d 4 (fun ftz t =>
    (cvt o.src.toNat o.tgt.toNat (rmodeOf o.ext.toNat) o.sat ftz
      (bitsOf (t.reg o.a).toNat 0 (fmtWidth o.src.toNat))).to o.d) s

/-- PACK (R115): B || A in slot EXT of the width's pairs; the rest of D stays but for `.h16`. -/
def execPack (h : Hdr) (o : Op3) (s : State) : Host.Outcome State Fault Refusal :=
  runInt (.pack h o) h o.d 4 (fun t =>
    let w := 16 / 2 ^ o.mod.toNat
    let v := bitsOf (t.reg o.a).toNat 0 w + 2 ^ w * bitsOf (t.reg o.b).toNat 0 w
    BitVec.ofNat 32 (setBits (t.reg o.d).toNat (2 * w * o.ext.toNat) (2 * w) v)) s

/-- UNPK (R115). -/
def execUnpk (h : Hdr) (o : UnpkOp) (s : State) : Host.Outcome State Fault Refusal :=
  runInt (.unpk h o) h o.d 4 (fun t =>
    let w := 16 / 2 ^ o.width.toNat
    let e := bitsOf (t.reg o.a).toNat (w * o.idx.toNat) w
    if o.sx && bitOf e (w - 1) then BitVec.ofInt 32 ((e : Int) - (2 ^ w : Nat))
    else BitVec.ofNat 32 e) s

/-- QNT (R116): one byte of D. -/
def execQnt (h : Hdr) (o : Op3) (s : State) : Host.Outcome State Fault Refusal :=
  runFp (.qnt h o) h o.d 4 (fun ftz t =>
    let r := qnt (if o.mod.getLsbD 0 then E5M2 else E4M3) (o.mod.getLsbD 1) ftz (t.f32 o.a) (t.f32 o.b)
    ⟨o.d.toNat, BitVec.ofNat 32 (setBits (t.reg o.d).toNat (8 * o.ext.toNat) 8 r.bits), r.flags⟩) s

end Sys2Proof.Machine
end

