-- ==== Sys2Proof/Machine/Dispatch.lean ====
section
/-! DEFINITION. One arm per row of the opcode table: the instructions, then the events. -/

namespace Sys2Proof.Machine

def exec (i : Instr) (s : State) : Host.Outcome State Fault Refusal :=
  match i with
  | .nop h => Sys2Proof.Machine.execNop h s
  | .nopG3 h => Sys2Proof.Machine.execNopG3 h s
  | .nopG4 h => Sys2Proof.Machine.execNopG4 h s
  | .bra h off => Sys2Proof.Machine.execBra h off s
  | .brx h a => Sys2Proof.Machine.execBrx h a s
  | .call h d off => Sys2Proof.Machine.execCall h d off s
  | .callx h d a => Sys2Proof.Machine.execCallx h d a s
  | .ret h a => Sys2Proof.Machine.execRet h a s
  | .exit h => Sys2Proof.Machine.execExit h s
  | .lbrk h => Sys2Proof.Machine.execLbrk h s
  | .yield h => Sys2Proof.Machine.execYield h s
  | .bkpt h code => Sys2Proof.Machine.execBkpt h code s
  | .sleept h a => Sys2Proof.Machine.execSleept h a s
  | .loop h o => Sys2Proof.Machine.execLoop h o s
  | .iadd h o => Sys2Proof.Machine.execIadd h o s
  | .isub h o => Sys2Proof.Machine.execIsub h o s
  | .imul h o => Sys2Proof.Machine.execImul h o s
  | .imulh h o => Sys2Proof.Machine.execImulh h o s
  | .imad h o => Sys2Proof.Machine.execImad h o s
  | .imin h o => Sys2Proof.Machine.execImin h o s
  | .imax h o => Sys2Proof.Machine.execImax h o s
  | .iabs h o => Sys2Proof.Machine.execIabs h o s
  | .and h o => Sys2Proof.Machine.execAnd h o s
  | .or h o => Sys2Proof.Machine.execOr h o s
  | .xor h o => Sys2Proof.Machine.execXor h o s
  | .andn h o => Sys2Proof.Machine.execAndn h o s
  | .shl h o => Sys2Proof.Machine.execShl h o s
  | .shr h o => Sys2Proof.Machine.execShr h o s
  | .sar h o => Sys2Proof.Machine.execSar h o s
  | .bfx h o => Sys2Proof.Machine.execBfx h o s
  | .bfi h o => Sys2Proof.Machine.execBfi h o s
  | .popc h o => Sys2Proof.Machine.execPopc h o s
  | .clz h o => Sys2Proof.Machine.execClz h o s
  | .brev h o => Sys2Proof.Machine.execBrev h o s
  | .iset h o => Sys2Proof.Machine.execIset h o s
  | .mov h o => Sys2Proof.Machine.execMov h o s
  | .iaddImm h o => Sys2Proof.Machine.execIaddImm h o s
  | .isubImm h o => Sys2Proof.Machine.execIsubImm h o s
  | .imulImm h o => Sys2Proof.Machine.execImulImm h o s
  | .imulhImm h o => Sys2Proof.Machine.execImulhImm h o s
  | .imadImm h o => Sys2Proof.Machine.execImadImm h o s
  | .iminImm h o => Sys2Proof.Machine.execIminImm h o s
  | .imaxImm h o => Sys2Proof.Machine.execImaxImm h o s
  | .iabsImm h o => Sys2Proof.Machine.execIabsImm h o s
  | .andImm h o => Sys2Proof.Machine.execAndImm h o s
  | .orImm h o => Sys2Proof.Machine.execOrImm h o s
  | .xorImm h o => Sys2Proof.Machine.execXorImm h o s
  | .andnImm h o => Sys2Proof.Machine.execAndnImm h o s
  | .shlImm h o => Sys2Proof.Machine.execShlImm h o s
  | .shrImm h o => Sys2Proof.Machine.execShrImm h o s
  | .sarImm h o => Sys2Proof.Machine.execSarImm h o s
  | .isetImm h o => Sys2Proof.Machine.execIsetImm h o s
  | .movi h o => Sys2Proof.Machine.execMovi h o s
  | .sel h o => Sys2Proof.Machine.execSel h o s
  | .fadd h o => Sys2Proof.Machine.execFadd h o s
  | .fsub h o => Sys2Proof.Machine.execFsub h o s
  | .fmul h o => Sys2Proof.Machine.execFmul h o s
  | .ffma h o => Sys2Proof.Machine.execFfma h o s
  | .fmin h o => Sys2Proof.Machine.execFmin h o s
  | .fmax h o => Sys2Proof.Machine.execFmax h o s
  | .fneg h o => Sys2Proof.Machine.execFneg h o s
  | .fabs h o => Sys2Proof.Machine.execFabs h o s
  | .fset h o => Sys2Proof.Machine.execFset h o s
  | .fclass h o => Sys2Proof.Machine.execFclass h o s
  | .frcp h o => Sys2Proof.Machine.execFrcp h o s
  | .frsq h o => Sys2Proof.Machine.execFrsq h o s
  | .fexp2 h o => Sys2Proof.Machine.execFexp2 h o s
  | .flog2 h o => Sys2Proof.Machine.execFlog2 h o s
  | .ftanh h o => Sys2Proof.Machine.execFtanh h o s
  | .fscaleb h o => Sys2Proof.Machine.execFscaleb h o s
  | .faddImm h o => Sys2Proof.Machine.execFaddImm h o s
  | .fsubImm h o => Sys2Proof.Machine.execFsubImm h o s
  | .fmulImm h o => Sys2Proof.Machine.execFmulImm h o s
  | .ffmaImm h o => Sys2Proof.Machine.execFfmaImm h o s
  | .fminImm h o => Sys2Proof.Machine.execFminImm h o s
  | .fmaxImm h o => Sys2Proof.Machine.execFmaxImm h o s
  | .fsetImm h o => Sys2Proof.Machine.execFsetImm h o s
  | .fscalebImm h o => Sys2Proof.Machine.execFscalebImm h o s
  | .padd2 h o => Sys2Proof.Machine.execPadd2 h o s
  | .pmul2 h o => Sys2Proof.Machine.execPmul2 h o s
  | .pfma2 h o => Sys2Proof.Machine.execPfma2 h o s
  | .pmax2 h o => Sys2Proof.Machine.execPmax2 h o s
  | .pmin2 h o => Sys2Proof.Machine.execPmin2 h o s
  | .cvt h o => Sys2Proof.Machine.execCvt h o s
  | .pack h o => Sys2Proof.Machine.execPack h o s
  | .unpk h o => Sys2Proof.Machine.execUnpk h o s
  | .qnt h o => Sys2Proof.Machine.execQnt h o s
  | .shfl h o => Sys2Proof.Machine.execShfl h o s
  | .shfr h o c => Sys2Proof.Machine.execShfr h o c s
  | .shfx h o x => Sys2Proof.Machine.execShfx h o x s
  | .red h o op => Sys2Proof.Machine.execRed h o op s
  | .scan h o op exc rev => Sys2Proof.Machine.execScan h o op exc rev s
  | .vote h o mode => Sys2Proof.Machine.execVote h o mode s
  | .bcast h o l => Sys2Proof.Machine.execBcast h o l s
  | .matchLanes h o => Sys2Proof.Machine.execMatchLanes h o s
  | .pmov h dir half r => Sys2Proof.Machine.execPmov h dir half r s
  | .srd h d sc => Sys2Proof.Machine.execSrd h d sc s
  | .swr h sc a => Sys2Proof.Machine.execSwr h sc a s
  | .plop h o => Sys2Proof.Machine.execPlop h o s
  | .ldt h o => Sys2Proof.Machine.execLdt h o s
  | .stt h o => Sys2Proof.Machine.execStt h o s
  | .ldv h o => Sys2Proof.Machine.execLdv h o s
  | .stv h o => Sys2Proof.Machine.execStv h o s
  | .ldx h o => Sys2Proof.Machine.execLdx h o s
  | .tfill h o => Sys2Proof.Machine.execTfill h o s
  | .mark h set n => Sys2Proof.Machine.execMark h set n s
  | .waitf h n => Sys2Proof.Machine.execWaitf h n s
  | .alloc h o => Sys2Proof.Machine.execAlloc h o s
  | .free h p n => Sys2Proof.Machine.execFree h p n s
  | .mapg h o => Sys2Proof.Machine.execMapg h o s
  | .ltq h d n => Sys2Proof.Machine.execLtq h d n s
  | .revive h p n => Sys2Proof.Machine.execRevive h p n s
  | .waitcap h o => Sys2Proof.Machine.execWaitcap h o s
  | .rerank h o => Sys2Proof.Machine.execRerank h o s
  | .capq h st d => Sys2Proof.Machine.execCapq h st d s
  | .acpy h o => Sys2Proof.Machine.execAcpy h o s
  | .asto h o => Sys2Proof.Machine.execAsto h o s
  | .twait h old tag => Sys2Proof.Machine.execTwait h old tag s
  | .tcnt h out clr d => Sys2Proof.Machine.execTcnt h out clr d s
  | .bcpy h o => Sys2Proof.Machine.execBcpy h o s
  | .bput h o => Sys2Proof.Machine.execBput h o s
  | .cwait h p a => Sys2Proof.Machine.execCwait h p a s
  | .cqry h est d a => Sys2Proof.Machine.execCqry h est d a s
  | .migr h o => Sys2Proof.Machine.execMigr h o s
  | .mma h o => Sys2Proof.Machine.execMma h o s
  | .mmas h o => Sys2Proof.Machine.execMmas h o s
  | .msca h o => Sys2Proof.Machine.execMsca h o s
  | .mzero h o => Sys2Proof.Machine.execMzero h o s
  | .mlda h o => Sys2Proof.Machine.execMlda h o s
  | .mdrn h o => Sys2Proof.Machine.execMdrn h o s
  | .mdra h o => Sys2Proof.Machine.execMdra h o s
  | .mwait h p a => Sys2Proof.Machine.execMwait h p a s
  | .bar h o => Sys2Proof.Machine.execBar h o s
  | .bara h o => Sys2Proof.Machine.execBara h o s
  | .barw h o => Sys2Proof.Machine.execBarw h o s
  | .phase h o => Sys2Proof.Machine.execPhase h o s
  | .atom h o => Sys2Proof.Machine.execAtom h o s
  | .atoms h o => Sys2Proof.Machine.execAtoms h o s
  | .atred h o => Sys2Proof.Machine.execAtred h o s
  | .tokq h sp d => Sys2Proof.Machine.execTokq h sp d s
  | .priceq h d a => Sys2Proof.Machine.execPriceq h d a s
  | .tickr h d a => Sys2Proof.Machine.execTickr h d a s
  | .cntr h idx d => Sys2Proof.Machine.execCntr h idx d s
  | .phint h kind a => Sys2Proof.Machine.execPhint h kind a s
  | .spawn h o => Sys2Proof.Machine.execSpawn h o s
  | .join h o => Sys2Proof.Machine.execJoin h o s
  | .park h j a => Sys2Proof.Machine.execPark h j a s
  | .launch h o => Sys2Proof.Machine.execLaunch h o s
  | .trap h o => Sys2Proof.Machine.execTrap h o s
  | .rett h form => Sys2Proof.Machine.execRett h form s
  | .seth h o => Sys2Proof.Machine.execSeth h o s
  | .tmask h o => Sys2Proof.Machine.execTmask h o s
  | .ckpt h mark a => Sys2Proof.Machine.execCkpt h mark a s
  | .symq h sel el d => Sys2Proof.Machine.execSymq h sel el d s
  | .imgw h p => Sys2Proof.Machine.execImgw h p s
  | .loopEnd r => Sys2Proof.Machine.execLoopEnd r s
  | .threadPromotion r lane => Sys2Proof.Machine.execThreadPromotion r lane s
  | .blockPlacement e => Sys2Proof.Machine.execBlockPlacement e s
  | .prologueBinding block => Sys2Proof.Machine.execPrologueBinding block s
  | .crewStart block => Sys2Proof.Machine.execCrewStart block s
  | .taskCrewForm e => Sys2Proof.Machine.execTaskCrewForm e s
  | .taskBinTimeout e => Sys2Proof.Machine.execTaskBinTimeout e s
  | .crewRelease r => Sys2Proof.Machine.execCrewRelease r s
  | .blockComplete block => Sys2Proof.Machine.execBlockComplete block s
  | .launchComplete launch => Sys2Proof.Machine.execLaunchComplete launch s
  | .timeSliceEviction block => Sys2Proof.Machine.execTimeSliceEviction block s
  | .watchdog r => Sys2Proof.Machine.execWatchdog r s
  | .sleepWake r => Sys2Proof.Machine.execSleepWake r s
  | .tokenInjection die => Sys2Proof.Machine.execTokenInjection die s
  | .tokenTake core => Sys2Proof.Machine.execTokenTake core s
  | .ringClaim core => Sys2Proof.Machine.execRingClaim core s
  | .partyHungry core => Sys2Proof.Machine.execPartyHungry core s
  | .bTileLoad quad => Sys2Proof.Machine.execBTileLoad quad s
  | .mmasGather quad => Sys2Proof.Machine.execMmasGather quad s
  | .matrixGrant quad => Sys2Proof.Machine.execMatrixGrant quad s
  | .matrixOpComplete quad port => Sys2Proof.Machine.execMatrixOpComplete quad port s
  | .bankSpill quad bank => Sys2Proof.Machine.execBankSpill quad bank s
  | .bankFill quad bank => Sys2Proof.Machine.execBankFill quad bank s
  | .copyStart r => Sys2Proof.Machine.execCopyStart r s
  | .copyLanding r => Sys2Proof.Machine.execCopyLanding r s
  | .copyChunk r unit => Sys2Proof.Machine.execCopyChunk r unit s
  | .bulkCopyComplete r => Sys2Proof.Machine.execBulkCopyComplete r s
  | .pageFault r => Sys2Proof.Machine.execPageFault r s
  | .pageResume p => Sys2Proof.Machine.execPageResume p s
  | .pageFail p => Sys2Proof.Machine.execPageFail p s
  | .copyUnitReset core ctx => Sys2Proof.Machine.execCopyUnitReset core ctx s
  | .engineReset quad ctx => Sys2Proof.Machine.execEngineReset quad ctx s
  | .publishRequestLanding core => Sys2Proof.Machine.execPublishRequestLanding core s
  | .generationOpen key => Sys2Proof.Machine.execGenerationOpen key s
  | .waveRelease r => Sys2Proof.Machine.execWaveRelease r s
  | .atredUpdate r => Sys2Proof.Machine.execAtredUpdate r s
  | .migrCommit r => Sys2Proof.Machine.execMigrCommit r s
  | .capctlWrite e => Sys2Proof.Machine.execCapctlWrite e s
  | .kaleDoom core => Sys2Proof.Machine.execKaleDoom core s
  | .darkInstant core => Sys2Proof.Machine.execDarkInstant core s
  | .engineReadCancel r => Sys2Proof.Machine.execEngineReadCancel r s
  | .bankWake core bank => Sys2Proof.Machine.execBankWake core bank s
  | .waitcapDeadline r => Sys2Proof.Machine.execWaitcapDeadline r s
  | .waitcapWake r => Sys2Proof.Machine.execWaitcapWake r s
  | .claimExpiry r => Sys2Proof.Machine.execClaimExpiry r s
  | .tkcapWrite core v => Sys2Proof.Machine.execTkcapWrite core v s
  | .ltdatWrite core => Sys2Proof.Machine.execLtdatWrite core s
  | .cerrClear ctx => Sys2Proof.Machine.execCerrClear ctx s
  | .controlBlockWrite ctx f v => Sys2Proof.Machine.execControlBlockWrite ctx f v s
  | .registerWrite r v => Sys2Proof.Machine.execRegisterWrite r v s
  | .coalescerWrite core => Sys2Proof.Machine.execCoalescerWrite core s
  | .operatingPointChange e => Sys2Proof.Machine.execOperatingPointChange e s
  | .controlLoop ws => Sys2Proof.Machine.execControlLoop ws s
  | .stallCounterSnapshot quad => Sys2Proof.Machine.execStallCounterSnapshot quad s
  | .preemption e => Sys2Proof.Machine.execPreemption e s
  | .crewSave r => Sys2Proof.Machine.execCrewSave r s
  | .crewRestore e => Sys2Proof.Machine.execCrewRestore e s
  | .checkpoint ctx => Sys2Proof.Machine.execCheckpoint ctx s
  | .replay ctx crew target => Sys2Proof.Machine.execReplay ctx crew target s
  | .tailWrite q tail => Sys2Proof.Machine.execTailWrite q tail s
  | .launchRelease r => Sys2Proof.Machine.execLaunchRelease r s
  | .cond r => Sys2Proof.Machine.execCond r s
  | .signal r => Sys2Proof.Machine.execSignal r s
  | .wait r => Sys2Proof.Machine.execWait r s
  | .liveUpdate step => Sys2Proof.Machine.execLiveUpdate step s
  | .imageVerify e => Sys2Proof.Machine.execImageVerify e s
  | .ownershipTransfer => Sys2Proof.Machine.execOwnershipTransfer s
  | .packageReset stage testOk => Sys2Proof.Machine.execPackageReset stage testOk s
  | .linkTraining link bothEttil testsOk => Sys2Proof.Machine.execLinkTraining link bothEttil testsOk s
  | .linkRetrain link => Sys2Proof.Machine.execLinkRetrain link s
  | .powerStateEntry p => Sys2Proof.Machine.execPowerStateEntry p s
  | .powerStateExit testOk => Sys2Proof.Machine.execPowerStateExit testOk s
  | .run kernel => Sys2Proof.Machine.execRun kernel s
  | .breakAt pc => Sys2Proof.Machine.execBreak pc s
  | .step n => Sys2Proof.Machine.execStep n s
  | .tags => Sys2Proof.Machine.execTags s
  | .tokens => Sys2Proof.Machine.execTokens s
  | .banks => Sys2Proof.Machine.execBanks s
  | .print f => Sys2Proof.Machine.execPrint f s
  | .whereCmd => Sys2Proof.Machine.execWhere s
  | .holdCopy => Sys2Proof.Machine.execHoldCopy s
  | .releaseCopy => Sys2Proof.Machine.execReleaseCopy s
  | .cap n after => Sys2Proof.Machine.execCap n after s
  | .capAuto => Sys2Proof.Machine.execCapAuto s
  | .focus bx bz => Sys2Proof.Machine.execFocus bx bz s
  | .atomUpdate r => Sys2Proof.Machine.execAtomUpdate r s
  | .contextKill ctx => Sys2Proof.Machine.execContextKill ctx s
  | .rstep ctx => Sys2Proof.Machine.execRstep ctx s
  | .ownerKeyEnrollment key => Sys2Proof.Machine.execOwnerKeyEnrollment key s
  | .queueStopClear q => Sys2Proof.Machine.execQueueStopClear q s
  | .ettilWrite e => Sys2Proof.Machine.execEttilWrite e s

end Sys2Proof.Machine
end

