-- ==== Sys2Proof/Machine/Step.lean ====
section
/-! DEFINITION. One step: the turn that the agenda names, or the machine's own (log 1). -/

namespace Sys2Proof.Machine

/-- A row of the table that is an event, not an instruction. -/
def isEvent (i : Instr) : Bool := i.hdr?.isNone

/-- Something has been done in this cycle, so that Kale no longer sees the state at its start (R158). -/
def State.noted (s : State) (i : Instr) : State :=
  match i with
  | .kaleDoom _ => s
  | _ => { s with moved := true }

/-- A turn is taken. -/
def turn (t : Turn) (s : State) : Host.Outcome State Fault Refusal :=
  match t with
  | .event i => if isEvent i then exec i (s.noted i) else .fault .notAnEvent
  | .issue c slot pc =>
    match s.offer c slot pc with
    | (s, none) => .next s
    | (s, some i) => exec i (s.noted i)
  | .clock => .next s.clockTurn
  | .makeContext ctx codeBase codeSize code => .next (s.makeContext ctx codeBase codeSize code)
  | .makeAlloc ctx handle space size => .next (s.makeAlloc ctx handle space size)
  | .unmapPage ctx handle page => .next (s.unmapPage ctx handle page)
  | .reserve ctx space => .next (s.reserveSpace ctx space)
  | .attach ctx => .next (s.attachTo ctx)
  | .queueDesc ctx q base slog ranged devfed => .next (s.makeQueue ctx q base slog ranged devfed)
  | .tolerance us => .next (s.setTolerance us)
  | .doorbell => .next s.wakeDevice
  | .sample d t v => .next (s.sample d t v)
  | .softError r => .next (s.softError r)
  | .report w => .next (s.reportOut w)

/-- THE STEP. -/
def step (s : State) : Host.Outcome State Fault Refusal :=
  match s.agenda with
  | t :: ts => turn t { s with agenda := ts }
  | [] => turn s.auto s

/-- The machine with an instruction placed where the next step fetches: its granules stand little-endian at 0x4000
(R14), the bits above the table's being 0. -/
def State.withFetchWord (s : State) (nbits w : Nat) : State := s.standAt (leBytes (w % 2 ^ nbits) 16)

end Sys2Proof.Machine
end

