-- ==== Sys2Proof/Safety.lean ====
section
/-! DEFINITION. The terms in which claims speak: a step that goes on, the canonical form of memory, the value
that a register holds in the end, and what an instruction needs in order to have its own effect (R308). -/

namespace Sys2Proof.Machine

/-- The outcome is a next state. -/
def goesOn (o : Host.Outcome State Fault Refusal) : Prop := ∃ t, o = .next t

/-- The last write of a key in a list of outstanding writes. -/
def lastWrite (k : Nat) : List Pend → Option Word
  | [] => none
  | p :: ps => match lastWrite k ps with
    | some v => some v
    | none => if p.key = k then some p.val else none

/-- The value that a register has when every outstanding write of the thread has ended (R30). -/
def Thread.final (t : Thread) (key : Nat) : Word := (lastWrite key t.pend).getD (t.base key)

/-- The control registers when every outstanding control write of the crew has ended (R104). -/
def Crew.finalCtl (k : Crew) : Ctl := k.ctlLog.foldl (fun c p => c.apply p.2) k.ctl

/-- Global memory and the cells of every core in canonical form. -/
def State.MemWf (s : State) : Prop :=
  Memory.wf s.globalMem = true ∧ ∀ p ∈ s.cores, Memory.wf p.2.cells = true

/-- The threads that an instruction needs stand at it together (R68 to R71, R120): a cross-lane group is its
member mask; a crew-collective group is every live thread it waits for, none has retired, none waits
elsewhere, and every guard holds. Other instructions need no company. -/
def Gathered (i : Instr) (h : Hdr) (g : Group) (k : Crew) : Prop :=
  match i.maskPair with
  | some mr => ∀ l t, g.mask.getLsbD l = true → k.thread? l = some t → t.member mr = g.mask
  | none =>
    let hand := k.handles g.mask
    let rett := i.isRett && hand
    if i.collective || rett then
      let scope := if hand then k.live &&& k.trap.hact else k.live
      (hand = true → g.mask &&& k.trap.hact = g.mask) ∧ scope &&& ~~~g.mask = 0
        ∧ (rett = false → ∀ p ∈ k.threads, p.2.live = true ∨ (hand = true ∧ k.trap.frame.act.getLsbD p.1 = false))
        ∧ k.splitAt g.mask scope g.pc false = none ∧ k.holding h g.mask = g.mask
    else True

/-- The checks of R308 before STALL pass for a group of one crew: it is converged, its loop bodies hold no 257th
instruction, it takes no CONV, and its price (`price`) does not pass TKCAP. -/
structure Stands (s : State) (i : Instr) (h : Hdr) (g : Group) (k : Crew) (price : Nat) : Prop where
  unpaid : g.paid = false
  chunk : g.chunk = none
  parts : g.parts = [(g.slot, g.mask)]
  nonempty : g.mask ≠ 0
  crew : s.crew? g.core g.slot = some k
  owner : (s.core g.core).slotOf? k.id.ctx k.id.crewId = some g.slot
  lanes : ∀ l, g.mask.getLsbD l = true → ∃ t, k.thread? l = some t
  ready : ∀ p ∈ k.threads, g.mask.getLsbD p.1 = true → p.2.st = .ready
  gathered : Gathered i h g k
  buffer : k.buffered g.pc = some k
  conv : s.convCode i h g = none
  price : price ≤ (s.core g.core).tok.tkcap

/-- Every check of R308 before the instruction's own passes for a group of one crew: it stands, no source is early
or STALL is masked or has no handler, and a class-A group is paid at once. -/
structure Passes (s : State) (i : Instr) (h : Hdr) (g : Group) (k : Crew) (price : Nat) : Prop
    extends Stands s i h g k price where
  early : s.earlySource i h g g.slot g.mask = none ∨ k.stalls g.mask (k.holding h g.mask) = false
  pays : g.clsA = true → s.priceAt g.core (gatePrice i) = 0
    ∨ (s.core g.core).canPay g.slot (s.priceAt g.core (gatePrice i)) = true

/-- The group issues the instruction next, and every check before the instruction's own passes. -/
def Ready (s : State) (i : Instr) (h : Hdr) (g : Group) (k : Crew) : Prop :=
  s.cur = some g ∧ Passes s i h g k (s.priceAt g.core (gatePrice i))

/-- What a class-A group pays when it issues. -/
def State.dueAt (s : State) (i : Instr) (g : Group) : Nat :=
  if g.clsA then s.priceAt g.core (gatePrice i) else 0

/-- The machine when the instruction's own effect begins: the price is debited and counted, the issue slot of
the cycle is used, and the crew counts one more issue (R26, R66, R195). -/
def State.begun (s : State) (i : Instr) (g : Group) : State :=
  let n := s.dueAt i g
  let s := { s with cur := none }
  let s := if n = 0 then s
    else (s.modCore g.core fun c => { c with tok := { c.tok with level := c.tok.level - n } }).modCrew g.core
      g.slot fun k => (k.addCntr 5 n).addCntr 1 1
  s.useSlot g

/-- The crew as it counts the issue. -/
def State.begunCrew (s : State) (i : Instr) (g : Group) (k : Crew) : Crew :=
  let n := s.dueAt i g
  (if n = 0 then k else (k.addCntr 5 n).addCntr 1 1).addCntr 0 1

/-- No lane of a set, going where `dest` says, meets END of the innermost level that concerns the set (R73). -/
def Crew.Clear (k : Crew) (x : Context) (m : Mask) (dest : Nat → Word) : Prop :=
  ∀ d v, k.level? (lowLane m) = some (d, v) → ∀ l, m.getLsbD l = true → x.start (dest l) ≠ v.stop

/-- What a crew keeps when its threads execute an instruction that writes registers: all but the threads, the
s registers, the control registers and the counts, of which one retirement more. -/
structure Crew.Same (k k' : Crew) : Prop where
  st : k'.st = k.st
  id : k'.id = k.id
  loops : k'.loops = k.loops
  trap : k'.trap = k.trap
  copy : k'.copy = k.copy
  claim : k'.claim = k.claim
  hungry : k'.hungry = k.hungry
  kbTile : k'.kbTile = k.kbTile
  evict : k'.evict = k.evict
  counts : k'.counts.cntr = k.counts.cntr ∧ k'.counts.issued = k.counts.issued
    ∧ k'.counts.unsettled = k.counts.unsettled ∧ k'.counts.retired = k.counts.retired + 1

end Sys2Proof.Machine
end

