-- ==== Sys2Proof/Certificates/Slice0/Obligations.lean ====
section
/-! DEFINITION. The statements for the provers, and the tables of the spec in which they are made. -/

namespace Sys2Proof.Claims

open Sys2Proof.Machine

/-! ## Results of register instructions -/

/-- What a register instruction does: its header; whether it is a uniform operation (R22); the values that it
gives to keys, as a function of the crew, of the lanes whose guard holds, and of the lane and its thread; where
a thread whose guard holds goes on, if not at the next instruction; its writes of control registers; what else
it changes in its crew; and what each lane whose guard holds gets beside that. -/
structure Result where
  h : Hdr
  uni : Bool
  regs : Crew → Mask → Nat → Thread → Nat → Option Word
  goto : Thread → Option Word := fun _ => none
  ctl : Crew → Mask → List CtlOp := fun _ _ => []
  keep : Crew → Crew := fun k => k
  own : Nat → Nat → Option Word := fun _ _ => Option.none

/-- An instruction without an effect of its own. -/
def Result.none (h : Hdr) : Result := { h := h, uni := false, regs := fun _ _ _ _ _ => Option.none }

/-- One destination, a function of the thread alone. -/
def Result.one (h : Hdr) (key : Nat) (uni : Bool) (f : Thread → Word) : Result :=
  { h := h, uni := uni, regs := fun _ _ _ t j => if j = key then some (f t) else Option.none }

/-- What a key gets in a thread of the group: from its own lane, or, in a uniform operation, from the lowest
lane whose guard holds (R19, R22, R108). -/
def Result.common (r : Result) (k : Crew) (m : Mask) (l : Nat) (t : Thread) (key : Nat) : Option Word :=
  let on := k.holding r.h m
  if r.uni then
    if on = 0 then Option.none else (k.thread? (lowLane on)).bind fun t => r.regs k on (lowLane on) t key
  else if t.guard r.h then r.regs k on l t key else Option.none

/-- What a key gets in a thread of the group. -/
def Result.valueAt (r : Result) (k : Crew) (m : Mask) (l : Nat) (t : Thread) (key : Nat) : Option Word :=
  match if t.guard r.h then r.own l key else Option.none with
  | some v => some v
  | Option.none => r.common k m l t key

/-- Where a lane goes on. -/
def Result.dest (r : Result) (g : Group) (k : Machine.Crew) (l : Nat) : Word :=
  match k.thread? l with
  | some t => (if t.guard r.h then r.goto t else Option.none).getD g.next
  | Option.none => g.next

/-- No lane of the group meets the end of a loop body. -/
def Result.Lands (r : Result) (s : State) (g : Group) (k : Machine.Crew) : Prop :=
  k.Clear (s.context k.id.ctx) g.mask (r.dest g k)

/-- The crew after the instruction: its control registers, its s registers, and its threads; those of the
group stand READY where they go on, with the results, once their latency has passed, and all other registers as
they were; the threads outside the group are as they were. -/
structure Result.Crew (r : Result) (x : Context) (g : Group) (k k' : Machine.Crew) : Prop where
  ctl : k'.finalCtl
    = (if k.holding r.h g.mask = 0 then [] else r.ctl k (k.holding r.h g.mask)).foldl Ctl.apply k.finalCtl
  sregs : ∀ key, wget k'.sregs key
    = (if r.uni then (k.thread? (lowLane g.mask)).bind fun t => r.common k g.mask (lowLane g.mask) t key
      else Option.none).getD (wget k.sregs key)
  out : ∀ l, g.mask.getLsbD l = false → k'.thread? l = k.thread? l
  lanes : ∀ l t, g.mask.getLsbD l = true → k.thread? l = some t → ∃ t', k'.thread? l = some t'
    ∧ t'.st = .ready
    ∧ t'.pc = x.start ((if t.guard r.h then r.goto t else Option.none).getD g.next)
    ∧ ∀ key, t'.final key = (r.valueAt k g.mask l t key).getD (t.final key)

/-- The machine goes on: beside the crew of the group it is `X` (up to the next serial number). -/
def Result.EffectIn (r : Result) (X : State) (s : State) (i : Instr) (g : Group) (k : Machine.Crew) : Prop :=
  ∃ n k', exec i s = .next { X.modCrew g.core g.slot (fun _ => k') with serial := n }
    ∧ (r.keep (s.begunCrew i g k)).Same k' ∧ r.Crew (s.context k.id.ctx) g k k'

/-- Nothing but the crew and the accounts of an issue changes. -/
def Result.Effect (r : Result) (s : State) (i : Instr) (g : Group) (k : Machine.Crew) : Prop :=
  r.EffectIn (s.begun i g) s i g k

/-! ## The integer group (R106, R107) -/

/-- A pattern read as Z32 or as S32. -/
def num (u : Bool) (a : Word) : Int := if u then (a.toNat : Int) else a.toInt

/-- An exact result clamped to the range of Z32 or S32. -/
def clamp (u : Bool) (x : Int) : Word :=
  BitVec.ofInt 32 (if u then max 0 (min (2 ^ 32 - 1) x) else max (-(2 ^ 31)) (min (2 ^ 31 - 1) x))

/-- pos and len of BFX and BFI. -/
def pos (b : Word) : Nat := b.toNat % 32
def len (b : Word) : Nat := min (b.toNat / 256 % 64) (32 - pos b)

/-- The word whose bit i is given. -/
def ofBits (f : Nat → Bool) : Word :=
  BitVec.ofNat 32 ((List.range 32).foldl (fun v i => v + 2 ^ i * (f i).toNat) 0)

/-- The table of R107 by FN: U and SAT of the modifier, a, b and the old d. -/
def r107 (fn : Nat) (u sat : Bool) (a b d : Word) : Word :=
  match fn with
  | 0x00 => if sat then clamp u (num u a + num u b) else a + b
  | 0x01 => if sat then clamp u (num u a - num u b) else a - b
  | 0x02 => a * b
  | 0x03 => BitVec.ofInt 32 (num u a * num u b / 2 ^ 32)
  | 0x04 => a * b + d
  | 0x05 => if num u a ≤ num u b then a else b
  | 0x06 => if num u a ≤ num u b then b else a
  | 0x07 => BitVec.ofInt 32 b.toInt.natAbs
  | 0x08 => a &&& b
  | 0x09 => a ||| b
  | 0x0A => a ^^^ b
  | 0x0B => a &&& ~~~b
  | 0x0C => if b.toNat < 32 then BitVec.ofNat 32 (a.toNat * 2 ^ b.toNat) else 0
  | 0x0D => if b.toNat < 32 then BitVec.ofNat 32 (a.toNat / 2 ^ b.toNat) else 0
  | 0x0E => if b.toNat < 32 then BitVec.ofInt 32 (a.toInt / 2 ^ b.toNat)
      else if a.toInt < 0 then 0xFFFFFFFF else 0
  | 0x0F =>
    let x := a.toNat / 2 ^ pos b % 2 ^ len b
    if len b = 0 then 0
    else BitVec.ofInt 32 (if u = false ∧ 2 ^ (len b - 1) ≤ x then (x : Int) - 2 ^ len b else x)
  | 0x10 => ofBits fun i => if pos b ≤ i ∧ i < pos b + len b then a.getLsbD (i - pos b) else d.getLsbD i
  | 0x11 => BitVec.ofNat 32 ((List.range 32).countP fun i => b.getLsbD i)
  | 0x12 => BitVec.ofNat 32 ((List.range 32).takeWhile fun i => !b.getLsbD (31 - i)).length
  | 0x13 => ofBits fun i => b.getLsbD (31 - i)
  | _ => b

/-- a cond b, compared as S or Z (R106, R107). -/
def compares (c : Nat) (u : Bool) (a b : Word) : Bool :=
  match c with
  | 0 => decide (num u a = num u b)
  | 1 => decide (num u a ≠ num u b)
  | 2 => decide (num u a < num u b)
  | 3 => decide (num u a ≤ num u b)
  | 4 => decide (num u b < num u a)
  | _ => decide (num u b ≤ num u a)

/-- A result of a G2 or a G3 form of a function of R107. -/
def intReg (fn : Nat) (h : Hdr) (o : Op3) : Option Result :=
  some (.one h o.d.toNat o.d.isS fun t =>
    r107 fn (o.mod.getLsbD 0) (o.mod.getLsbD 1) (t.reg o.a) (t.reg o.b) (t.reg o.d))
def intImm (fn : Nat) (h : Hdr) (o : OpI) : Option Result :=
  some (.one h o.d.toNat o.d.isS fun t =>
    r107 fn (o.mod.getLsbD 0) (o.mod.getLsbD 1) (t.reg o.a) o.imm (t.reg o.d))

/-- The integer group as R107 lists it. -/
def intResult : Instr → Option Result
  | .iadd h o => intReg 0x00 h o
  | .isub h o => intReg 0x01 h o
  | .imul h o => intReg 0x02 h o
  | .imulh h o => intReg 0x03 h o
  | .imad h o => intReg 0x04 h o
  | .imin h o => intReg 0x05 h o
  | .imax h o => intReg 0x06 h o
  | .iabs h o => intReg 0x07 h o
  | .and h o => intReg 0x08 h o
  | .or h o => intReg 0x09 h o
  | .xor h o => intReg 0x0A h o
  | .andn h o => intReg 0x0B h o
  | .shl h o => intReg 0x0C h o
  | .shr h o => intReg 0x0D h o
  | .sar h o => intReg 0x0E h o
  | .bfx h o => intReg 0x0F h o
  | .bfi h o => intReg 0x10 h o
  | .popc h o => intReg 0x11 h o
  | .clz h o => intReg 0x12 h o
  | .brev h o => intReg 0x13 h o
  | .mov h o => intReg 0x16 h o
  | .iset h o => some (.one h (pKey (predOf o.d)) false fun t =>
      BitVec.ofNat 32 (compares o.mod.toNat (o.ext.getLsbD 0) (t.reg o.a) (t.reg o.b)).toNat)
  | .iaddImm h o => intImm 0x00 h o
  | .isubImm h o => intImm 0x01 h o
  | .imulImm h o => intImm 0x02 h o
  | .imulhImm h o => intImm 0x03 h o
  | .imadImm h o => intImm 0x04 h o
  | .iminImm h o => intImm 0x05 h o
  | .imaxImm h o => intImm 0x06 h o
  | .iabsImm h o => intImm 0x07 h o
  | .andImm h o => intImm 0x08 h o
  | .orImm h o => intImm 0x09 h o
  | .xorImm h o => intImm 0x0A h o
  | .andnImm h o => intImm 0x0B h o
  | .shlImm h o => intImm 0x0C h o
  | .shrImm h o => intImm 0x0D h o
  | .sarImm h o => intImm 0x0E h o
  | .movi h o => intImm 0x16 h o
  | .isetImm h o => some (.one h (pKey (predOf o.d)) false fun t =>
      BitVec.ofNat 32 (compares o.mod.toNat (o.ext.getLsbD 0) (t.reg o.a) o.imm).toNat)
  | _ => none

/-! ## Selection, packing, predicates and lanes -/

/-- Element `i` of width `w` of a register. -/
def elem (w i : Nat) (x : Word) : Nat := x.toNat / 2 ^ (w * i) % 2 ^ w

/-- SEL, PACK and UNPK (R109, R115). -/
def moveResult : Instr → Option Result
  | .sel h o => some (.one h o.d.toNat o.d.isS fun t =>
      if t.pred o.p != o.pn then t.reg o.a else if o.bi then o.imm else t.reg o.b)
  | .pack h o =>
    let w := 16 / 2 ^ o.mod.toNat
    some (.one h o.d.toNat o.d.isS fun t => ofBits fun i =>
      if i < 2 * w * o.ext.toNat ∨ 2 * w * (o.ext.toNat + 1) ≤ i then (t.reg o.d).getLsbD i
      else if i < 2 * w * o.ext.toNat + w then (t.reg o.a).getLsbD (i - 2 * w * o.ext.toNat)
      else (t.reg o.b).getLsbD (i - 2 * w * o.ext.toNat - w))
  | .unpk h o =>
    let w := 16 / 2 ^ o.width.toNat
    some (.one h o.d.toNat o.d.isS fun t =>
      let e := elem w o.idx.toNat (t.reg o.a)
      BitVec.ofInt 32 (if o.sx = true ∧ 2 ^ (w - 1) ≤ e then (e : Int) - 2 ^ w else e))
  | _ => none

/-- Bit `4 a + 2 b + c` of a table (R117). -/
def lookup (lut : BitVec 8) (a b c : Bool) : Word :=
  BitVec.ofNat 32 (lut.getLsbD (4 * a.toNat + 2 * b.toNat + c.toNat)).toNat

/-- PLOP and PMOV (R117, R118). -/
def predResult : Instr → Option Result
  | .plop h o => some { Result.none h with
      regs := fun _ _ _ t key =>
      if o.ev = true ∧ key = pKey o.e then some (lookup o.lut2 (t.pred o.a) (t.pred o.b) (t.pred o.c))
      else if key = pKey o.d then some (lookup o.lut (t.pred o.a) (t.pred o.b) (t.pred o.c))
      else Option.none }
  | .pmov h true half r => some { Result.none h with
      regs := fun _ _ _ t key =>
      if 512 + 32 * half.toNat ≤ key ∧ key < 512 + 32 * half.toNat + 32 then
        some (BitVec.ofNat 32 ((t.reg r).getLsbD (key - (512 + 32 * half.toNat))).toNat)
      else Option.none }
  | .pmov h false half r => some (.one h r.toNat r.isS fun t => ofBits fun i =>
      t.pred (BitVec.ofNat 6 (32 * half.toNat + i)))
  | _ => none

/-- The source lane of a shuffle (R121, R122). -/
def source (t : Thread) (l : Nat) : Instr → Option Nat
  | .shfl _ o => some (t.reg o.b).toNat
  | .shfr _ _ c =>
    let off : Int := if c.rel then (if c.neg then -(2 : Int) ^ (6 - c.j.toNat) else 2 ^ (6 - c.j.toNat)) else c.k.toInt
    if c.wrap then some (((l : Int) + off) % 64).toNat
    else if 0 ≤ (l : Int) + off ∧ (l : Int) + off < 64 then some ((l : Int) + off).toNat else none
  | .shfx _ _ x => some (l ^^^ x.toNat)
  | .bcast _ _ x => some x.toNat
  | _ => none

/-- The value of A in the source lane where it is a member, else in the lane itself (R121). -/
def shuffled (i : Instr) (h : Hdr) (o : LaneOp) : Option Result :=
  some {
      h := h, uni := o.d.isS, regs := fun k _ l t key =>
    if key ≠ o.d.toNat then Option.none
    else match source t l i with
      | some x => if x < 64 ∧ (t.member o.m).getLsbD x = true then (k.thread? x).map (·.reg o.a)
          else some (t.reg o.a)
      | Option.none => some (t.reg o.a) }

/-- A 64-bit result in a pair of registers. -/
def pairOf (d : RegCode) (v : Mask) (key : Nat) : Option Word :=
  if key = (d + 1).toNat then some (BitVec.ofNat 32 (v.toNat / 2 ^ 32))
  else if key = d.toNat then some (BitVec.ofNat 32 v.toNat) else none

/-- The shuffles, BCAST, VOTE and MATCH (R121, R125, R126). -/
def laneResult (i : Instr) : Option Result :=
  match i with
  | .shfl h o | .shfr h o _ | .shfx h o _ | .bcast h o _ => shuffled i h o
  | .vote h o mode =>
    let yes := fun (k : Crew) (on : Mask) => maskFilter on fun l =>
      ((k.thread? l).map fun t => t.pred (predOf o.a)).getD false
    if mode.toNat ≤ 1 then some { Result.none h with
      regs := fun k on _ _ key =>
        if key = pKey (predOf o.d) then
          some (if (if mode = 0 then yes k on ≠ 0 else yes k on = on) then 1 else 0) else Option.none }
    else some {
      h := h, uni := o.d.isS, regs := fun k on _ _ key => pairOf o.d (yes k on) key }
  | .matchLanes h o => some {
      h := h, uni := o.d.isS, regs := fun k on _ t key =>
      pairOf o.d (maskFilter on fun x => decide ((k.thread? x).map (·.reg o.a) = some (t.reg o.a))) key }
  | _ => none

/-! ## Control -/

/-- NOP in its three forms, YIELD, BRA, BRX, RET, CALL and CALLX (R86 to R89). -/
def flowResult (g : Group) : Instr → Option Result
  | .nop h | .nopG3 h | .nopG4 h | .yield h => some (.none h)
  | .bra h off => some { Result.none h with
      goto := fun _ => some (g.pc + BitVec.ofInt 32 (4 * off.toInt)) }
  | .brx h a | .ret h a => some { Result.none h with
      goto := fun t => some (t.reg a &&& 0xFFFFFFFC) }
  | .call h d off => some { Result.one h d.toNat false (fun _ => g.pc + 8) with
      goto := fun _ => some (g.pc + BitVec.ofInt 32 (4 * off.toInt)) }
  | .callx h d a => some { Result.one h d.toNat false (fun _ => g.pc + 8) with
      goto := fun t => some (t.reg a &&& 0xFFFFFFFC) }
  | _ => none

/-! ## Floating point (R110 to R116) -/

/-- The function of an FP, packed, convert or quantize instruction: its header, its destination, and, given
FTZ and a thread, the key, the value and the flags (R110, R113, R114, R116). -/
def floatOf : Instr → Option (Hdr × RegCode × (Bool → Thread → LaneRes))
  | .fadd h o => bin h o fun z a b _ => fadd F32 (rmodeOf o.ext.toNat) z a b
  | .fsub h o => bin h o fun z a b _ => fsub F32 (rmodeOf o.ext.toNat) z a b
  | .fmul h o => bin h o fun z a b _ => fmul F32 (rmodeOf o.ext.toNat) z a b
  | .ffma h o => bin h o fun z a b d => ffma F32 (rmodeOf o.ext.toNat) z a b d
  | .fmin h o => bin h o fun z a b _ => minmax F32 false z a b
  | .fmax h o => bin h o fun z a b _ => minmax F32 true z a b
  | .fneg h o => bin h o fun z a _ _ => negAbs F32 true z a
  | .fabs h o => bin h o fun z a _ _ => negAbs F32 false z a
  | .fclass h o => bin h o fun z a _ _ => ⟨fclass F32 z a, 0⟩
  | .frcp h o => bin h o fun z a _ _ => approxF .rcp z a
  | .frsq h o => bin h o fun z a _ _ => approxF .rsq z a
  | .fexp2 h o => bin h o fun z a _ _ => approxF .exp2 z a
  | .flog2 h o => bin h o fun z a _ _ => approxF .log2 z a
  | .ftanh h o => bin h o fun z a _ _ => approxF .tanh z a
  | .fscaleb h o => bin h o fun z a b _ => fscaleb z a (BitVec.ofNat 32 b).toInt
  | .fset h o => some (h, o.d, fun z t => setRes o.d (fset F32 o.mod.toNat z (t.f32 o.a) (t.f32 o.b)))
  | .faddImm h o => imm h o fun z a b _ => fadd F32 (rmodeOf o.ext.toNat) z a b
  | .fsubImm h o => imm h o fun z a b _ => fsub F32 (rmodeOf o.ext.toNat) z a b
  | .fmulImm h o => imm h o fun z a b _ => fmul F32 (rmodeOf o.ext.toNat) z a b
  | .ffmaImm h o => imm h o fun z a b d => ffma F32 (rmodeOf o.ext.toNat) z a b d
  | .fminImm h o => imm h o fun z a b _ => minmax F32 false z a b
  | .fmaxImm h o => imm h o fun z a b _ => minmax F32 true z a b
  | .fscalebImm h o => imm h o fun z a b _ => fscaleb z a (BitVec.ofNat 32 b).toInt
  | .fsetImm h o => some (h, o.d, fun z t => setRes o.d (fset F32 o.mod.toNat z (t.f32 o.a) o.imm.toNat))
  | .padd2 h o => two h o fun f z a b _ => fadd f .rn z a b
  | .pmul2 h o => two h o fun f z a b _ => fmul f .rn z a b
  | .pfma2 h o => two h o fun f z a b d => ffma f .rn z a b d
  | .pmax2 h o => two h o fun f z a b _ => minmax f true z a b
  | .pmin2 h o => two h o fun f z a b _ => minmax f false z a b
  | .cvt h o => some (h, o.d, fun z t =>
      (cvt o.src.toNat o.tgt.toNat (rmodeOf o.ext.toNat) o.sat z (elem (fmtWidth o.src.toNat) 0 (t.reg o.a))).to o.d)
  | .qnt h o => some (h, o.d, fun z t =>
      let r := qnt (if o.mod.getLsbD 0 then E5M2 else E4M3) (o.mod.getLsbD 1) z (t.f32 o.a) (t.f32 o.b)
      ⟨o.d.toNat, ofBits fun i => if i / 8 = o.ext.toNat then r.bits.testBit (i % 8) else (t.reg o.d).getLsbD i,
        r.flags⟩)
  | _ => none
where
  bin (h : Hdr) (o : Op3) (f : Bool → Nat → Nat → Nat → FR) : Option (Hdr × RegCode × (Bool → Thread → LaneRes)) :=
    some (h, o.d, fun z t => (f z (t.f32 o.a) (t.f32 o.b) (t.f32 o.d)).to o.d)
  imm (h : Hdr) (o : OpI) (f : Bool → Nat → Nat → Nat → FR) : Option (Hdr × RegCode × (Bool → Thread → LaneRes)) :=
    some (h, o.d, fun z t => (f z (t.f32 o.a) o.imm.toNat (t.f32 o.d)).to o.d)
  two (h : Hdr) (o : Op3) (f : FFmt → Bool → Nat → Nat → Nat → FR) :
      Option (Hdr × RegCode × (Bool → Thread → LaneRes)) :=
    some (h, o.d, fun z t =>
      let e := fun i => f (if o.mod.getLsbD 0 then BF16 else F16) z (elem 16 i (t.reg o.a)) (elem 16 i (t.reg o.b))
        (elem 16 i (t.reg o.d))
      ⟨o.d.toNat, BitVec.ofNat 32 ((e 0).bits + 2 ^ 16 * (e 1).bits), (e 0).flags ||| (e 1).flags⟩)

/-- FTZ and the enables as a thread reads them (R49, R51, R52). -/
def ftz (k : Crew) (t : Thread) : Bool := (k.ctlOf t).fpctl.getLsbD 16
def enables (k : Crew) (t : Thread) : Nat := (k.ctlOf t).fpctl.toNat / 2 ^ 8 % 2 ^ 5

/-- The flags that the lanes of a set raise. -/
def flagsOf (k : Crew) (on : Mask) (f : Thread → Nat) : Nat :=
  ((lanesOf on).filterMap k.thread?).foldl (fun n t => n ||| f t) 0

/-- What an instruction of the FP groups does where no flag that it raises is enabled (R52, R111). -/
def floatResult (h : Hdr) (f : Bool → Thread → LaneRes) : Result :=
  { Result.none h with
    regs := fun k _ _ t key => let r := f (ftz k t) t; if key = r.key then some r.val else Option.none
    ctl := fun k on =>
      let u := flagsOf k on fun t => (f (ftz k t) t).flags
      if u = 0 then [] else [.fpOr (BitVec.ofNat 32 u)] }

/-- The lanes that raise an enabled flag (R51, R53). -/
def badLanes (k : Crew) (on : Mask) (f : Bool → Thread → LaneRes) : Mask :=
  maskFilter on fun l => ((k.thread? l).map fun t =>
    decide ((f (ftz k t) t).flags &&& enables k t ≠ 0)).getD false

/-! ## RED and SCAN (R123, R124) -/

/-- An operand of lane l: its A where the lane takes part. -/
def operand (k : Crew) (on : Mask) (a : RegCode) (l : Nat) : Leaf :=
  if on.getLsbD l then (k.thread? l).map fun t => ((t.reg a).toNat, 0) else Option.none

/-- Two operands combined: sums, smaller and larger numbers and bits as S32 or Z32, sums and FMIN and FMAX of F32
(R123). -/
def joined (op : Nat) (z : Bool) (a b : Word) : FR :=
  let w := fun (x : Word) => (⟨x.toNat, 0⟩ : FR)
  match op with
  | 0 => w (a + b)
  | 1 => fadd F32 .rn z a.toNat b.toNat
  | 2 => w (if num false a ≤ num false b then a else b)
  | 3 => w (if num true a ≤ num true b then a else b)
  | 4 => w (if num false a ≤ num false b then b else a)
  | 5 => w (if num true a ≤ num true b then b else a)
  | 6 => minmax F32 false z a.toNat b.toNat
  | 7 => minmax F32 true z a.toNat b.toNat
  | 8 => w (a &&& b)
  | 9 => w (a ||| b)
  | _ => w (a ^^^ b)

/-- x[l] after level n of R123. -/
def redAt (op : Nat) (z : Bool) (x : Nat → Leaf) : Nat → Nat → Leaf
  | 0, l => x l
  | n + 1, l => meet op z (redAt op z x n l) (redAt op z x n (l + 2 ^ n))

/-- y[q] after level n − 1 of R124. -/
def scanAt (op : Nat) (z : Bool) (y : Nat → Leaf) : Nat → Nat → Leaf
  | 0, q => y q
  | n + 1, q => if 2 ^ n ≤ q then meet op z (scanAt op z y n (q - 2 ^ n)) (scanAt op z y n q) else scanAt op z y n q

/-- IDENT of an operation (R124). -/
def identity : Nat → Nat
  | 2 => 0x7FFFFFFF
  | 3 => 0xFFFFFFFF
  | 4 => 0x80000000
  | 6 => 0x7F800000
  | 7 => 0xFF800000
  | 8 => 0xFFFFFFFF
  | _ => 0

/-- The flags of an operand. -/
def leafFlags (x : Leaf) : Nat := (x.map (·.2)).getD 0

/-- FTZ as the lowest lane of the group reads it: the tree is computed once. -/
def treeFtz (k : Crew) (g : Group) : Bool := ((k.thread? (lowLane g.mask)).map (ftz k)).getD (k.ctl.fpctl.getLsbD 16)

/-- RED and SCAN: each lane's result and the flags of the whole tree. -/
def treeOf (i : Instr) (g : Group) : Option (Hdr × RegCode × (Crew → Mask → (Nat → Nat) × Nat)) :=
  match i with
  | .red h o op => some (h, o.d, fun k on =>
      let x := redAt op.toNat (treeFtz k g) (operand k on o.a) 6 0
      (fun _ => (x.map (·.1)).getD 0, leafFlags x))
  | .scan h o op exc rev => some (h, o.d, fun k on =>
      let pos := fun l => if rev then 63 - l else l
      let y := scanAt op.toNat (treeFtz k g) (fun q => operand k on o.a (pos q)) 6
      (fun l =>
        let x := if exc then (if pos l = 0 then Option.none else y (pos l - 1)) else y (pos l)
        (x.map (·.1)).getD (identity op.toNat), (List.range 64).foldl (fun n q => n ||| leafFlags (y q)) 0))
  | _ => none

/-- What RED and SCAN do where no flag is enabled; an s destination is written once. -/
def treeResult (h : Hdr) (d : RegCode) (f : Crew → Mask → (Nat → Nat) × Nat) : Result :=
  { h := h, uni := d.isS
    regs := fun k on l _ key => if key = d.toNat then some (BitVec.ofNat 32 ((f k on).1 l)) else Option.none
    ctl := fun k on => if (f k on).2 = 0 then [] else [.fpOr (BitVec.ofNat 32 (f k on).2)] }

/-! ## Reads of the machine, and writes of control registers -/

/-- The order log and a replay do not concern the context of a crew (R322). -/
def Unlogged (s : State) (k : Crew) : Prop :=
  (s.context k.id.ctx).logs = false ∧ (s.context k.id.ctx).replaying = none

/-- A value in D, or in the pair D : D + 1. -/
def valueResult (h : Hdr) (d : RegCode) (wide : Bool) (v : Nat → Thread → Nat) : Result :=
  { h := h, uni := d.isS
    regs := fun _ _ l t key =>
      if key = d.toNat then some (BitVec.ofNat 32 (v l t))
      else if wide = true ∧ key = d.toNat + 1 then some (BitVec.ofNat 32 (v l t / 2 ^ 32))
      else Option.none }

/-- The special registers of R101 by their codes, as a thread of lane l of a crew that stands on core c reads them. -/
def specials (s : State) (c l : Nat) (k : Crew) (t : Thread) : List (Nat × Nat) :=
  let b := tget? s.blocks k.id.block
  let grid := ((tget? s.launches k.id.launch).map fun x : Launch => x.record.grid).getD [0, 0, 0]
  let index := fun j => if k.id.spawned then 2 ^ 32 - 1 else ((b.map fun b : Block => b.xyz).getD [0, 0, 0]).getD j 0
  let whole := fun (f : Block → Nat) => if k.id.spawned then 1 else (b.map f).getD 1
  let f := k.trap.frame
  [(0x00, 64), (0x01, l), (0x02, if k.id.spawned then 0 else k.id.index), (0x03, k.id.crewId.toNat), (0x04, index 0),
    (0x05, index 1), (0x06, index 2), (0x07, grid.getD 0 0), (0x08, grid.getD 1 0), (0x09, grid.getD 2 0)]
  ++ [(0x0A, c % 64), (0x0B, c % 64 / 4), (0x0C, c / 64), (0x0D, s.device.pkg.toNat), (0x0E, k.id.vallot),
    (0x10, s.coreTick c), (0x12, s.coreCycle c), (0x14, (k.ctlOf t).fpctl.toNat), (0x15, (s.core c).tok.level)]
  ++ [(0x16, k.hungry.toNat + 2 * (s.core c).tok.holds.toNat), (0x17, (List.range 64).countP fun b => (s.core c).bank b = .lit),
    (0x18, f.pc.toNat), (0x19, f.code.toNat), (0x1A, f.arg.toNat), (0x1B, f.lt.toNat), (0x1C, f.lm.toNat),
    (0x1E, f.act.toNat), (0x20, whole (·.orbit)), (0x21, whole (·.stab))]
  ++ [(0x22, if k.counts.unsettled = [] then k.counts.issued
      else (k.counts.unsettled.headD 0 + (2 ^ 32 - 1)) % 2 ^ 32),
    (0x24, (k.loops.lc.getD 0 0).toNat), (0x25, (k.loops.lc.getD 1 0).toNat), (0x26, (k.loops.lc.getD 2 0).toNat),
    (0x30, (k.ctlOf t).ltsel.toNat)]

/-- STATE of an entry (R131). -/
def stateCode : EntrySt → Nat
  | .free => 0
  | .live => 1
  | .losing => 2
  | .lost => 3
  | .rebuild => 4

/-- The word of a descriptor that LTDAT reads (R101, R131). -/
def descWord (d : Desc) (n : Nat) : Nat :=
  let e := fun j => d.ext.getD j 0
  let glob := d.kind = 3
  match n with
  | 0 => d.kind + 2 ^ 2 * d.fmt + 2 ^ 6 * d.ndim + 2 ^ 8 * d.rank + 2 ^ 11 * d.clampz.toNat + 2 ^ 12 * d.full.toNat
      + 2 ^ 13 * stateCode d.st + 2 ^ 16 * d.space + 2 ^ 19 * d.gpl.toNat + 2 ^ 20 * d.own.toNat
  | 1 => e 0 + 2 ^ 16 * e 1
  | 2 => e 2 + 2 ^ 16 * e 3
  | 3 => if glob then d.stride.getD 0 0 else d.banklog + 2 ^ 3 * d.bank0 + 2 ^ 9 * d.row0 + 2 ^ 18 * d.nrows
  | 4 => if glob then d.stride.getD 1 0 else d.perm % 2 ^ 28
  | 5 => if glob then d.stride.getD 2 0 else d.perm / 2 ^ 28
  | 6 => if glob then d.handle.toNat % 2 ^ 32 else d.handler.toNat
  | _ => if glob then d.handle.toNat / 2 ^ 32 else 0

/-- Fields of a descriptor within their widths (R131). -/
structure InWidth (d : Desc) : Prop where
  word0 : d.kind < 4 ∧ d.fmt < 16 ∧ d.ndim < 4 ∧ d.rank < 8 ∧ d.space < 8
  ext : ∀ e ∈ d.ext, e < 2 ^ 16
  place : d.banklog < 8 ∧ d.bank0 < 2 ^ 6 ∧ d.row0 < 2 ^ 9 ∧ d.nrows < 2 ^ 9 ∧ d.perm < 2 ^ 42
  stride : ∀ x ∈ d.stride, x < 2 ^ 32

/-- The word of LTQ (R151). -/
def ltqBits (d : Desc) : Nat :=
  if d.st = .free then 0
  else stateCode d.st + 2 ^ 3 * d.full.toNat + 2 ^ 4 * d.rank + 2 ^ 7 * d.kind + 2 ^ 9 * d.clampz.toNat + 2 ^ 10 * d.own.toNat
    + (if d.kind = 3 then 0 else 2 ^ 16 * d.bank0 + 2 ^ 22 * d.banklog)

/-- A live entry, and the banks that it touches (R154). -/
def live (e : Entry) : Bool :=
  decide (e.desc.kind ≠ 3) && (decide (e.desc.st = .live) || (e.placing.isSome && decide (e.desc.st ≠ .rebuild))
    || (decide (e.desc.st = .rebuild) && e.revived && !e.doomed))
def onBank (e : Entry) (b : Nat) : Bool :=
  let first := (e.placing.map (·.1)).getD e.desc.bank0
  decide (e.desc.nrows ≠ 0 ∧ first ≤ b ∧ b < first + 2 ^ e.desc.banklog)

/-- The counts of R154 of a core. -/
def banksIn (c : Core) (p : BankSt → Bool) : Nat := (List.range 64).countP fun b => p (c.bank b)
def litCount (c : Core) : Nat := banksIn c fun st => decide (st = .lit)
def wakingCount (c : Core) : Nat := banksIn c fun st => match st with
  | .waking _ => true
  | _ => false
def doomedCount (c : Core) : Nat := banksIn c fun st => decide (st = .doomed)
def pinnedCount (c : Core) : Nat :=
  (List.range 64).countP fun b => c.layout.any fun x => live x.2 && decide (x.2.desc.rank = 7) && onBank x.2 b
def freeLitCount (c : Core) : Nat :=
  (List.range 64).countP fun b => decide (c.bank b = .lit) && !c.layout.any fun x => live x.2 && onBank x.2 b

/-- The words of CAPQ (R171). -/
def capBits (c : Core) (st : Bool) : Nat :=
  if st then doomedCount c + 2 ^ 8 * wakingCount c + 2 ^ 16 * freeLitCount c
    + 2 ^ 24 * (litCount c + wakingCount c - c.cap.target)
  else litCount c + 2 ^ 8 * c.cap.target + 2 ^ 16 * pinnedCount c + 2 ^ 24 * c.cap.pinq

/-- The level word of TOKQ (R192): a crew holds an earmark when a matrix request of it is paid and not granted yet. -/
def levelBits (s : State) (c : Nat) (k : Crew) : Nat :=
  let t := (s.core c).tok
  let earmark := (s.quad (quadOf c)).table.any fun r =>
    decide (r.core = c ∧ r.ctx = k.id.ctx ∧ r.crewId = k.id.crewId) && (match r.st with
      | .earmarked _ => true
      | _ => false)
  t.level + 2 ^ 12 * t.tkcap + 2 ^ 24 * k.hungry.toNat + 2 ^ 25 * t.holds.toNat + 2 ^ 26 * earmark.toNat

/-- ⌈n / d⌉, and the price of a nominal price under the table of an operating point (R175, R188). -/
def roundedUp (n d : Nat) : Nat := (n + d - 1) / d
def scales : List Nat := [100, 86, 75, 66, 55, 46, 39, 34]
def priceUnder (op nominal : Nat) : Nat := roundedUp (nominal * scales.getD op 100) 100

/-- K and Q_F of a matrix format (R174). -/
def passOf (fmt : Nat) : Option (Nat × Nat) :=
  match fmt with
  | 3 | 4 => some (128, 4)
  | 2 => some (64, 8)
  | 1 => some (64, 11)
  | 7 => some (128, 8)
  | 9 => some (256, 4)
  | _ => none

/-- The prices of R173 that an opcode and its function alone give. -/
def listed (opc fn : Nat) : Nat :=
  if opc = 0x20 then (if fn ∈ [0x0A, 0x0B, 0x0C, 0x0D, 0x0E] then 3 else 1)
  else if opc = 0x21 then 1
  else if opc = 0x30 then (if fn ∈ [0x09, 0x0A] then 0 else 1)
  else if opc = 0x92 then 30
  else if opc = 0x94 ∨ opc = 0x95 then 16
  else if opc = 0x96 then 24
  else if opc = 0xA4 ∨ opc = 0xA6 then 1
  else 0

/-- What PRICEQ gives for a selector (R193). -/
def priceWord (op a : Nat) : Nat :=
  let opc := a % 2 ^ 8
  let fn := a / 2 ^ 8 % 2 ^ 6
  let fmt := a / 2 ^ 14 % 2 ^ 4
  let q := a / 2 ^ 18 % 2 ^ 5
  let space := a / 2 ^ 23 % 2 ^ 3
  let opx := a / 2 ^ 26 % 2 ^ 4
  let assigned := (opcLen opc).isSome ∧ (if grouped opc then fnAssigned opc fn else decide (fn = 0)) = true
  let tree := opc = 0x40 ∧ (fn = 3 ∨ fn = 4)
  let matrix := opc = 0x90 ∨ opc = 0x91
  let copy := opc ∈ [0x80, 0x81, 0x84, 0x85, 0x88]
  if ¬ assigned ∨ a / 2 ^ 30 ≠ 0 ∨ (¬ tree ∧ opx ≠ 0) ∨ (¬ matrix ∧ (fmt ≠ 0 ∨ q ≠ 0)) ∨ (¬ copy ∧ space ≠ 0)
    ∨ (matrix ∧ (passOf fmt = none ∨ 16 < q)) ∨ (copy ∧ 5 < space) ∨ (tree ∧ 10 < opx) then 0xFFFFFFFF
  else if tree then priceUnder op (if opx ∈ [1, 6, 7] then 1 else 0)
  else if matrix then
    let p := (passOf fmt).getD (0, 0)
    priceUnder op (roundedUp (105 * ((if q = 0 then p.2 else min q p.2) * p.1 / 32)) 4 + (if opc = 0x91 then 64 else 0))
  else if copy then
    priceUnder op ([0, 4096 / 256, 4096 / 64, 4096 / 32, 4096 / 16, 4096 / 16].getD space 0)
  else priceUnder op (listed opc fn)

/-- The word of TCNT with OUT 0 (R206): byte t describes tag t. -/
def tagBits (p : CopySt) : Nat :=
  (List.range 8).foldl (fun v n =>
    let x := tget ⟨[], false, false⟩ p.tags n
    v + 2 ^ (8 * n) * (min 63 x.ids.length + 2 ^ 6 * x.loss.toNat + 2 ^ 7 * x.fault.toNat)) 0

/-- The word of TCNT with OUT 1 (R206). -/
def outBits (c : Core) (k : Crew) : Nat :=
  (c.reqs.countP fun r => r.deferred && decide (r.ctx = k.id.ctx ∧ r.crewId = k.id.crewId)) + 2 ^ 11 * k.copy.oloss.toNat
    + 2 ^ 12 * k.copy.ofault.toNat + 2 ^ 13 * k.copy.oref.toNat

/-- The word of CQRY (R212), by the state of the ticket that an id names; 0 of a stale id and of none. -/
def ticketBits (c : Core) (id : Word) : Nat :=
  let t := c.ticket (id.toNat % 64)
  if id = 0xFFFFFFFF ∨ t.gen ≠ id.toNat / 64 ∨ t.st = .free then 0
  else (match t.st with
    | .free => 0
    | .pend => 1
    | .run => 2
    | .parked => 3
    | .done => 4
    | .lost => 5
    | .fault => 6
    | .deferred => 7) + 2 ^ 3 * t.setf.toNat + 2 ^ 8 * t.landed

/-- Instructions that read the machine, whose crew is `k` as the effect begins: SRD (R101), LTQ (R151), CAPQ
(R171), TCNT (R206), CQRY (R212), TOKQ (R192), PRICEQ (R193), TICKR (R194), CNTR (R195). -/
def readResult (s : State) (g : Group) (k : Crew) : Instr → Option Result
  | .srd h d sc => some (valueResult h d (specialWide sc) fun l t => s.special g.core l k t sc.toNat)
  | .ltq h d n => some (valueResult h d false fun _ _ => ((s.core g.core).entry k.id.ctx n.toNat).ltqWord.toNat)
  | .capq h st d => some (valueResult h d false fun _ _ => ((s.core g.core).capWord st).toNat)
  | .tcnt h out clr d => some { valueResult h d (!out) (fun _ _ =>
      if out then k.copy.outWord ((s.core g.core).pendOf k) else k.copy.word) with
        keep := fun k' => if clr ∧ k.holding h g.mask ≠ 0 then { k' with copy := k'.copy.clear } else k' }
  | .cqry h est d a => some (valueResult h d est fun l t =>
      if est then
        match (s.core g.core).lookup (t.reg a) with
        | some x => if x.st = .done then x.doneTick else if x.st = .deferred then 2 ^ 64 - 1
            else Config.estimateDelay (s.freeCtr + l) % 2 ^ 64
        | Option.none => Config.estimateDelay (s.freeCtr + l) % 2 ^ 64
      else (s.core g.core).queryWord (t.reg a))
  | .tokq h sp d => some (valueResult h d sp fun _ _ =>
      if sp then k.counts.cntr.getD 5 0 else s.levelWord g.core k)
  | .priceq h d a => some (valueResult h d false fun _ t => priceq (s.quad (quadOf g.core)).op (t.reg a).toNat)
  | .tickr h d a => some (valueResult h d true fun _ t => (s.coreTick g.core + (t.reg a).toNat) % 2 ^ 64)
  | .cntr h i d => some (valueResult h d true fun _ _ =>
      if i = 7 then (s.core g.core).tok.claims else k.counts.cntr.getD i.toNat 0)
  | _ => none

/-- Reads of the copies' state: in a cycle in which an operation of their core has landed they issue later (R222). -/
def queries : Instr → Bool
  | .tcnt _ _ _ _ | .cqry _ _ _ _ => true
  | _ => false

/-- A control write by the lowest lane whose guard holds. -/
def ctlResult (h : Hdr) (op : Thread → CtlOp) : Result :=
  { Result.none h with ctl := fun k on => ((k.thread? (lowLane on)).map fun t => op t).toList }

/-- SWR of FPCTL and LTSEL, SETH and TMASK (R104, R324, R325). -/
def ctlWrite (g : Group) : Instr → Option Result
  | .swr h sc a =>
    if sc = 0x14 then some (ctlResult h fun t => .fpSet (t.reg a &&& 0x00031F1F))
    else if sc = 0x30 then some (ctlResult h fun t => .ltsel (t.reg a &&& 0x7FF))
    else none
  | .seth h o => some (ctlResult h fun t => .handler o.cls.toNat
      (if o.src = 0 then g.pc + BitVec.ofInt 32 (4 * o.off.toInt)
       else if o.src = 1 then t.reg o.a &&& 0xFFFFFFFC else 0))
  | .tmask h o => some {
      h := h, uni := o.d.isS && o.wd
      regs := fun k _ _ t key =>
        if o.wd = true ∧ key = o.d.toNat then some (BitVec.ofNat 32 (k.ctlOf t).tmask.toNat) else Option.none
      ctl := fun k on => match k.thread? (lowLane on) with
        | Option.none => []
        | some t =>
          let old := (k.ctlOf t).tmask
          if o.op = 0 then [] else if o.op = 1 then [.tmask (old ||| o.mask)]
          else if o.op = 2 then [.tmask (old &&& ~~~o.mask)] else [.tmask o.mask] }
  | _ => none

/-! ## Latencies (R28 to R30) -/

/-- Cycles from which a thread may issue again, for class A and for class B, after a STALL (R28). -/
def stallTo (now : Nat) (h : Hdr) (clsA : Bool) : Nat × Nat :=
  if h.stall = 0 then (now + clsA.toNat, now + (!clsA).toNat) else (now + h.stall.toNat, now + h.stall.toNat)

/-- The latency of an instruction's register results, and of the flags that it raises (R29, R52). -/
def latency (i : Instr) : Nat :=
  match i with
  | .frcp _ _ | .frsq _ _ | .fexp2 _ _ | .flog2 _ _ | .ftanh _ _ => 8
  | .red _ _ _ | .scan _ _ _ _ _ => 6
  | .shfl _ _ | .shfr _ _ _ | .shfx _ _ _ | .bcast _ _ _ | .vote _ _ _ | .matchLanes _ _ => 3
  | .pack _ _ | .unpk _ _ | .ltq _ _ _ | .rerank _ _ | .capq _ _ _ | .tcnt _ _ _ _ | .cqry _ _ _ _ | .tokq _ _ _
  | .priceq _ _ _ | .tickr _ _ _ | .cntr _ _ _ | .tmask _ _ => 4
  | _ => if (floatOf i).isSome then 4 else 2

/-- The distance from which the writes of control registers are seen (R29, R52, R104, R324, R325). -/
def ctlLatency (i : Instr) : Nat :=
  match i with
  | .tmask _ _ => 2
  | _ => latency i

/-- The result of an instruction that writes registers or control registers at a latency. -/
def Gives (s : State) (g : Group) (k : Crew) (i : Instr) (r : Result) : Prop :=
  intResult i = some r ∨ moveResult i = some r ∨ predResult i = some r ∨ laneResult i = some r
    ∨ flowResult g i = some r ∨ ctlWrite g i = some r
    ∨ (∃ h d f, floatOf i = some (h, d, f) ∧ r = floatResult h f ∧ badLanes k (k.holding h g.mask) f = 0)
    ∨ (∃ h d f, treeOf i g = some (h, d, f) ∧ r = treeResult h d f
      ∧ ∀ l t, (k.holding h g.mask).getLsbD l = true → k.thread? l = some t →
        enables k t &&& (f k (k.holding h g.mask)).2 = 0)
    ∨ (readResult (s.begun i g) g (s.begunCrew i g k) i = some r ∧ Unlogged s k
      ∧ (queries i = true → s.landedNow g.core = false))

/-- Serial numbers of control writes lie below the next one. -/
def CtlFresh (s : State) (k : Crew) : Prop :=
  (∀ p ∈ k.ctlLog, p.1 < s.serial) ∧ ∀ l t, k.thread? l = some t → ∀ p ∈ t.ctlPend, p.1 < s.serial

/-- The registers that an instruction of the integer or the floating-point groups reads, in operand order: D where it is
read, then A, then B (R30). -/
def operands : Instr → Option (List RegCode)
  | .imad _ o | .bfi _ o | .ffma _ o | .pfma2 _ o | .qnt _ o => some [o.d, o.a, o.b]
  | .imadImm _ o | .ffmaImm _ o => some [o.d, o.a]
  | .iadd _ o | .isub _ o | .imul _ o | .imulh _ o | .imin _ o | .imax _ o | .and _ o | .or _ o | .xor _ o | .andn _ o
  | .shl _ o | .shr _ o | .sar _ o | .bfx _ o | .iset _ o | .fadd _ o | .fsub _ o | .fmul _ o | .fmin _ o | .fmax _ o
  | .fset _ o | .fscaleb _ o | .padd2 _ o | .pmul2 _ o | .pmax2 _ o | .pmin2 _ o => some [o.a, o.b]
  | .iabs _ o | .popc _ o | .clz _ o | .brev _ o | .mov _ o => some [o.b]
  | .iaddImm _ o | .isubImm _ o | .imulImm _ o | .imulhImm _ o | .iminImm _ o | .imaxImm _ o | .andImm _ o | .orImm _ o
  | .xorImm _ o | .andnImm _ o | .shlImm _ o | .shrImm _ o | .sarImm _ o | .isetImm _ o | .faddImm _ o | .fsubImm _ o
  | .fmulImm _ o | .fminImm _ o | .fmaxImm _ o | .fsetImm _ o | .fscalebImm _ o => some [o.a]
  | .fneg _ o | .fabs _ o | .fclass _ o | .frcp _ o | .frsq _ o | .fexp2 _ o | .flog2 _ o | .ftanh _ o => some [o.a]
  | .cvt _ o => some [o.a]
  | .swr _ _ a | .brx _ a | .ret _ a | .callx _ _ a | .priceq _ _ a | .tickr _ _ a | .cqry _ _ _ a => some [a]
  | _ => none

/-- A thread of a set finds a register early, and its SBCHK is set (R30, R52). -/
def EarlyIn (k : Crew) (m : Mask) (key : Nat) : Prop :=
  ∃ l t, m.getLsbD l = true ∧ k.thread? l = some t ∧ (k.ctlOf t).fpctl.getLsbD 17 = true ∧ t.early key = true

/-- The first early source: the guard, which every thread of the group reads, or else the first operand that is early in
a thread whose guard holds. -/
def FirstEarly (k : Crew) (h : Hdr) (g : Group) (ops : List RegCode) (key : Nat) : Prop :=
  let guard := h.ge = true ∧ EarlyIn k g.mask (pKey h.gp)
  (guard ∧ key = pKey h.gp)
    ∨ (¬ guard ∧ ∃ xs y ys, ops = xs ++ y :: ys ∧ key = y.toNat ∧ EarlyIn k (k.holding h g.mask) key
      ∧ ∀ x ∈ xs, ¬ EarlyIn k (k.holding h g.mask) x.toNat)

/-! ## Groups of several crews (R64 to R66) -/

/-- The part of a crew, as a group of its own. -/
def alone (g : Group) (p : Nat × Mask) : Group := { g with parts := [p] }

/-- An instruction of the integer or the floating-point groups, and its result in a part of which no lane raises an
enabled flag. -/
def RegroupResult (i : Instr) (r : Result) (k : Crew) (m : Mask) : Prop :=
  intResult i = some r ∨ moveResult i = some r ∨ predResult i = some r
    ∨ ∃ h d f, floatOf i = some (h, d, f) ∧ r = floatResult h f ∧ badLanes k (k.holding h m) f = 0

/-- The checks before an instruction's effect in a part of a group. -/
structure PartPasses (s : State) (i : Instr) (r : Result) (g : Group) (p : Nat × Mask) (k : Crew) : Prop where
  crew : s.crew? g.core p.1 = some k
  owner : (s.core g.core).slotOf? k.id.ctx k.id.crewId = some p.1
  result : RegroupResult i r k p.2
  nonempty : p.2 ≠ 0
  lanes : ∀ l, p.2.getLsbD l = true → ∃ t, k.thread? l = some t ∧ t.st = .ready
  buffer : k.buffered g.pc = some k
  early : s.earlySource i r.h g p.1 p.2 = none
  lands : r.Lands s (alone g p) k

/-! ## Completion points (R31, R62, R364) -/

/-- What an instruction that is a completion point does to its group: the lanes that wait in it and how, what
the others read afterwards in some keys, the s registers and the claim that it sets. -/
structure Point where
  h : Hdr
  stay : Mask := 0
  st : Nat → TState := fun _ => .ready
  regs : Nat → Nat → Option Word := fun _ _ => Option.none
  sregs : Nat → Option Word := fun _ => Option.none
  claim : Machine.Crew → Option Claim := fun k => k.claim

/-- What a crew keeps at a completion point. -/
structure Kept (k k' : Machine.Crew) : Prop where
  st : k'.st = k.st
  id : k'.id = k.id
  loops : k'.loops = k.loops
  trap : k'.trap = k.trap
  copy : k'.copy = k.copy
  ctl : k'.finalCtl = k.finalCtl
  kbTile : k'.kbTile = k.kbTile
  evict : k'.evict = k.evict

/-- A thread after a completion point of a crew with these s registers (R31, R364): no latency is outstanding, and its
registers hold their last values or what the point has put there; where no thread access has a value still to bring,
nothing is outstanding, and it reads those values. -/
structure Settled (sregs : Tab Word) (put : Nat → Option Word) (t t' : Thread) : Prop where
  ctl : t'.ctlPend = []
  left : ∀ p ∈ t'.pend, p.left = 0
  final : ∀ key, isSKey key = false → t'.final key = (put key).getD (t.final key)
  read : (∀ p ∈ t.pend, p.due = none) → t'.pend = []
    ∧ ∀ key, t'.read key = (put key).getD (if isSKey key then wget sregs key else t.final key)

/-- The crew after it: the lanes that wait stand in it, and may go on after the STALL of the instruction; the others are
READY at the next instruction, settled with the crew's s registers and what was written. -/
structure Point.Crew (p : Point) (x : Context) (now : Nat) (g : Group) (k k' : Machine.Crew) : Prop where
  kept : Kept k k'
  claim : k'.claim = p.claim k
  sregs : ∀ key, wget k'.sregs key = (p.sregs key).getD (wget k.sregs key)
  out : ∀ l, g.mask.getLsbD l = false → k'.thread? l = k.thread? l
  wait : ∀ l t, g.mask.getLsbD l = true → p.stay.getLsbD l = true → k.thread? l = some t →
    k'.thread? l = some { t with st := p.st l, nextA := (stallTo now p.h g.clsA).1, nextB := (stallTo now p.h g.clsA).2 }
  done : ∀ l t, g.mask.getLsbD l = true → p.stay.getLsbD l = false → k.thread? l = some t →
    ∃ t', k'.thread? l = some t' ∧ t'.st = .ready ∧ t'.pc = x.start g.next ∧ Settled k'.sregs (p.regs l) t t'

/-- The machine goes on: beside the crew of the group it is `X` (up to the next serial number). -/
def Point.EffectIn (p : Point) (X : State) (s : State) (i : Instr) (g : Group) (k : Machine.Crew) : Prop :=
  ∃ n k', exec i s = .next { X.modCrew g.core g.slot (fun _ => k') with serial := n }
    ∧ p.Crew (s.context k.id.ctx) (s.coreCycle g.core) g k k'

/-- No lane that goes on meets the end of a loop body. -/
def Point.Lands (p : Point) (s : State) (g : Group) (k : Machine.Crew) : Prop :=
  k.Clear (s.context k.id.ctx) (g.mask &&& ~~~p.stay) fun _ => g.next

/-- P gets a value in a set of lanes. -/
def inP (on : Mask) (p : PIdx) (v : Nat → Bool) (l key : Nat) : Option Word :=
  if on.getLsbD l = true ∧ key = pKey p then some (BitVec.ofNat 32 (v l).toNat) else none

/-- The thread that acts for the group: the lowest lane whose guard holds (R363). -/
def leader (k : Crew) (h : Hdr) (g : Group) : Option Thread :=
  if k.holding h g.mask = 0 then none else k.thread? (lowLane (k.holding h g.mask))

/-- The waits: TWAIT (R204), CWAIT (R212) where no LATE is taken, MWAIT (R246), WAITF (R146) on a LIVE entry,
SLEEPT (R93), BARW (R265), IMGW (R305); and SYMQ (R304). -/
def waitPoint (s : State) (g : Group) (k : Crew) : Instr → Option Point
  | .twait h old tag =>
    let t := if old then k.copy.oldest else some tag.toNat
    some { h := h, stay := if ((t.map k.tagIds).getD []).isEmpty then 0 else k.holding h g.mask
           st := fun _ => .parked (.tag (t.getD 0)) }
  | .cwait h p a =>
    let on := k.holding h g.mask
    let own := fun l => ((k.thread? l).map (·.reg a)).getD 0
    let c := s.core g.core
    let late := (lanesOf on).any fun l => c.waitsFor (own l)
    let f := k.handlerFor g.mask 2 none
    if late = true ∧ f.2 = false ∧ (f.1 ≠ 0 ∨ k.trap.handling = true) then none
    else some { h := h, stay := if late then on else 0
                st := fun l => .parked (.ticket p (own l) ((lanesOf on).map own))
                regs := inP on p fun l => c.verdict (own l) }
  | .mwait h p a =>
    (leader k h g).map fun t =>
      let id := t.reg a
      { h := h, stay := if (s.core g.core).waitsFor id then g.mask else 0
        st := fun _ => .parked (.ticket p id [id])
        regs := inP g.mask p fun _ => (s.core g.core).verdict id }
  | .waitf h n =>
    let e := (s.core g.core).entry k.id.ctx n.toNat
    if s.coreCycle g.core < (s.core g.core).nextAccess ∨ e.desc.st ≠ .live ∨ e.freeing = true ∨ e.desc.isGlobal = true
    then none
    else some { h := h, stay := if e.desc.full then 0 else k.holding h g.mask, st := fun _ => .parked (.full n.toNat) }
  | .sleept h a =>
    let till := fun l => ((k.thread? l).map (·.pair a)).getD 0
    some { h := h, stay := maskFilter (k.holding h g.mask) fun l => decide (s.coreTick g.core < till l)
           st := fun l => .sleeping (till l) }
  | .barw h o =>
    let set := if o.cm then g.mask else k.holding h g.mask
    match s.bar? k.id.block o.bid.toNat with
    | none => none
    | some (wide, b) =>
      let gen := fun l => (tget Member.zero b.members (s.memberOf k wide o.cm l)).count
      some { h := h, stay := maskFilter set fun l => decide (b.opened < gen l)
             st := fun l => .parked (.barrier (barKey k wide o.bid.toNat) (gen l)) }
  | .imgw h p =>
    let on := k.holding h g.mask
    let n := k.counts.issued
    some { h := h, stay := if (s.core g.core).imagesSettled k n then 0 else on, st := fun _ => .parked (.image p n)
           regs := inP on p fun _ => k.imagesDone n }
  | .symq h sel el d =>
    let v := s.symq k sel.toNat el.toNat
    let put := fun key => if sel = 5 ∧ key = d.toNat + 1 then some (BitVec.ofNat 32 v.2)
      else if key = d.toNat then some (BitVec.ofNat 32 v.1) else none
    some { h := h, regs := fun _ => put, sregs := fun key => if d.isS then put key else none }
  | _ => none

/-- An entry of the group's core and context. -/
def entryOf (s : State) (g : Group) (k : Crew) (n : BitVec 8) : Entry := (s.core g.core).entry k.id.ctx n.toNat

/-- ALLOC (R147), MAPG (R149), FREE (R150), REVIVE (R167) and WAITCAP (R168), where they take no trap: what
changes beside the crew, and the completion point. Placement, claims and the condition of a wait are those of
`Core.find`, `State.claimed` and `State.capHolds`. -/
def layoutPoint (s : State) (g : Group) (k : Crew) (i : Instr) : Option (State × Point) :=
  let ctx := k.id.ctx
  let c := s.core g.core
  let place := fun (h : Hdr) (p : PIdx) (n : BitVec 8) (e : Entry) (spot : Nat × Nat) =>
    let X := s.modCore g.core fun c =>
      (c.setEntry ctx n.toNat { e with placing := some spot }).light spot.1 e.desc.banklog (s.coreTick g.core)
    let lit := (X.core g.core).litAt spot.1 e.desc.banklog
    (X, ({ h := h, stay := g.mask
           st := fun _ => .parked (.place n.toNat p lit (if lit = 0 then s.coreCycle g.core + e.desc.nrows else 0)) }
          : Point))
  let fails := fun (h : Hdr) (p : PIdx) =>
    (s, ({ h := h, regs := inP g.mask p fun _ => false, claim := fun _ => Option.none } : Point))
  match i with
  | .alloc h o => (leader k h g).bind fun t =>
    let e := entryOf s g k o.n
    let bits := setBits (t.descBits o.s) 20 1 o.own.toNat
    if e.desc.st ≠ .free ∨ e.reserved = true ∨ descCheck false (s.context ctx).codeBase (s.context ctx).codeSize bits ≠ none
    then none
    else
      let d := { Desc.ofNat bits with nrows := (Desc.ofNat bits).needRows }
      match c.find d.banklog d.nrows d.rank (s.claimed g.core g.slot) with
      | none => some (fails h o.p)
      | some (b0, row, _) => some (place h o.p o.n { Entry.free with desc := d, owner := ownerOf k o.own } (b0, row))
  | .revive h p n =>
    let e := entryOf s g k n
    if e.desc.st ≠ .rebuild ∨ e.rebuilder ≠ some g.slot ∨ e.desc.isGlobal = true then none
    else if e.revived then some (s, { h := h, regs := inP g.mask p fun _ => true })
    else match c.find e.desc.banklog e.desc.nrows e.desc.rank (s.claimed g.core g.slot) with
      | none => some (fails h p)
      | some (b0, row, _) => some (place h p n e (b0, row))
  | .mapg h o => (leader k h g).bind fun t =>
    let e := entryOf s g k o.n
    let bits := setBits (t.descBits o.s) 20 1 o.own.toNat
    let d := Desc.ofNat bits
    if e.desc.st ≠ .free ∨ e.reserved = true ∨ descCheck true (s.context ctx).codeBase (s.context ctx).codeSize bits ≠ none
    then none
    else
      let ok := s.handleOk g.core ctx d
      some (if ok then s.modCore g.core fun c => c.setEntry ctx o.n.toNat
                { Entry.free with desc := { d with st := .live }, owner := ownerOf k o.own } else s,
            { h := h, regs := inP (k.holding h g.mask) o.p fun _ => ok })
  | .free h p n =>
    let e := entryOf s g k n
    if e.desc.st = .free ∨ e.desc.st = .rebuild ∨ e.freeing = true ∨ s.engineUses g.core ctx n.toNat = true then
      some (s, { h := h, regs := inP g.mask p fun _ => false })
    else some ((s.modCore g.core fun c => c.setEntry ctx n.toNat { e with freeing := true }).later g.core
          (s.coreCycle g.core + 6) (.free (entryKey ctx n.toNat)),
        { h := h, stay := g.mask, st := fun _ => .parked (.freeing n.toNat p) })
  | .waitcap h o => (leader k h g).map fun t =>
    let deadline := if o.nd then Option.none else some (t.pair o.d)
    if s.capHolds g.core g.slot o.nb.toNat o.rank.toNat then
      (s, { h := h, regs := inP g.mask o.p fun _ => true
            claim := fun _ => some ⟨o.nb.toNat, s.coreTick g.core + 1000⟩ })
    else if (deadline.map fun x => decide (x ≤ s.coreTick g.core)) = some true then
      (s, { h := h, regs := inP g.mask o.p fun _ => false })
    else (s, { h := h, stay := g.mask, st := fun _ => .parked (.cap o.nb.toNat o.rank.toNat o.p deadline) })
  | _ => none

/-! ## Control with effects of its own (R78, R86, R90 to R92) -/

/-- The crew as only its threads, loop state, trap state and counts may differ. -/
structure Stays (k k' : Machine.Crew) : Prop where
  st : k'.st = k.st
  id : k'.id = k.id
  copy : k'.copy = k.copy
  claim : k'.claim = k.claim
  kbTile : k'.kbTile = k.kbTile
  evict : k'.evict = k.evict
  ctl : k'.finalCtl = k.finalCtl
  sregs : ∀ key, wget k'.sregs key = wget k.sregs key

/-- A thread goes on at `pc` with its registers as they were. -/
def WentOn (t t' : Thread) (pc : Word) : Prop :=
  t'.st = .ready ∧ t'.pc = pc ∧ ∀ key, t'.final key = t.final key

/-- A thread goes on at `pc` after a completion point of a crew with these s registers (R31, R364). -/
def Completed (sregs : Tab Word) (t t' : Thread) (pc : Word) : Prop :=
  t'.st = .ready ∧ t'.pc = pc ∧ Settled sregs (fun _ => none) t t'

/-- The count of LOOP: its immediate, or a register of the lowest lane (R91). -/
def loopCount (o : LoopOp) (t : Thread) : Word := if o.cs then t.reg o.c else BitVec.ofNat 32 o.count.toNat

/-- The level that LOOP opens: START is the next instruction's address, END is PC + 4 END (R91). -/
def loopOpened (x : Context) (g : Group) (k : Machine.Crew) (o : LoopOp) : LoopLevel :=
  ⟨x.start (g.pc + 12), x.start (g.pc + BitVec.ofNat 32 (4 * o.endOff.toNat)), k.handles g.mask⟩

/-- A running crew that handles no trap and of which no thread waits for others at an instruction. -/
def NobodyWaits (k : Machine.Crew) : Prop :=
  k.st = .run ∧ k.trap.handling = false
    ∧ ∀ p ∈ k.threads, p.2.st ≠ .collective ∧ ∀ m, p.2.st ≠ .crossLane m

/-! ## Instructions with one effect beside the crew -/

/-- PHINT (R196), CKPT (R327), MARK (R145) of a LIVE entry, RERANK (R170) on an entry of the scratchpad, and SWR of
LTDAT (R104, R152): the machine beside the crew, and the crew's result. -/
def sideResult (s : State) (g : Group) (k : Crew) (i : Instr) : Option (State × Result) :=
  let c := s.core g.core
  match i with
  | .phint h kind a => (leader k h g).map fun t =>
    (s.modQuad (quadOf g.core) fun q =>
        if q.mailbox.length < 16 then
          { q with mailbox := q.mailbox ++ [⟨k.id.crewId, kind.toNat, t.reg a, s.coreTick g.core⟩] } else q,
      .none h)
  | .ckpt h mark a => (leader k h g).map fun t =>
    (s.modContext k.id.ctx fun x =>
        if mark then
          (if x.logs then { x with log := x.log ++ [⟨9, k.id.crewId, k.counts.retired, [(t.reg a).toNat], s.retirements k.id.ctx⟩] } else x)
        else { x with ckptAsked := x.ckptAsked || x.ccb.replay },
      .none h)
  | .mark h set n =>
    let e := c.entry k.id.ctx n.toNat
    if s.coreCycle g.core < c.nextAccess ∨ e.desc.st ≠ .live ∨ e.freeing = true ∨ e.desc.isGlobal = true
      ∨ k.holding h g.mask = 0 then none
    else some ((s.modCore g.core fun c => { c with nextAccess := s.coreCycle g.core }).later g.core
        (s.coreCycle g.core + 6) (.mark (entryKey k.id.ctx n.toNat) set), .none h)
  | .rerank h o => (leader k h g).bind fun t =>
    let e := c.entry k.id.ctx o.n.toNat
    let r := if o.rs then (t.reg o.a).toNat else o.rimm.toNat
    let ok := decide (e.desc.st = .live ∧ r ≤ 7 ∧
      (r = 7 → e.desc.rank ≠ 7 → c.nPinned + c.newPins e.desc.bank0 e.desc.banklog ≤ c.cap.pinq))
    if e.desc.st = .free ∨ e.desc.isGlobal = true then none
    else some (if ok then s.later g.core (s.coreCycle g.core + 6) (.rerank (entryKey k.id.ctx o.n.toNat) r) else s,
      .one h (pKey o.p) false fun _ => BitVec.ofNat 32 ok.toNat)
  | .swr h sc a => (leader k h g).bind fun t =>
    let sel := (k.ctlOf t).ltsel.toNat
    if sc = 0x31 then
      some (s.later g.core (s.coreCycle g.core + 2)
        (.ltdat (entryKey k.id.ctx (sel % 256)) (sel / 256 % 8) (t.reg a) g.slot g.pc), .none h)
    else none
  | _ => none

/-- Instructions that do nothing where no guard of the group holds (R19). -/
def guarded : Instr → Option Hdr
  | .trap h _ | .seth h _ | .ckpt h _ _ | .phint h _ _ | .rerank h _ | .swr h _ _ | .lbrk h | .bkpt h _
  | .exit h | .tcnt h _ _ _ => some h
  | _ => none

/-! ## Traps (R306 to R311) -/

/-- A trap of a class would enter its handler: none is being handled, the class is not masked and has a
handler, as the lowest lane of the group reads the control registers (R306). -/
def Enterable (g : Group) (k : Crew) (cls : Nat) : Prop :=
  k.trap.handling = false ∧ (k.ctlAt g.mask).tmask.getLsbD cls = false ∧ (k.ctlAt g.mask).handlers.getD cls 0 ≠ 0

/-- Trap entry (R307): HANDLING, HACT and the frame; every thread of the group is READY at the handler's PC
after a completion point. -/
structure Entered (x : Context) (g : Group) (k k' : Machine.Crew) (f : Frame) : Prop where
  stays : Stays k k'
  loops : k'.loops = k.loops
  counts : k'.counts = k.counts
  trap : k'.trap = { k.trap with handling := true, hact := g.mask, frame := f }
  out : ∀ l, g.mask.getLsbD l = false → k'.thread? l = k.thread? l
  lanes : ∀ l t, g.mask.getLsbD l = true → k.thread? l = some t → ∃ t', k'.thread? l = some t'
    ∧ Completed k.sregs t t' (x.start ((k.ctlAt g.mask).handlers.getD (f.code.toNat / 65536) 0))

/-- A trap of a class, its CODE, TRAPARG and TRAPLT, and the faulting lanes, is entered. -/
def Enters (X s : State) (i : Instr) (g : Group) (k : Machine.Crew) (cls code : Nat) (arg : Word) (lt : BitVec 8)
    (lm : Mask) : Prop :=
  ∃ n k', exec i s = .next { X.modCrew g.core g.slot (fun _ => k') with serial := n }
    ∧ Entered (s.context k.id.ctx) g (s.begunCrew i g k) k'
      ⟨g.pc, BitVec.ofNat 32 (code + 65536 * cls), arg, lt, lm, g.mask⟩

/-- Where RETT takes the threads of the handler: RETRY (0) to the instruction that trapped, SKIP (1) and GIVEUP
(2, after LOSS alone) behind it (R311). -/
def returnTo (x : Context) (k : Machine.Crew) (form : Nat) : Option Word :=
  let f := k.trap.frame
  match form with
  | 0 => some (x.start f.pc)
  | 1 => some (x.start (f.pc + BitVec.ofNat 32 (x.lenAt f.pc)))
  | 2 => if f.cls = 1 then some (x.start (f.pc + BitVec.ofNat 32 (x.lenAt f.pc))) else none
  | _ => none

/-- The crew is killed (R35): HELD, every thread retired, no trap handled or pending, no claim. -/
def Killed (k' : Machine.Crew) : Prop :=
  k'.st = .held ∧ (∀ l t, l < 64 → k'.thread? l = some t → t.st = .retired) ∧ k'.trap.handling = false ∧ k'.trap.pending = []
    ∧ k'.claim = none

/-! ## Thread accesses (R137 to R145, R268) -/

/-- The lanes whose guards hold, ascending, with what each touches. -/
abbrev Touched := List (Nat × Thread × List (List Nat))

/-- A thread access: its entry, the kinds that it accepts (R141), its runs of registers (R138), the elements that
each lane touches, the keys for which a lane waits for a value and their latency, and what reaches the banks at issue + 6
under a serial number (R29). -/
structure Access where
  h : Hdr
  n : Nat
  kinds : Desc → Bool
  runs : Desc → List (RegCode × Nat)
  elems : Desc → List (Nat × Thread) → Nat → Thread → List (List Nat)
  waits : Desc → List (List Nat) → Nat → Bool := fun _ _ _ => false
  lat : Nat := 6
  op : Group → Machine.Crew → Nat → Desc → Touched → LateOp

/-- The lanes that act. -/
def acting (k : Crew) (on : Mask) : List (Nat × Thread) :=
  (lanesOf on).filterMap fun l => (k.thread? l).map fun t => (l, t)

def Access.touched (a : Access) (d : Desc) (k : Crew) (on : Mask) : Touched :=
  (acting k on).map fun (l, t) => (l, t, a.elems d (acting k on) l t)

/-- Elements from a coordinate on, along the innermost dimension (R142). -/
def along (c : List Nat) (n : Nat) : List (List Nat) := (List.range n).map fun j => c.dropLast ++ [c.getLastD 0 + j]

/-- A load of `n` elements into the run at `v` (R142). -/
def loads (h : Hdr) (o : AccOp) (n : Nat) (kinds : Desc → Bool)
    (elems : Desc → List (Nat × Thread) → Nat → Thread → List (List Nat)) : Access :=
  { h := h, n := o.n.toNat, kinds := kinds, elems := elems
    runs := fun d => [(o.c, d.dims), (o.v, ceilDiv (n * d.w) 32)]
    waits := fun d es key => decide (o.v.toNat ≤ key ∧ key < o.v.toNat + ceilDiv (es.length * d.w) 32)
    op := fun g _ m d ts => .load m d o.v (ts.map fun (l, _, es) => (g.slot, l, es)) }

/-- The value of a run of registers, the first lowest. -/
def runOf (t : Thread) (v : RegCode) (n : Nat) : Nat :=
  (List.range n).foldl (fun x i => x + (t.read (v.toNat + i)).toNat * 2 ^ (32 * i)) 0

/-- A store of `n` elements from the run at `v`, lanes ascending. -/
def stores (h : Hdr) (o : AccOp) (n : Nat) : Access :=
  { h := h, n := o.n.toNat, kinds := fun d => !d.isGlobal, elems := fun d _ _ t => along (t.coords o.c d.dims) n
    runs := fun d => [(o.c, d.dims), (o.v, ceilDiv (n * d.w) 32)]
    op := fun g _ m d ts => .store m [g.slot] d (ts.flatMap fun (_, t, es) => es.zipIdx.map fun (c, j) =>
      (c, runOf t o.v (ceilDiv (n * d.w) 32) / 2 ^ (j * d.w) % 2 ^ d.w)) }

/-- Lane l's 4 elements of the 16 × 16 block of its lane group: column l mod 4 of the 4 rows from 4 ⌊(l mod 16) / 4⌋
on, from the coordinate of the lowest acting lane of the group of 16 (R143). -/
def blockElems (c : RegCode) (d : Desc) (ls : List (Nat × Thread)) (l : Nat) (t : Thread) : List (List Nat) :=
  let lead := ((ls.find? fun x => decide (x.1 / 16 = l / 16)).map (·.2)).getD t
  let o := lead.coords c d.dims
  (List.range 4).map fun j => o.take (d.dims - 2)
    ++ [o.getD (d.dims - 2) 0 + 4 * (l % 16 / 4) + j, o.getD (d.dims - 1) 0 + l % 4]

/-- The accesses. -/
def accessOf : Instr → Option Access
  | .ldt h o => some (loads h o 1 (fun d => !d.isGlobal) fun d _ _ t => along (t.coords o.c d.dims) 1)
  | .ldv h o => some (loads h o (2 ^ o.vn.toNat) (fun d => !d.isGlobal) fun d _ _ t =>
      along (t.coords o.c d.dims) (2 ^ o.vn.toNat))
  | .ldx h o => some (loads h o 4 (fun d => decide (d.kind ≤ 1 ∧ 2 ≤ d.dims ∧ (d.w = 8 ∨ d.w = 16 ∨ d.w = 32)))
      (blockElems o.c))
  | .stt h o => some (stores h o 1)
  | .stv h o => some (stores h o (2 ^ o.vn.toNat))
  | .tfill h o => some {
      h := h, n := o.n.toNat, kinds := fun d => !d.isGlobal
      runs := fun d => if o.all then [] else [(o.c, d.dims)]
      elems := fun d ls l t =>
        if o.all then (if (ls.head?.map (·.1)) = some l then (List.range d.count).map (coordOf d.exts) else [])
        else along (t.coords o.c d.dims) (min (t.reg o.b).toNat 65536)
      op := fun g _ m d ts => .store m [g.slot] d
        (ts.flatMap fun (_, t, es) => es.map fun c => (c, (t.reg o.v).toNat % 2 ^ d.w)) }
  | .atoms h o => some {
      h := h, n := o.n.toNat, kinds := fun d => decide (d.kind = 0 ∧ (d.fmt = 0 ∨ d.fmt = 5 ∨ d.fmt = 6))
      runs := fun d => [(o.c, d.dims)], elems := fun d _ _ t => along (t.coords o.c d.dims) 1
      waits := fun _ _ key => decide (key = o.d.toNat), lat := 8
      op := fun g k m d ts => .atoms m k.id.ctx d o.d o.op.toNat o.ty.toNat k.id.crewId k.counts.retired
        (ts.filterMap fun (l, t, es) => es.head?.map fun c => (g.slot, ⟨l, c, t.reg o.a, t.reg o.b⟩)) }
  | _ => none

/-- No thread of the group was released from an entry whose rebuild ended and has not gone on since (R165). -/
def NoneReleased (g : Group) (k : Machine.Crew) (n : Nat) : Prop :=
  ∀ l t, g.mask.getLsbD l = true → k.thread? l = some t → ∀ r, t.released = some r → r.entry ≠ n

/-- The group's access may act: the ports are free, the entry is LIVE, of an accepted kind, and the runs of
registers are in their files; none of its threads was parked behind it just before (R165). -/
structure Access.Open (a : Access) (s : State) (g : Group) (k : Machine.Crew) : Prop where
  ports : (s.core g.core).nextAccess ≤ s.coreCycle g.core
  live : (entryOf s g k (BitVec.ofNat 8 a.n)).desc.st = .live
  stays : (entryOf s g k (BitVec.ofNat 8 a.n)).freeing = false
  kind : a.kinds (entryOf s g k (BitVec.ofNat 8 a.n)).desc = true
  runs : ∀ r ∈ a.runs (entryOf s g k (BitVec.ofNat 8 a.n)).desc, regRunOk k.id.vallot r.1 r.2 = true
  fresh : NoneReleased g k a.n

/-- A lane whose every element is in bounds, or the entry clamps (R137). -/
def fits (d : Desc) (es : List (List Nat)) : Bool := d.clampz || es.all d.inBounds

/-- The machine after the issue of an access of these lanes: its effect is to come at issue + 6, and the ports are busy
for its passes (R29, R140). -/
def accessed (a : Access) (s : State) (g : Group) (k : Machine.Crew) (d : Desc) (ts : Touched) : State :=
  let es := (ts.flatMap fun (_, _, es) => es).filter d.inBounds
  let s' := if ts = [] then s else s.later g.core (s.coreCycle g.core + 6) (a.op g k s.serial d ts)
  s'.modCore g.core fun c => { c with nextAccess := s.coreCycle g.core + d.passes es }

/-- The newest write of a key is one whose value the access of a serial number brings, readable at a distance. -/
def AwaitsAt (t : Thread) (key serial left : Nat) : Prop :=
  ∃ ps qs p, t.pend = ps ++ p :: qs ∧ p.key = key ∧ p.due = some serial ∧ p.left = left ∧ ∀ q ∈ qs, q.key ≠ key

/-- The crew after the issue of an access: its threads wait, at a latency, for the values that it brings; all else is
as it was. -/
structure Access.Crew (a : Access) (x : Context) (g : Group) (d : Desc) (serial lat : Nat) (ts : Touched)
    (k k' : Machine.Crew) : Prop where
  same : k.Same k'
  ctl : k'.finalCtl = k.finalCtl
  sregs : ∀ key, wget k'.sregs key = wget k.sregs key
  out : ∀ l, g.mask.getLsbD l = false → k'.thread? l = k.thread? l
  lanes : ∀ l t, g.mask.getLsbD l = true → k.thread? l = some t → ∃ t', k'.thread? l = some t'
    ∧ t'.st = .ready ∧ t'.pc = x.start g.next
    ∧ ∀ key, ((∃ es, (l, t, es) ∈ ts ∧ a.waits d es key = true) → AwaitsAt t' key serial (lat - a.h.stall.toNat))
      ∧ ((∀ es, (l, t, es) ∈ ts → a.waits d es key = false) → t'.final key = t.final key)

/-- Element writes in order; one past the extents is dropped (R137, R139). -/
def stored (d : Desc) (ws : List (List Nat × Nat)) (m : Mem) : Mem :=
  ws.foldl (fun m (c, v) => if d.inBounds c then d.writeElem m c v else m) m

/-- Elements packed from the low end; one past the extents reads as 0 (R137, R142). -/
def packed (d : Desc) (m : Mem) (es : List (List Nat)) : Nat :=
  es.zipIdx.foldl (fun v (c, j) => v + (if d.inBounds c then d.readElem m c else 0) * 2 ^ (j * d.w)) 0

/-- Values reach the threads that wait for them: in each lane the keys that waited for the serial number have them. -/
def Arrive (s t : State) (c slot l serial : Nat) (vals : Nat → Option Word) : Prop :=
  ∀ k th, s.crew? c slot = some k → k.thread? l = some th → (∀ p ∈ th.pend, p.due = some serial → (vals p.key).isSome) →
    ∃ k' th', t.crew? c slot = some k' ∧ k'.thread? l = some th' ∧ th'.st = th.st ∧ th'.pc = th.pc
      ∧ (∀ p ∈ th'.pend, p.due ≠ some serial)
      ∧ ∀ key, (∀ v left, vals key = some v → AwaitsAt th key serial left → th'.final key = v)
        ∧ (vals key = none → th'.final key = th.final key)

/-- One update of a word (R269). -/
def applied (op ty : Nat) (cur a b : Word) : Word :=
  match op with
  | 0 => if ty = 2 then BitVec.ofNat 32 (fadd F32 .rn false cur.toNat a.toNat).bits else cur + a
  | 1 => if ty = 2 then BitVec.ofNat 32 (minmax F32 false false cur.toNat a.toNat).bits
    else if num (decide (ty = 1)) cur ≤ num (decide (ty = 1)) a then cur else a
  | 2 => if ty = 2 then BitVec.ofNat 32 (minmax F32 true false cur.toNat a.toNat).bits
    else if num (decide (ty = 1)) a ≤ num (decide (ty = 1)) cur then cur else a
  | 3 => cur &&& a
  | 4 => cur ||| a
  | 5 => cur ^^^ a
  | 6 => a
  | _ => if cur = a then b else cur

/-- A word after updates in lane order; sums of F32 are formed first and added to it at once (R270). -/
def after (op ty : Nat) (old : Word) (xs : List (Word × Word)) : Word :=
  if op = 0 ∧ ty = 2 then
    match xs with
    | [] => old
    | x :: r => applied 0 2 old (r.foldl (fun p y => applied 0 2 p y.1 0) x.1) 0
  else xs.foldl (fun v y => applied op ty v y.1 y.2) old

/-- Matrix instructions and atomics of one group price, and their headers (R173, R177). -/
def priced : Instr → Option Hdr
  | .mma h _ | .mmas h _ | .msca h _ | .mlda h _ | .atom h _ | .atred h _ => some h
  | _ => none

/-! ## Payments and requests (R66, R172, R176, R202 to R210, R219) -/

/-- A party can pay a nominal price at once: it is 0, or the bucket covers it under the head rule (R66, R182). -/
def Affords (s : State) (g : Group) (party nominal : Nat) : Prop :=
  s.priceAt g.core nominal = 0 ∨ (s.core g.core).canPay party (s.priceAt g.core nominal) = true

/-- The party of the copy unit, whose demands first chunks are (R176, R182). -/
def unit : Nat := 16

/-- The core after the payment. -/
def paidBy (s : State) (g : Group) (nominal : Nat) : State :=
  let p := s.priceAt g.core nominal
  if p = 0 then s else s.modCore g.core fun c => { c with tok := { c.tok with level := c.tok.level - p } }

/-- The crew that pays: the tokens debited to it and its wide groups (R192, R195). -/
def payer (s : State) (g : Group) (nominal : Nat) (k : Crew) : Crew :=
  let p := s.priceAt g.core nominal
  if p = 0 then k else (k.addCntr 5 p).addCntr 1 1

/-- Requests enter the queue of a core. -/
def enqueued (s : State) (g : Group) (rs : List Req) : State :=
  s.modCore g.core fun c => { c with reqs := c.reqs ++ rs }

/-- The requests of lanes, ascending, numbered from a serial number on. -/
def numbered (f : Nat → CpyLane → Req) : Nat → List CpyLane → List Req
  | _, [] => []
  | n, x :: xs => f n x :: numbered f (n + 1) xs

/-- A ticket slot is taken (R207). -/
def ticketed (s : State) (g : Group) (i : Nat) (st : TickSt) (setf : Bool) (est : Nat) : State :=
  let x : Ticket :=
    { ctx := s.ctxOf g, gen := nextGen ((s.core g.core).ticket i).gen, st := st, setf := setf, landed := 0,
      doneTick := s.coreTick g.core, doneSeq := s.serial, estimate := est, slot := g.slot }
  s.modCore g.core fun c => { c with tickets := tset c.tickets i x }

/-- The id that it gives: the slot and 64 times the new generation. -/
def idOf (s : State) (g : Group) (i : Nat) : Word :=
  BitVec.ofNat 32 (i + 64 * nextGen ((s.core g.core).ticket i).gen)

/-- s[T] to s[T + 3]: the id, 0, and the promise (R208). -/
def ticketRegs (h : Hdr) (t : RegCode) (id : Word) (promise : Nat) : Result :=
  { Result.none h with
    uni := true
    regs := fun _ _ _ _ key =>
      if key = t.toNat then some id
      else if key = t.toNat + 1 then some 0
      else if key = t.toNat + 2 then some (BitVec.ofNat 32 promise)
      else if key = t.toNat + 3 then some (BitVec.ofNat 32 (promise / 2 ^ 32))
      else Option.none }

/-- P in the lanes whose guards hold. -/
def alsoP (r : Result) (p : PIdx) (v : Nat → Bool) : Result :=
  { r with own := fun l key => if key = pKey p then some (BitVec.ofNat 32 (v l).toNat) else Option.none }

/-- The promise of a copy accepted now, a value of 64 bits not before the TICK of issue (R211): its distance is a free
value (log 3). -/
def promised (s : State) (g : Group) : Nat :=
  max (s.coreTick g.core) (min (2 ^ 64 - 1) (s.coreTick g.core + Config.estimateDelay s.freeCtr))

/-- Copies are outstanding under a tag (R205). -/
def tagged (tag : Nat) (ids : List Nat) (k : Crew) : Crew :=
  let t := tget ⟨[], false, false⟩ k.copy.tags tag
  let t' : TagSt := { t with ids := t.ids ++ ids }
  let q : CopySt := { k.copy with tags := tset k.copy.tags tag t' }
  if ids = [] then k else { k with copy := q }

/-- OREF is set where lanes were refused (R203, R206). -/
def refusing (any : Bool) (k : Crew) : Crew :=
  let q : CopySt := { k.copy with oref := k.copy.oref || any }
  { k with copy := q }

/-- What ACPY and ASTO name. -/
def cpyEnds (s : State) (g : Group) (o : CpyOp) : Desc × Desc := (s.descOf g o.dn.toNat, s.descOf g o.sn.toNat)

/-- Every check of a copy by lanes passes and every lane's bytes are in bounds: the lanes that act. -/
structure CpyOk (s : State) (g : Group) (o : CpyOp) (ls : List CpyLane) (dOk sOk : Desc → Bool) (unitDst : Bool) :
    Prop where
  entries : s.entryFault g [(o.dn.toNat, dOk (cpyEnds s g o).1, [(o.dc, (cpyEnds s g o).1.dims)]),
    (o.sn.toNat, sOk (cpyEnds s g o).2, [(o.sc, (cpyEnds s g o).2.dims)])] = none
  count : ∀ x ∈ ls, x.n ≤ 32
  align : ∀ x ∈ ls, (if unitDst then (cpyEnds s g o).1.bitPos x.dst % 256 = 0 ∧ (cpyEnds s g o).2.bitPos x.src % 8 = 0
    else (cpyEnds s g o).2.bitPos x.src % 256 = 0 ∧ (cpyEnds s g o).1.bitPos x.dst % 8 = 0)
  bounds : ∀ x ∈ ls, x.bad = none
  live : ((s.core g.core).entry (s.ctxOf g) (if unitDst then o.dn.toNat else o.sn.toNat)).desc.st = .live
  reach : s.reachable g.core (s.ctxOf g) (if unitDst then (cpyEnds s g o).2 else (cpyEnds s g o).1) = true

/-! ## Matrix requests (R229 to R242) -/

/-- What a matrix instruction asks for: its operation, its ends with the kinds that they must have, its boxes, P and
T, and the MMA whose B tile a `.kb` pass uses (R233 to R242). -/
def matrixOf (s : State) (g : Group) (k : Crew) (t : Thread) : Instr → Option (Hdr × MatIssue)
  | .mma h o =>
    let a := s.descOf g o.an.toNat
    let b := s.descOf g o.bn.toNat
    let kk := matK o.fa.toNat
    some (h, ⟨.mma o.fa.toNat o.fb.toNat o.bt o.kb o.ps.toNat (o.prec.toNat + 1),
      [⟨o.an.toNat, decide (a.kind = 1 ∧ a.fmt = o.fa.toNat ∧ 2 ≤ a.dims), some o.ac, (128, kk)⟩,
       ⟨o.bn.toNat, decide ((b.kind = 0 ∨ b.kind = 1) ∧ b.fmt = o.fb.toNat ∧ 2 ≤ b.dims), some o.bc,
        if o.bt then (128, kk) else (kk, 128)⟩],
      o.p, o.t, if o.kb then k.kbTile else none⟩)
  | .mmas h o =>
    let a := s.descOf g o.an.toNat
    let csr := fun (n : BitVec 8) (fmt : Nat) =>
      let d := s.descOf g n.toNat
      decide (d.kind = 0 ∧ d.fmt = fmt ∧ d.dims = 1)
    some (h, ⟨.mmas o.fa.toNat o.fb.toNat o.ps.toNat (o.prec.toNat + 1) (t.reg o.o).toNat (t.reg (o.o + 1)).toNat,
      [⟨o.an.toNat, decide (a.kind = 1 ∧ a.fmt = o.fa.toNat ∧ 2 ≤ a.dims), some o.ac, (128, matK o.fa.toNat)⟩,
       ⟨o.val.toNat, csr o.val o.fb.toNat
          && decide ((s.descOf g o.val.toNat).exts = (s.descOf g o.idx.toNat).exts), none, (0, 0)⟩,
       ⟨o.idx.toNat, csr o.idx 6, none, (0, 0)⟩, ⟨o.ptr.toNat, csr o.ptr 6, none, (0, 0)⟩],
      o.p, o.t, none⟩)
  | .msca h o => some (h, ⟨.msca o.ps.toNat o.tile.toNat, [⟨o.sn.toNat, true, some o.sc, (0, 0)⟩], o.p, o.t, none⟩)
  | .mzero h o => some (h, ⟨.mzero o.tile.toNat, [], o.p, o.t, none⟩)
  | .mlda h o =>
    let d := s.descOf g o.n.toNat
    some (h, ⟨.mlda o.tile.toNat, [⟨o.n.toNat, decide (d.kind = 0 ∧ d.fmt = 0 ∧ 2 ≤ d.dims), some o.c, (128, 128)⟩],
      o.p, o.t, none⟩)
  | .mdrn h o => some (h, ⟨.mdrn o.tile.toNat o.cv.toNat o.rel, [drain o.n o.c o.tile true o.cv.toNat], o.p, o.t, none⟩)
  | .mdra h o => some (h, ⟨.mdra o.tile.toNat o.rel, [drain o.n o.c o.tile false 0], o.p, o.t, none⟩)
  | _ => none
where
  /-- A drain's destination: ELEM, or a window of element form that MDRA does not have on the host; its format
  is the tile's, or BF16 or F16 by CV (R242). -/
  drain (n : BitVec 8) (c : RegCode) (tile : BitVec 3) (host : Bool) (cv : Nat) : MatEnd :=
    let d := s.descOf g n.toNat
    let isInt := s.tileInt (quadOf g.core) k.id.ctx tile.toNat
    ⟨n.toNat, decide (d.kind = 0 ∨ (d.isGlobal = true ∧ d.gpl = false ∧ (d.space ≤ 4 ∨ host = true)))
        && decide (2 ≤ d.dims) && decide (isInt = true → cv = 0)
        && decide (d.fmt = if cv = 1 then 2 else if cv = 2 then 1 else if isInt then 5 else 0),
      some c, (128, 128)⟩

/-- SCALE for MSCA: an entry of 256 k elements, from a coordinate of 256 j on (R240). -/
def scaleOk (s : State) (g : Group) (t : Thread) : Instr → Prop
  | .msca _ o =>
    let d := s.descOf g o.sn.toNat
    let e := d.exts.getD 0 0
    let c := (t.reg o.sc).toNat
    d.kind = 2 ∧ e % 256 = 0 ∧ c % 256 = 0 ∧ c + 256 ≤ e
  | _ => True

/-- The checks that every matrix instruction makes, in their order (R229). -/
structure MatOk (s : State) (g : Group) (k : Crew) (t : Thread) (i : Instr) (m : MatIssue) : Prop where
  plain : m.op.port = true → s.isImaged k (m.ends.getD 0 ⟨0, true, none, (0, 0)⟩).n = false
  entries : s.entryFault g (m.ends.map fun e => (e.n, e.ok, match e.c with
    | some c => [(c, (s.descOf g e.n).dims)]
    | none => [])) = none
  scale : scaleOk s g t i
  coords : s.matCoordFault g t m.ends = none

/-! ## Barriers, atomics, tasks -/

/-- Barrier instructions that arrive: the header, the operand, and PHASE (R260 to R266). -/
def barrierOf : Instr → Option (Hdr × BarOp × Bool)
  | .bar h o | .bara h o => some (h, o, false)
  | .phase h o => some (h, o, true)
  | _ => none

/-- The members of a group, in lanes: those whose guards hold, or its crew. -/
def members (g : Group) (k : Crew) (h : Hdr) (o : BarOp) : Mask := if o.cm then g.mask else k.holding h g.mask

/-- ATOM and ATRED. -/
def atomicOf : Instr → Option (Hdr × AtomOp × Bool)
  | .atom h o => some (h, o, true)
  | .atred h o => some (h, o, false)
  | _ => none

/-- The record that a thread of SPAWN makes (R80, R94). -/
def spawnRec (s : State) (g : Group) (k : Crew) (o : SpawnOp) (t : Thread) : TaskRec :=
  { code := if o.cx then t.reg o.a else g.pc + BitVec.ofInt 32 (4 * o.off.toInt)
    frame := [t.read o.f.toNat, t.read (o.f.toNat + 1), t.read (o.f.toNat + 2), t.read (o.f.toNat + 3)]
    jid := BitVec.ofNat 16 (t.reg o.j).toNat, in0 := o.in0, in1 := o.in1, oute := o.oute, v := o.v
    high := ((tget? s.launches k.id.launch).map (·.record.high)).getD false, hcore := g.core % 64
    hany := decide (o.v = 0), launch := k.id.launch, ctx := k.id.ctx, binned := none, backed := none
    lid := ((tget? s.launches k.id.launch).map (·.record.lid)).getD 0 }

/-- Records that the launch of a crew still accepts: SPAWNMAX less its population (R81). -/
def spawnRoom (s : State) (k : Crew) : Nat :=
  match tget? s.launches k.id.launch with
  | some l => l.record.spawnmax - l.population
  | none => 0

/-- Records enter the front end of the core's die, and the population of the launch grows by one each. -/
def spawned (s : State) (g : Group) (k : Crew) (rs : List TaskRec) : State :=
  (rs.foldl (fun s r => s.enqueue (dieOf g.core) r) s).modLaunch k.id.launch fun l =>
    { l with population := l.population + rs.length }

/-- The record of a parked thread: it goes on behind PARK (8 bytes) with r0 to r3, under no entry and any core (R80, R96). -/
def parkRec (s : State) (g : Group) (k : Crew) (t : Thread) : TaskRec :=
  { code := g.pc + 8, frame := [t.read 0, t.read 1, t.read 2, t.read 3], jid := t.jid, in0 := 0, in1 := 0, oute := 0
    v := 0, high := ((tget? s.launches k.id.launch).map (·.record.high)).getD false, hcore := g.core % 64
    hany := true, launch := k.id.launch, ctx := k.id.ctx, binned := none, backed := none
    lid := ((tget? s.launches k.id.launch).map (·.record.lid)).getD 0 }

/-- What the records of a die's front end hold, in their order. -/
def tasksOf (s : State) (d : Nat) : List (Word × List Word × BitVec 16) :=
  (s.die d).tasks.map fun t => (t.code, t.frame, t.jid)

/-- No later core and no later crew has appended to a queue in this cycle (R332). -/
def InOrder (s : State) (g : Group) (k : Crew) (q : Queue) : Prop :=
  ∀ cyc c id, q.appended = some (cyc, c, id) → cyc = s.cycle → c < g.core ∨ (c = g.core ∧ id ≤ k.id.crewId.toNat)

/-! ## Steps, memory, reset -/

/-- A step offers a group an issue: the agenda names it, or the machine itself does (log 1). -/
structure Offered (s : State) (c slot : Nat) (pc : Word) (k : Crew) (ts : List Turn) : Prop where
  agenda : s.agenda = .issue c slot pc :: ts ∨ (s.agenda = [] ∧ ts = [] ∧ s.auto = .issue c slot pc)
  crew : s.crew? c slot = some k
  free : s.mayIssue ⟨c, slot⟩ k = true
  replay : s.replayOver k.id.ctx = false
  unpaid : (s.core c).paidGroup slot pc = none
  logged : (s.context k.id.ctx).holdsBack k = false
  entry : ((s.core c).tidyPc (s.coreCycle c)).hasEntry k.id.block pc = true

/-- The machine then: the PC table is filled (R63). -/
def offered (s : State) (c : Nat) (ts : List Turn) : State :=
  { s with agenda := ts }.modCore c fun x => x.tidyPc (s.coreCycle c)

/-- Crews with threads that may issue an instruction of a class at the PC, oldest first. -/
def issuers (s : State) (c : Nat) (pc : Word) (k : Crew) (clsA : Bool) : List (Nat × Mask) :=
  (s.core c).crewsAt (s.coreCycle c) k.id.block pc fun t => t.readyFor clsA (s.coreCycle c)

/-- The group: the oldest crew's threads, and in a regrouped launch, where the instruction allows (`may`), those of
younger crews in the lanes that are left (R64); a privileged instruction takes crews of one mode (log 43). -/
def partsOf (s : State) (c : Nat) (pc : Word) (k : Crew) (clsA may priv : Bool) : List (Nat × Mask) :=
  let xs := issuers s c pc k clsA
  let mode := fun (p : Nat × Mask) => ((s.crew? c p.1).map fun k' => s.privAt k' p.2).getD false
  let alike := fun (p : Nat × Mask) => !priv || (mode p == (xs.head?.map mode).getD false)
  if k.id.regroup && may then fillLanes 0 (xs.filter alike) else xs.take 1

/-- No group of the class has issued in the cycle (R26). -/
def portFree (s : State) (c : Nat) (clsA : Bool) : Prop :=
  (if clsA then (s.core c).lastA else (s.core c).lastB) ≠ some (s.coreCycle c)

/-- CERR, where it was free, has the cause and the address of a kill (R37). -/
def Listed (s t : State) (k : Crew) (cause : Cause) (pc : Word) : Prop :=
  (tget? s.contexts k.id.ctx).isSome = true → (s.context k.id.ctx).ccb.cerr.valid = false →
    let e := (t.context k.id.ctx).ccb.cerr
    e.valid = true ∧ e.cause = causeCode cause ∧ e.pc = pc

/-- A crew in a slot is killed. -/
def KilledIn (t : State) (c slot : Nat) : Prop := ∃ k', t.crew? c slot = some k' ∧ Killed k'

/-- An unguarded header with STALL n. -/
def hdr (n : BitVec 4) : Hdr := { stall := n, yld := false, ge := false, gn := false, gp := 0 }

/-- A header with a guard. -/
def guardBy (gn : Bool) (gp : PIdx) : Hdr := { stall := 0, yld := false, ge := true, gn := gn, gp := gp }

/-- The encodings that the spec writes out. -/
def specWords : List (List Granule × Instr) :=
  [ ([0x01900009, 0x01008034], .ffma (hdr 2) ⟨6, 8, 8, 0, 0⟩),
    ([0x0008800A, 0x00000204, 0x0000703C], .iaddImm (hdr 2) { d := 7, a := 7, imm := 64, mod := 0, ext := 0 }),
    ([0x03008381, 0x00000004], .exit (guardBy true 1)),
    ([0x00010002, 0x0000005C, 0x00000044],
      .loop (hdr 0) { lc := 0, cs := false, endOff := 11, count := 8, c := 0 }),
    ([0x004B8001, 0x00128014], .mwait (hdr 0) 2 0x128),
    ([0x08520003, 0x00005024, 0x0000501C, 0x00000004],
      .atom (hdr 0) { op := 0, ty := 1, d := 4, a := 5, b := 0, n := 3, c := 10, rel := false }),
    ([0x00690002, 0x00000054, 0x00000004], .seth (hdr 0) { cls := 0, src := 0, off := 10, a := 0 }),
    ([0x00E98001, 0x00001004], .tmask (hdr 0) { op := 1, wd := false, d := 0, mask := 1 }),
    ([0x00680001, 0x0000002C], .trap (hdr 0) { code := 5, a := 0, av := false }),
    ([0x00688001, 0x00000004], .rett (hdr 0) 0),
    ([0x01688781, 0x00000004], .rett (guardBy true 3) 2),
    ([0x006A0001, 0x00000004], .ckpt (hdr 0) false 0),
    ([0x00F00001, 0x0000001C], .symq (hdr 0) 1 0 3),
    ([0x00708001, 0x00000014], .imgw (hdr 0) 2) ]

/-- Instructions that store as they issue: to a queue in global memory. A thread's stores reach the bank six cycles
after issue (R29), in an event of their own. -/
def storing : Instr → Bool
  | .launch _ _ => true
  | _ => false

/-! ## Rounding (R43, R45) -/

/-- Magnitude b on the grid of a format extended upward, in units of its smallest subnormal (R39, R40, R43). -/
def grid (f : FFmt) (b : Nat) : Nat :=
  if b / 2 ^ f.frac = 0 then b % 2 ^ f.frac else (2 ^ f.frac + b % 2 ^ f.frac) * 2 ^ (b / 2 ^ f.frac - 1)

/-- A point of the grid against m × 2^e, in a common unit. -/
def onGrid (f : FFmt) (e : Int) (b : Nat) : Int := grid f b * 2 ^ (f.qmin - min e f.qmin).toNat
def exactly (f : FFmt) (m : Nat) (e : Int) : Int := m * 2 ^ (e - min e f.qmin).toNat

/-- b is the point to which a positive or negative m × 2^e is rounded (R43). -/
def roundsTo (f : FFmt) (mode : RMode) (neg : Bool) (m : Nat) (e : Int) (b : Nat) : Prop :=
  let x := exactly f m e
  let v := onGrid f e
  let down := v b ≤ x ∧ ∀ w, v w ≤ x → v w ≤ v b
  let up := x ≤ v b ∧ ∀ w, x ≤ v w → v b ≤ v w
  match mode with
  | .rn => ∀ w, (v b - x).natAbs ≤ (v w - x).natAbs ∧ (w ≠ b → (v b - x).natAbs = (v w - x).natAbs → b % 2 = 0)
  | .rz => down
  | .rm => if neg then up else down
  | .rp => if neg then down else up

/-- Overflow (R45): infinity, or the canonical NaN of E4M3, or the largest finite value. -/
def overflows (f : FFmt) (mode : RMode) (neg : Bool) : Nat :=
  let s := if neg then f.sbit else 0
  let away := match mode with
    | .rn => true
    | .rz => false
    | .rm => neg
    | .rp => !neg
  if away then (if f = E4M3 then 0x7F else s + f.infBits) else s + f.maxBits

/-- A positive or negative m × 2^e is tiny (R49): rounded to the full significand with the exponent unbounded (on a
grid that reaches D binades further down) it is below the smallest normal. -/
def Tiny (f : FFmt) (mode : RMode) (neg : Bool) (m : Nat) (e : Int) : Prop :=
  ∃ (D : Nat) (b : Nat), let f' := { f with bias := f.bias + D }
    onGrid f' e (2 ^ f.frac) ≤ exactly f' m e ∧ roundsTo f' mode neg m e b ∧ grid f' b < 2 ^ (f.frac + D)

/-- A zero of a sign, and an infinity. -/
def zero (f : FFmt) (neg : Bool) : Nat := if neg then f.sbit else 0
def infinity (f : FFmt) (neg : Bool) : Nat := zero f neg + f.infBits

/-- What rounding a nonzero x × 2^e delivers (R43, R45, R46, R49, R50): past the largest finite value overflow, or the
largest finite value where `sat`; a tiny value, which is flushed under FTZ; else the rounded value, NX telling whether
it is another. -/
def Delivers (f : FFmt) (mode : RMode) (ftz sat : Bool) (x e : Int) (r : FR) : Prop :=
  let neg := decide (x < 0)
  let m := x.natAbs
  ∃ b, roundsTo f mode neg m e b
    ∧ (f.maxBits < b → r = ⟨if sat then zero f neg + f.maxBits else overflows f mode neg, OF ||| NX⟩)
    ∧ (b ≤ f.maxBits → Tiny f mode neg m e → ftz = true → r = ⟨zero f neg, UF ||| NX⟩)
    ∧ (b ≤ f.maxBits → Tiny f mode neg m e → ftz = false →
      r = ⟨zero f neg + b, if onGrid f e b = exactly f m e then 0 else UF ||| NX⟩)
    ∧ (b ≤ f.maxBits → ¬ Tiny f mode neg m e →
      r = ⟨zero f neg + b, if onGrid f e b = exactly f m e then 0 else NX⟩)

/-! ## Floating functions (R38, R40, R45 to R50, R54, R110, R114, R116) -/

/-- Sign and magnitude of an encoding, and what it is (R38, R40). -/
def negative (f : FFmt) (b : Nat) : Bool := decide (f.sbit ≤ b)
def mag (f : FFmt) (b : Nat) : Nat := b % f.sbit
def IsNaN (f : FFmt) (b : Nat) : Prop := if f.infBits = 0 then mag f b = f.nan else f.infBits < mag f b
def IsSignalling (f : FFmt) (b : Nat) : Prop :=
  f.infBits ≠ 0 ∧ f.infBits < mag f b ∧ mag f b % 2 ^ f.frac < 2 ^ (f.frac - 1)
def IsInf (f : FFmt) (b : Nat) : Prop := f.infBits ≠ 0 ∧ mag f b = f.infBits
def IsFin (f : FFmt) (b : Nat) : Prop := mag f b ≤ f.maxBits

/-- A finite value in units of the smallest subnormal, 2^qmin. -/
def fnum (f : FFmt) (b : Nat) : Int := if negative f b then -(grid f (mag f b) : Int) else grid f (mag f b)

/-- A source under FTZ: a subnormal counts as a zero of its sign (R49). -/
def taken (f : FFmt) (ftz : Bool) (b : Nat) : Nat :=
  if ftz = true ∧ mag f b < 2 ^ f.frac then zero f (negative f b) else b

/-- NV of signalling sources (R48). -/
def Signals (f : FFmt) (xs : List Nat) (fl : Nat) : Prop :=
  ((∃ x ∈ xs, IsSignalling f x) → fl = NV) ∧ ((∀ x ∈ xs, ¬ IsSignalling f x) → fl = 0)

/-- A source is a NaN: the result is the canonical NaN of the target, with NV for signalling ones (R48). -/
def NaNRule (f g : FFmt) (xs : List Nat) (r : FR) : Prop :=
  (∃ x ∈ xs, IsNaN f x) → r.bits = g.nan ∧ Signals f xs r.flags

/-- An operand as a place in the order of R48, −0 below +0, and in the order of its value. -/
def place (f : FFmt) (b : Nat) : Int := if negative f b then -(mag f b : Int) - 1 else mag f b
def rank (f : FFmt) (b : Nat) : Int := if negative f b then -(mag f b : Int) else mag f b

/-- A condition of R106 over an order. -/
def relation (c : Nat) (a b : Int) : Bool :=
  match c with
  | 0 => decide (a = b)
  | 1 => decide (a ≠ b)
  | 2 => decide (a < b)
  | 3 => decide (a ≤ b)
  | 4 => decide (b < a)
  | _ => decide (b ≤ a)

/-- The sign of an exact zero sum (R43). -/
def sumSign (mode : RMode) (n1 n2 : Bool) : Bool := if n1 = n2 then n1 else decide (mode = .rm)

/-- x + y (R43, R45, R48, R50). -/
def IsSum (f : FFmt) (mode : RMode) (ftz : Bool) (x y : Nat) (r : FR) : Prop :=
  NaNRule f f [x, y] r
  ∧ (IsInf f x → IsInf f y → r = if negative f x = negative f y then ⟨infinity f (negative f x), 0⟩ else ⟨f.nan, NV⟩)
  ∧ (IsInf f x → IsFin f y → r = ⟨infinity f (negative f x), 0⟩)
  ∧ (IsFin f x → IsInf f y → r = ⟨infinity f (negative f y), 0⟩)
  ∧ (IsFin f x → IsFin f y → fnum f x + fnum f y = 0 →
    r = ⟨zero f (sumSign mode (negative f x) (negative f y)), 0⟩)
  ∧ (IsFin f x → IsFin f y → fnum f x + fnum f y ≠ 0 → Delivers f mode ftz false (fnum f x + fnum f y) f.qmin r)

/-- x × y of format f, rounded into format g; an infinite product under SAT is the largest finite value (R46). -/
def IsProduct (f g : FFmt) (mode : RMode) (ftz sat : Bool) (x y : Nat) (r : FR) : Prop :=
  let neg := negative f x != negative f y
  NaNRule f g [x, y] r
  ∧ ((IsInf f x ∧ fnum f y = 0 ∧ IsFin f y) ∨ (IsFin f x ∧ fnum f x = 0 ∧ IsInf f y) → r = ⟨g.nan, NV⟩)
  ∧ ((IsInf f x ∧ IsInf f y) ∨ (IsInf f x ∧ IsFin f y ∧ fnum f y ≠ 0) ∨ (IsFin f x ∧ fnum f x ≠ 0 ∧ IsInf f y) →
    r = ⟨if sat then zero g neg + g.maxBits else if g = E4M3 then 0x7F else infinity g neg, 0⟩)
  ∧ (IsFin f x → IsFin f y → fnum f x * fnum f y = 0 → r = ⟨zero g neg, 0⟩)
  ∧ (IsFin f x → IsFin f y → fnum f x * fnum f y ≠ 0 → Delivers g mode ftz sat (fnum f x * fnum f y) (2 * f.qmin) r)

/-- x × y + w with one rounding. -/
def IsFused (f : FFmt) (mode : RMode) (ftz : Bool) (x y w : Nat) (r : FR) : Prop :=
  let neg := negative f x != negative f y
  let invalid := (IsInf f x ∧ IsFin f y ∧ fnum f y = 0) ∨ (IsFin f x ∧ fnum f x = 0 ∧ IsInf f y)
  let infinite := ¬ invalid ∧ (IsInf f x ∨ IsInf f y)
  let v := fnum f x * fnum f y + fnum f w * 2 ^ (-f.qmin).toNat
  ((∃ z ∈ [x, y, w], IsNaN f z) → r.bits = f.nan ∧ (invalid → r.flags = NV) ∧ (¬ invalid → Signals f [x, y, w] r.flags))
  ∧ (¬ IsNaN f w → invalid → r = ⟨f.nan, NV⟩)
  ∧ ((∀ z ∈ [x, y, w], ¬ IsNaN f z) → infinite →
    (IsInf f w → negative f w ≠ neg → r = ⟨f.nan, NV⟩)
    ∧ (¬ (IsInf f w ∧ negative f w ≠ neg) → r = ⟨infinity f neg, 0⟩))
  ∧ (IsFin f x → IsFin f y → IsInf f w → r = ⟨infinity f (negative f w), 0⟩)
  ∧ (IsFin f x → IsFin f y → IsFin f w → v = 0 → r = ⟨zero f (sumSign mode neg (negative f w)), 0⟩)
  ∧ (IsFin f x → IsFin f y → IsFin f w → v ≠ 0 → Delivers f mode ftz false v (2 * f.qmin) r)

/-- The range of an integer format (R38, R114). -/
def intRange (code : Nat) : Int × Int :=
  match code with
  | 5 => (-(2 ^ 31), 2 ^ 31 - 1)
  | 6 => (0, 2 ^ 32 - 1)
  | 7 => (-(2 ^ 7), 2 ^ 7 - 1)
  | 8 => (0, 2 ^ 8 - 1)
  | _ => (-(2 ^ 3), 2 ^ 3 - 1)

/-- The integer of an encoding, and the encoding of an integer. -/
def intOf (code bits : Nat) : Int := if (bits : Int) ≤ (intRange code).2 then bits else bits - 2 ^ fmtWidth code
def intCode (code : Nat) (v : Int) : Nat := (v % 2 ^ fmtWidth code).toNat

/-- The integer v to which x / u is rounded (R43). -/
def roundsToInt (mode : RMode) (x u v : Int) : Prop :=
  let down := v * u ≤ x ∧ x < (v + 1) * u
  let up := x ≤ v * u ∧ (v - 1) * u < x
  match mode with
  | .rn => ∀ w : Int, (v * u - x).natAbs ≤ (w * u - x).natAbs
      ∧ (w ≠ v → (v * u - x).natAbs = (w * u - x).natAbs → v % 2 = 0)
  | .rz => if x < 0 then up else down
  | .rm => down
  | .rp => up

/-- A value of F32 that is ± 2^n (n from −149 to 127). -/
def IsPower (b : Nat) (n : Int) : Prop := (grid F32 (mag F32 b) : Int) = 2 ^ (n + 149).toNat ∧ -149 ≤ n ∧ n ≤ 127

/-- The encoding of 2^n where it is normal. -/
def powerBits (n : Int) : Nat := ((n + 127) * 2 ^ 23).toNat

/-! ## Events of crews (R63, R73, R77, R93, R168, R186) -/

/-- Keys rise. -/
def Sorted {α : Type} (t : Tab α) : Prop := (t.map (·.1)).Pairwise (· < ·)

/-- The threads of a crew are listed by lane. -/
def Lanes (k : Crew) : Prop := Sorted k.threads ∧ ∀ p ∈ k.threads, p.1 < 64

/-- An event changes one crew and nothing else. -/
def CrewEvent (e : Instr) (s : State) (r : SlotRef) (P : Machine.Crew → Prop) : Prop :=
  ∃ k', exec e s = .next (s.modCrew r.core r.slot fun _ => k') ∧ P k'

/-- Threads that waited at an instruction go on behind it after a completion point, with what they wrote; the crew
counts a retirement or more. -/
structure Woken (x : Context) (m : Mask) (put : Nat → Option Word) (claim : Option Claim) (k k' : Machine.Crew) :
    Prop where
  st : k'.st = k.st
  id : k'.id = k.id
  loops : k'.loops = k.loops
  trap : k'.trap = k.trap
  copy : k'.copy = k.copy
  evict : k'.evict = k.evict
  ctl : k'.finalCtl = k.finalCtl
  claimed : k'.claim = claim
  sregs : ∀ key, wget k'.sregs key = wget k.sregs key
  retired : k.counts.retired < k'.counts.retired
  out : ∀ l, m.getLsbD l = false → k'.thread? l = k.thread? l
  lanes : ∀ l t, m.getLsbD l = true → k.thread? l = some t → ∃ t', k'.thread? l = some t'
    ∧ t'.st = .ready ∧ t'.pc = x.start (t.pc + BitVec.ofNat 32 (x.lenAt t.pc)) ∧ Settled k.sregs put t t'

/-- No thread of a set waits at the last instruction of the body of a loop. -/
def NoLoopEnd (x : Context) (m : Mask) (k : Machine.Crew) : Prop :=
  ∀ v ∈ k.loops.levels, ∀ l t, m.getLsbD l = true → k.thread? l = some t →
    x.start (t.pc + BitVec.ofNat 32 (x.lenAt t.pc)) ≠ v.stop

/-- The lanes of a crew whose wait has a property. -/
def waiting (k : Machine.Crew) (p : TState → Bool) : Mask :=
  maskOf ((k.threads.filter fun x => p x.2.st).map (·.1))

/-- Every thread that the innermost open level waits for is at its end (R73). -/
def AtEnd (k : Machine.Crew) (ls : List LoopLevel) (v : LoopLevel) : Prop :=
  k.loops.levels = ls ++ [v] ∧ (∀ w ∈ ls ++ [v], w.inHandler = true → k.trap.handling = true)
    ∧ (∃ l t, (k.levelSet v).getLsbD l = true ∧ k.thread? l = some t)
    ∧ ∀ l t, (k.levelSet v).getLsbD l = true → k.thread? l = some t → t.st = .loopEnd ∧ t.pc = v.stop

/-- The launch id of a launch. -/
def lidOf (s : State) (launch : Nat) : Word := ((tget? s.launches launch).map fun l : Launch => l.record.lid).getD 0

/-- A crew's record stands in the coalescer of a core, open or waiting to open, with the id of its launch in the state
before (R314, R316). -/
def Reported (s t : State) (c : Nat) (k : Machine.Crew) (slot cause : Nat) (pc : Word) : Prop :=
  ∃ r ∈ (t.core c).openRecs ++ (t.core c).waiting, r.cause = cause ∧ r.ctx = k.id.ctx ∧ r.lid = lidOf s k.id.launch
    ∧ r.pc = pc ∧ r.slots.testBit slot = true

/-! ## Events of blocks, tasks and launches (R59, R60, R76, R78, R79, R82, R83, R221, R336) -/

/-- A crew as placement leaves it: every thread READY at the entry point (R60, R61). -/
structure Placed (s : State) (e : PlaceEv) (l : Launch) (k : Machine.Crew) : Prop where
  st : k.st = .prologue
  block : k.id.block = s.serial
  launch : k.id.launch = e.launch
  vallot : k.id.vallot = l.record.vallot
  sregs : k.sregs = l.record.params
  lanes : ∀ j, j < 64 → ∃ t, k.thread? j = some t ∧ t.st = .ready ∧ t.pc = (s.context l.ctx).start l.record.code
    ∧ (∀ key, ¬ isSKey key → t.read key = 0) ∧ t.jid = 0xFFFF

/-- A spawned crew is formed from records: record i is the thread of lane i, with its frame in r0 to r3 (R83). -/
def TasksFormed (i : Instr) (s : State) (e : TaskEv) (rs : List TaskRec) (l : Launch) : Prop :=
  ∃ t slot k, exec i s = .next t ∧ t.crew? e.core slot = some k ∧ k.st = .run ∧ k.id.spawned = true
    ∧ k.id.crewId = e.crewId
    ∧ (∀ r ∈ rs.head?, k.id.launch = r.launch
      ∧ (tget? t.launches r.launch).map (·.spawned) = some (l.spawned + 1))
    ∧ (∀ (j : Nat) (r : TaskRec), j < 64 → rs[j]? = some r → ∃ th, k.thread? j = some th ∧ th.st = .ready
      ∧ th.pc = (s.context r.ctx).start (r.code &&& 0xFFFFFFFC) ∧ th.jid = r.jid
      ∧ ∀ n, n < 4 → th.read n = r.frame.getD n 0)
    ∧ ((t.die e.die).tasks.map fun r => (r.code, r.frame, r.jid))
      = ((rs.take 64).foldl List.erase (s.die e.die).tasks).map fun r => (r.code, r.frame, r.jid)

/-- A queued deferred request of a block that does not publish yet (R214). -/
def Unpublished (block : Nat) (r : Req) : Prop := r.block = block ∧ r.deferred = true ∧ r.publishing = none

/-! ## Events of the token ring, operating points and the control loop (R179 to R182, R188 to R190) -/

/-- The frequencies in MHz and voltages in mV of OP0 to OP7 (R188). -/
def freqs : List Nat := [1050, 950, 850, 750, 650, 550, 475, 400]
def volts : List Nat := [950, 880, 820, 770, 700, 640, 590, 550]

/-- The fastest point that a value allows. -/
def fastest (tab : List Nat) (x : Nat) : Nat := (tab.findIdx? fun y => decide (y ≤ x)).getD 7

/-- The demand of a core on the ring (R182). -/
def ringDemand (c : Core) : Nat :=
  if c.tok.filling = true ∨ c.tok.level < c.tok.tkcap / 4 ∨ c.presented ≠ [] then c.tok.tkcap - c.tok.level else 0

/-! ## Events of the matrix engine (R223 to R242, R249) -/

/-- Element (i, j) of the box at an end's coordinate: the two innermost dimensions vary, and out of bounds it is 0. -/
def boxElem (s : State) (r : MatReq) (e : CopyEnd) (i j : Nat) : Nat :=
  let p := s.port r.core r.ctx e.desc
  let n := e.coord.length
  let c := e.coord.take (n - 2) ++ [e.coord.getD (n - 2) 0 + i, e.coord.getD (n - 1) 0 + j]
  if e.desc.inBounds c then p.elem (s.memOf p s.globalMem) e.desc c else 0

/-- The element kept to its first q planes (R42), and whole. -/
def kept (fmt q bits : Nat) : Int := intVal fmt bits / 2 ^ (fmtWidth fmt - q) * 2 ^ (fmtWidth fmt - q)

/-- A sum over the K of a pass. -/
def sumTo (f : Nat → Int) : Nat → Int
  | 0 => 0
  | n + 1 => sumTo f n + f n

/-- The request of a serial number in the table of a quad. -/
def inTable (s : State) (q serial : Nat) : List MatReq := (s.quad q).table.filter fun r => decide (r.serial = serial)

/-- A context has a crew on a quad: it keeps its bank of tiles (R224). -/
def OnQuad (s : State) (q ctx : Nat) : Prop := ∃ i < 4, ∃ p ∈ (s.core (4 * q + i)).slots, p.2.id.ctx = ctx

/-- It has left the table with an end state. -/
def MatEnded (t : State) (q : Nat) (r : MatReq) (st : TickSt) : Prop :=
  inTable t q r.serial = [] ∧ ((t.core r.core).ticket r.ticket).st = st

/-! ## Events of the copy units, atomics and barriers (R176, R186, R205 to R221, R263, R270, R272, R298, R300) -/

/-- A request has left its copy unit with an end state; its ticket has it too. -/
def ReqEnded (t : State) (c : Nat) (r : Req) (st : TickSt) : Prop :=
  t.req? c r.serial = none ∧ ∀ i, r.ticket = some i → ((t.core c).ticket i).st = st

/-- The ticket of a request has not ended. -/
def Open (s : State) (c : Nat) (r : Req) : Prop := ∀ i, r.ticket = some i → ((s.core c).ticket i).st.ended = false

/-- The memory behind the destination of a request. -/
def behindDst (s : State) (c : Nat) (r : Req) (t : State) : Mem :=
  let p := s.port c r.ctx r.dst.desc
  t.memOf p t.globalMem

/-- Unit u of a request with these values is in the memory, which is otherwise as it was. -/
def Landed (s : State) (c : Nat) (r : Req) (u : Nat) (vals : List Nat) (t : State) : Prop :=
  behindDst s c r t = r.landMem (s.port c r.ctx r.dst.desc) u vals (behindDst s c r s)

/-- An image of a request is in the memory, which is otherwise as it was (R298). -/
def Imaged (s : State) (c : Nat) (r : Req) (l : Launch) (t : State) : Prop :=
  let p := s.port c r.ctx r.dst.desc
  let x := l.elem ((s.reqImages r).getD (r.image - 1) 0)
  behindDst s c r t = (List.range r.units).foldl (fun m u =>
    ((r.pieces u (tget [] r.held u)).map fun q => q.image l.record.grid r.dst.desc x).foldl
      (fun m q => p.setPiece m r.dst.desc false none q) m) (behindDst s c r s)

/-! ## Events of pages, resets and lit capacity (R153 to R163, R199, R200) -/

/-- A record of a global address stands in the coalescer of a core, open or waiting to open. -/
def Recorded (s t : State) (c cause addr ctx launch : Nat) : Prop :=
  ∃ f ∈ (t.core c).openRecs ++ (t.core c).waiting, f.cause = cause ∧ f.addr = addr ∧ f.ctx = ctx
    ∧ f.lid = lidOf s launch

/-- An entry of the banks of a doom. -/
def inBanks (e : Entry) (bs : List Nat) : Prop := ∃ b ∈ bs, e.touches b = true

/-- The live entries that the banks chosen before leave (R158). -/
def leftLive (c : Core) (bs : List Nat) : List Entry := c.liveEntries.filter fun e => !bs.any e.touches

/-- A bank may be chosen after others (R157, R158): it is LIT, holds no source of a deferred write, and no live entry of
rank 7 that is left. -/
def Choice (c : Core) (bs : List Nat) (b : Nat) : Prop :=
  b < 64 ∧ c.bank b = .lit ∧ b ∉ bs ∧ b ∉ c.sourceBanks ∧ ∀ e ∈ leftLive c bs, e.touches b = true → e.desc.rank ≠ 7

/-- The protect rank of a bank, and its live rows (R157, R158). -/
def protectRank (live : List Entry) (b : Nat) : Nat :=
  ((live.filter fun e => e.touches b).map fun e => e.desc.rank).foldl max 0
def liveRows (live : List Entry) (b : Nat) : Nat := ((live.filter fun e => e.touches b).map fun e => e.desc.nrows).sum

/-- The order of R158: untouched banks, then by ascending protect rank, then by fewer live bytes, then by the higher
index. -/
def Sooner (live : List Entry) (a b : Nat) : Prop :=
  let touched := fun (x : Nat) => ∃ e ∈ live, e.touches x = true
  (¬ touched a ∧ touched b) ∨ ((touched a ↔ touched b) ∧ (protectRank live a < protectRank live b
    ∨ (protectRank live a = protectRank live b ∧ (liveRows live a < liveRows live b
      ∨ (liveRows live a = liveRows live b ∧ b < a)))))

/-- An entry that holds cells: a live one, one whose dark instant has not come, or one that is being revived (R147, R160,
R167). -/
def occupies (e : Entry) : Bool :=
  live e || decide (e.desc.kind ≠ 3 ∧ (e.desc.st = .losing ∨ (e.desc.st = .rebuild ∧ (e.revived = true ∨ e.placing ≠ none))))

/-- The row at which an entry stands, or is to stand. -/
def rowOf (e : Entry) : Nat := (e.placing.map (·.2)).getD e.desc.row0

/-- Banks that can still be had (R168). -/
def available (c : Core) : Nat := freeLitCount c + (c.cap.target - (litCount c + wakingCount c))

/-- A bank of a set is pinned; it is free and LIT. -/
def pinned (c : Core) (b : Nat) : Bool := c.layout.any fun x => live x.2 && decide (x.2.desc.rank = 7) && onBank x.2 b
def freeLit (c : Core) (b : Nat) : Bool :=
  decide (c.bank b = .lit) && !c.layout.any fun x => live x.2 && onBank x.2 b

/-- A placement of n rows in 2^k banks from bank b and row r (R148): the set is aligned, all of its banks have the rows
free, a rank of 7 keeps PINNED within PINQUOTA, and the banks that other crews have claimed stay to be had (R168); its
banks are all LIT or, where `dark`, may be lit within the target. -/
structure Qualifies (c : Core) (k n rank claimed : Nat) (dark : Bool) (b r : Nat) : Prop where
  aligned : b % 2 ^ k = 0 ∧ b + 2 ^ k ≤ 64 ∧ r + n ≤ 384
  rows : ∀ i, i < 2 ^ k → ∀ x ∈ c.layout, occupies x.2 = true → onBank x.2 (b + i) = true →
    r + n ≤ rowOf x.2 ∨ rowOf x.2 + x.2.desc.nrows ≤ r
  pins : rank = 7 → pinnedCount c + ((List.range (2 ^ k)).countP fun i => !pinned c (b + i)) ≤ c.cap.pinq
  claims : let uses := (List.range (2 ^ k)).countP fun i => freeLit c (b + i) || decide (c.bank (b + i) = .dark)
    uses = 0 ∨ claimed + uses ≤ available c
  banks : if dark then
      (∀ i, i < 2 ^ k → c.bank (b + i) = .lit ∨ c.bank (b + i) = .dark ∨ ∃ t, c.bank (b + i) = .waking t)
        ∧ litCount c + wakingCount c + ((List.range (2 ^ k)).countP fun i => decide (c.bank (b + i) = .dark)) ≤ c.cap.target
    else ∀ i, i < 2 ^ k → c.bank (b + i) = .lit

/-- Banks that other crews of the core have claimed (R168). -/
def claimedBeside (s : State) (c slot : Nat) : Nat :=
  (((s.core c).slots.filter fun x => decide (x.1 ≠ slot)).map fun x => match x.2.claim with
    | some y => if s.coreTick c < y.expires then y.banks else 0
    | none => 0).sum

/-- A crew in a slot waits in WAITCAP for banks at a rank, its deadline has not come, and its condition holds (R168). -/
def MayTake (s : State) (c slot : Nat) (k : Machine.Crew) (n rank : Nat) (p : PIdx) : Prop :=
  s.crew? c slot = some k ∧ (∃ d, k.capWait = some (n, rank, p, d) ∧ ∀ x, d = some x → s.coreTick c < x)
    ∧ n + claimedBeside s c slot ≤ available (s.core c) ∧ (rank = 7 → pinnedCount (s.core c) + n ≤ (s.core c).cap.pinq)

/-- Crews of a context whose threads wait for an entry of a core go on; the other crews stay as they are. -/
def GoOnFor (s t : State) (c ctx : Nat) (w : TState → Bool) (put : Nat → Option Word) : Prop :=
  ∀ slot k, s.crew? c slot = some k → Lanes k → ∃ k', t.crew? c slot = some k'
    ∧ (k.id.ctx = ctx → waiting k w ≠ 0 → NoLoopEnd (s.context ctx) (waiting k w) k →
      Woken (s.context ctx) (waiting k w) put k.claim k k')
    ∧ (k.id.ctx ≠ ctx ∨ waiting k w = 0 → k' = k)

/-- An entry of a core becomes another; the other entries and the cells of the core stay as they are. -/
def EntryBecomes (s t : State) (c ctx n : Nat) (e : Entry) : Prop :=
  (t.core c).entry ctx n = e ∧ (t.core c).cells = (s.core c).cells
    ∧ ∀ ctx' n', n' < 256 → (ctx' ≠ ctx ∨ n' ≠ n) → (t.core c).entry ctx' n' = (s.core c).entry ctx' n'

/-! ## Events of system software and of queues (R37, R152, R179, R186, R314 to R316, R330 to R337) -/

/-- Values of a field of the control block that R330 admits: from the first, below the second. -/
def ccbRange : CcbField → Nat × Nat
  | .fqBase | .qtBase => (0, 2 ^ 64)
  | .fqHead => (0, 2 ^ 16)
  | .fqLog => (4, 16)
  | .priv | .replay | .plock => (0, 2)
  | .ckpti => (1, 101)
  | .quant => (0, 32)
  | .wdlog => (20, 33)
  | .nq => (0, 17)

/-- The value of a field of the control block. -/
def ccbValue (b : Ccb) : CcbField → Nat
  | .fqBase => b.fqBase.toNat
  | .qtBase => b.qtBase.toNat
  | .fqHead => b.fqHead
  | .fqLog => b.fqLog
  | .priv => b.priv.toNat
  | .replay => b.replay.toNat
  | .plock => b.plock.toNat
  | .ckpti => b.ckpti
  | .quant => b.quant
  | .wdlog => b.wdlog
  | .nq => b.nq

/-- The 256 bits of a fault record (R314). -/
def faultBits (s : State) (c : Nat) (r : FaultRec) : Nat :=
  r.cause % 2 ^ 8 + 2 ^ 8 * (r.sub % 2 ^ 16) + 2 ^ 24 * r.count + 2 ^ 32 * (r.slots % 2 ^ 16) + 2 ^ 48 * (c % 64)
    + 2 ^ 54 * (c / 64 % 4) + 2 ^ 56 * (r.gone || s.hasRetired c r.ctx r.crewId).toNat + 2 ^ 57 * r.imprecise.toNat
    + 2 ^ 64 * r.pc.toNat + 2 ^ 96 * r.crewId.toNat
    + 2 ^ 128 * r.lid.toNat
    + 2 ^ 160 * (r.addr % 2 ^ 64) + 2 ^ 224 * (r.opened % 2 ^ 32)

/-- The queue of a record. -/
def queueOf (s : State) (r : RecRef) : Queue := (s.context r.ctx).queue r.queue

/-- A record may be released (R334): it is queued, what it depends on has completed, and no earlier uncompleted
record precedes it. -/
structure MayRelease (s : State) (r : RecRef) (q : QRec) : Prop where
  working : s.device.start.stage = .ready ∧ s.device.power.state = .active
  alive : (s.context r.ctx).killed = false
  record : (queueOf s r).window[r.idx]? = some q
  queued : q.st = .queued
  dep : ∀ l x, q.dep = some l → tget? s.launches l = some x → x.completed = true
  free : ∀ p ∈ (queueOf s r).window.take r.idx, (queueOf s r).ranged = true ∧ p.record.kind = 0 ∧ q.record.kind = 0
    ∧ p.record.conflicts q.record = false

/-- `n` bytes of device memory keep clear of the descriptor of a queue in the queue table (R331). -/
def Apart (s : State) (ctx queue a n : Nat) : Prop :=
  let d := gaddr (s.context ctx).ccb.qtBase (32 * queue)
  a + n ≤ d ∨ d + 32 ≤ a

/-- No write that a migration holds is on its way to `n` bytes (R220). -/
def Quiet (s : State) (a n : Nat) : Prop := ∀ x ∈ s.device.held, a + n ≤ x.1 ∨ x.1 + x.2.length ≤ a

/-- Bytes of device memory outside the descriptor of a queue stay as they were; HEAD moves in it as records go in. -/
def OnlyDescriptor (s : State) (r : RecRef) (t : State) : Prop :=
  ∀ x, Apart s r.ctx r.queue x 1 → Memory.read t.globalMem x = Memory.read s.globalMem x

/-- The record has left its window; the records behind it have come up, as `f` makes them. -/
def LeftWindow (s : State) (r : RecRef) (f : Nat → QRec → QRec) (t : State) : Prop :=
  (∀ i w, i < r.idx → (queueOf s r).window[i]? = some w → (queueOf t r).window[i]? = some (f i w))
    ∧ ∀ i w, r.idx < i → (queueOf s r).window[i]? = some w → (queueOf t r).window[i - 1]? = some (f i w)

/-- The launch of a released record is new, and the record names it. -/
def Launched (s : State) (r : RecRef) (q : QRec) (l : Launch) (t : State) : Prop :=
  tget? t.launches s.serial = some l ∧ l.ctx = r.ctx ∧ l.queue = some r.queue ∧ l.record = q.record
    ∧ l.completed = false
    ∧ (queueOf t r).window[r.idx]? = some { q with st := .released, launch := some s.serial }

/-! ## Saves, checkpoints and replay (R76, R317 to R323) -/

/-- Crews of a core that a pre-emption may choose (R317); the slot of a HELD one is waited for (R319). -/
def Choosable (s : State) (c : Nat) (p : Nat × Machine.Crew) : Prop :=
  p ∈ (s.core c).slots ∧ p.2.evict = none ∧ (s.context p.2.id.ctx).ccb.plock = false

/-- A chosen crew leaves admission in this cycle; a HELD one is not saved (R318, R319). -/
def Leaving (s : State) (c : Nat) (k : Machine.Crew) : Machine.Crew :=
  if k.st = .held then k else { k with evict := some (s.coreCycle c) }

/-- A thread keeps its registers, its pending writes and its PC. -/
def StaysAs (t u : Thread) : Prop := u.pc = t.pc ∧ u.regs = t.regs ∧ u.pend = t.pend ∧ u.jid = t.jid ∧ u.broken = t.broken

/-- The pending writes of a thread that its record keeps: those of which no later write of the same register has a
distance no larger (R320). -/
def readable (ps : List Pend) : List Pend :=
  ((ps.zipIdx).filter fun x => !(ps.drop (x.2 + 1)).any fun q => decide (q.key = x.1.key ∧ q.left ≤ x.1.left)).map (·.1)

/-- The state that a record keeps: a held group forms again, and a wave's time is a distance (R318). -/
def savedState (now : Nat) : TState → TState
  | .held => .ready
  | .parked (.wave q) => .parked (.wave (q - now))
  | st => st

/-- A crew is in the save area as it stood (R318, R320). -/
structure SavedAs (s : State) (r : SlotRef) (k : Machine.Crew) (v : Saved) : Prop where
  core : v.core = r.core
  id : v.crew.id = k.id
  regs : v.crew.sregs = k.sregs
  loops : v.crew.loops = k.loops
  ctl : v.crew.ctl = k.ctl ∧ v.crew.ctlLog = k.ctlLog
  trap : v.crew.trap = k.trap
  copy : v.crew.copy = k.copy
  lanes : ∀ l t, k.thread? l = some t → ∃ u, v.crew.thread? l = some u ∧ u.st = savedState (s.quadCycle (quadOf r.core)) t.st
    ∧ u.pc = t.pc ∧ u.regs = t.regs ∧ u.pend = readable t.pend ∧ u.jid = t.jid ∧ u.broken = t.broken
    ∧ u.nextA = t.nextA - s.coreCycle r.core ∧ u.nextB = t.nextB - s.coreCycle r.core
  requests : ∀ x ∈ (s.quad (quadOf r.core)).table, x.core = r.core → x.ctx = k.id.ctx → x.crewId = k.id.crewId →
    x.granted = false → ∃ y ∈ v.mreqs, y.serial = x.serial ∧ y.op = x.op ∧ y.st = .wait

/-- A block that has run its quantum while blocks of its launch wait (R76). -/
structure RunItsQuantum (s : State) (b : Block) (l : Launch) : Prop where
  launch : tget? s.launches b.launch = some l
  placed : b.spawned = false ∧ b.saved = 0 ∧ b.crews ≠ []
  others : l.waiting ≠ []
  quantum : b.placedAt + ((s.context l.ctx).ccb.quant + 1) * 500000 ≤ s.tick
  crews : ∀ r ∈ b.crews, ∃ k, s.crew? r.core r.slot = some k ∧ k.evict = none
  some : ∃ r ∈ b.crews, ∃ k, s.crew? r.core r.slot = some k ∧ k.st ≠ .held

/-! ## The package around the dies (R328 to R343) -/

/-- Nothing is queued, resident or outstanding (R342). -/
structure AllIdle (s : State) : Prop where
  working : s.device.start.stage = .ready ∧ (s.device.power.state = .active ∨ s.device.power.state = .idle)
  queues : ∀ p ∈ s.contexts, ∀ q ∈ p.2.queues, q.2.window = [] ∧ q.2.head = q.2.tail
  cores : ∀ p ∈ s.cores, p.2.slots = [] ∧ p.2.reqs = [] ∧ p.2.late = []
  quads : ∀ p ∈ s.quads, p.2.table = [] ∧ ∀ b ∈ p.2.banks, b.use = .free ∨ ∃ c, b.use = .bound c

/-! ## nupdb (R346 to R360) -/

/-- The stopped crew. -/
def Stopped (s : State) (r : SlotRef) (k : Machine.Crew) : Prop :=
  s.device.session.stops.head?.map (·.ref) = some r ∧ s.crew? r.core r.slot = some k

/-- A command prints values and changes nothing else. -/
def Prints (e : Instr) (s : State) (xs : List Shown) : Prop :=
  let v := s.device.session
  let d : Device := { s.device with session := { v with out := v.out ++ xs } }
  exec e s = .next { s with device := d }

/-- A command changes CAPCTL of the core, or another field that is given, and of the cores nothing else. -/
def CoreOnly (e : Instr) (s : State) (c : Nat) (f : Core → Core) : Prop :=
  ∃ t, exec e s = .next t ∧ t.core c = f (s.core c) ∧ ∀ c', c' ≠ c → t.core c' = s.core c'

/-- Threads that the debugger stopped stand READY at the same PC. -/
def GoOn (t : State) (r : SlotRef) (k : Machine.Crew) : Prop :=
  ∃ k', t.crew? r.core r.slot = some k' ∧ k'.sregs = k.sregs ∧ ∀ l th, k.thread? l = some th →
    th.st = .parked .debugger → ∃ th', k'.thread? l = some th' ∧ th'.st = .ready ∧ th'.pc = th.pc
      ∧ th'.regs = th.regs ∧ th'.pend = th.pend

end Sys2Proof.Claims

open Sys2Proof Sys2Proof.Machine Sys2Proof.Claims

/-- R107, R108: every instruction of the integer group writes the table's result.
R109, R115, R117, R118: SEL selects, PACK and UNPK move elements, PLOP writes D and E from their tables (E's value
stays where they are one predicate), PMOV moves 32 predicates.
R121, R125, R126: what lanes get from each other once the NAMED threads have gathered. -/
def Obligations.IntegerAndMoves : Prop :=
  (∀ i r, intResult i = some r → i.wellFormed = true →
    ∀ s g k, Ready s i r.h g k → r.Lands s g k → r.Effect s i g k)
  ∧ (∀ i r, (moveResult i = some r ∨ predResult i = some r) → i.wellFormed = true →
    ∀ s g k, Ready s i r.h g k → r.Lands s g k → r.Effect s i g k)
  ∧ (∀ i r, laneResult i = some r → i.wellFormed = true →
    ∀ s g k, Ready s i r.h g k → r.Lands s g k → r.Effect s i g k)

/-- R86 to R89: instructions that do nothing, branches, calls and returns. R52, R64, R65, R66: a group that is regrouped
from several crews executes in each of them as if it were alone, its oldest crew pays, and the other crews of the core
stay as they are. -/
def Obligations.ControlFlow : Prop :=
  (∀ i g r, flowResult g i = some r → i.wellFormed = true →
    ∀ s k, Ready s i r.h g k → r.Lands s g k → r.Effect s i g k)
  ∧ ∀ i s g r, i.hdr? = some r.h → i.wellFormed = true → i.regroups true = true → s.cur = some g → g.paid = false →
    g.clsA = true → g.chunk = none → g.parts ≠ [] → (g.parts.map (·.1)).Nodup →
    (∀ p ∈ g.parts, ∃ k, PartPasses s i r g p k) →
    s.priceAt g.core (gatePrice i) ≤ (s.core g.core).tok.tkcap →
    (s.dueAt i g = 0 ∨ (s.core g.core).canPay (s.oldest g) (s.dueAt i g) = true) →
    ∃ t, exec i s = .next t ∧ (t.core g.core).tok = { (s.core g.core).tok with level := (s.core g.core).tok.level - s.dueAt i g }
      ∧ (∀ p ∈ g.parts, ∀ k, s.crew? g.core p.1 = some k → ∃ k', t.crew? g.core p.1 = some k'
        ∧ r.Crew (s.context k.id.ctx) (alone g p) k k' ∧ k'.st = k.st ∧ k'.id = k.id ∧ k'.loops = k.loops ∧ k'.trap = k.trap
        ∧ k'.copy = k.copy ∧ k'.counts.cntr.getD 0 0 = k.counts.cntr.getD 0 0 + min 1 k.counts.cntr.length)
      ∧ ∀ slot, (∀ p ∈ g.parts, p.1 ≠ slot) → t.crew? g.core slot = s.crew? g.core slot

/-- R110 to R116, with R52: an FP, packed, convert or quantize instruction none of whose lanes raises an enabled
flag writes its results and ORs the flags that were raised into FPCTL. -/
def Obligations.FloatGroup : Prop :=
  ∀ i h d f, floatOf i = some (h, d, f) → i.wellFormed = true →
    ∀ s g k, Ready s i h g k → badLanes k (k.holding h g.mask) f = 0 → (floatResult h f).Lands s g k →
      (floatResult h f).Effect s i g k

/-- R123, R124: what two operands combine to, an absent lane being none; RED and SCAN over the tree, where the flags of
it are not enabled. -/
def Obligations.ReduceAndScan : Prop :=
  (∀ op z x, meet op z Option.none x = x ∧ meet op z x Option.none = x)
  ∧ (∀ op z (a b : Word) f f', meet op z (some (a.toNat, f)) (some (b.toNat, f'))
    = some ((joined op z a b).bits, f ||| f' ||| (joined op z a b).flags))
  ∧ ∀ i g h d f, treeOf i g = some (h, d, f) → i.wellFormed = true →
    ∀ s k, Ready s i h g k → (treeResult h d f).Lands s g k →
      (∀ l t, (k.holding h g.mask).getLsbD l = true → k.thread? l = some t →
        enables k t &&& (f k (k.holding h g.mask)).2 = 0) →
      (treeResult h d f).Effect s i g k

/-- R101: the value of every special register code. R151, R171, R192, R193, R206, R212: the words of LTQ, CAPQ, TOKQ,
PRICEQ, TCNT and CQRY, bit field by bit field.
R101, R151, R171, R192 to R195, R206, R212: what the instructions that read the machine give; the estimate of
`cqry.est` is a free value (log 3), taken from the counter of free values. -/
def Obligations.MachineReads : Prop :=
  (∀ s c l k t, ∀ p ∈ specials s c l k t, s.special c l k t p.1 = p.2)
  ∧ (∀ (s : State) c l (k : Crew) t, let sel := (k.ctlOf t).ltsel.toNat
    let e := (s.core c).entry k.id.ctx (sel % 256)
    sel < 2 ^ 11 → InWidth e.desc → (e.desc.st = .free → s.special c l k t 0x31 = 0)
      ∧ (e.desc.st ≠ .free → s.special c l k t 0x31 = descWord e.desc (sel / 256)))
  ∧ (∀ e : Entry, e.ltqWord = BitVec.ofNat 32 (ltqBits e.desc))
  ∧ (∀ (c : Core) st, c.capWord st = BitVec.ofNat 32 (capBits c st))
  ∧ (∀ s c k, s.levelWord c k = levelBits s c k)
  ∧ (∀ op (a : Word), op < 8 → priceq op a.toNat = priceWord op a.toNat)
  ∧ (∀ (c : Core) (k : Crew), k.copy.word = tagBits k.copy ∧ k.copy.outWord (c.pendOf k) = outBits c k)
  ∧ (∀ (c : Core) id, c.queryWord id = ticketBits c id)
  ∧ ∀ i s g k r, readResult (s.begun i g) g (s.begunCrew i g k) i = some r → i.wellFormed = true →
    Ready s i r.h g k → Unlogged s k → r.Lands s g k → (queries i = true → s.landedNow g.core = false) →
      (∀ h est d a, i = .cqry h est d a → r.EffectIn { s.begun i g with freeCtr := s.freeCtr + 64 } s i g k)
      ∧ ((∀ h est d a, i ≠ .cqry h est d a) → r.Effect s i g k)

/-- R28: a thread may issue again after the STALL of its instruction. R29, R30: issue distance adds up; the value of a
write at a latency is read from that distance on, before it a read gives what it gave without the write and is early, and
the newest of the writes that have come prevails. The results and the control writes of each instruction are seen at its
latency. Where a guard holds, the first early source in operand order raises STALL with its code in TRAPARG, and the
instruction performs nothing. -/
def Obligations.ResultLatency : Prop :=
  (∀ (t : Thread) key val lat n key', ((t.write key val lat).age n).read key'
      = (if key' = key ∧ lat ≤ n then val else (t.age n).read key')
    ∧ ((t.write key val lat).age n).early key' = (decide (key' = key ∧ n < lat) || (t.age n).early key'))
  ∧ (∀ (t : Thread) m n key, ((t.age m).age n).read key = (t.age (m + n)).read key
    ∧ ((t.age m).age n).early key = (t.age (m + n)).early key)
  ∧ (∀ (t : Thread) n key, (∀ p ∈ t.pend, p.key ≠ key) →
    (t.age n).read key = t.base key ∧ (t.age n).early key = false)
  ∧ (∀ i s g k r, Gives s g k i r → i.wellFormed = true → Ready s i r.h g k → r.Lands s g k →
    ∃ t k', exec i s = .next t ∧ t.crew? g.core g.slot = some k'
      ∧ ∀ l th, g.mask.getLsbD l = true → k.thread? l = some th → ∃ th', k'.thread? l = some th'
        ∧ (th'.nextA, th'.nextB) = stallTo (s.coreCycle g.core) r.h g.clsA
        ∧ (∀ m key, let n := r.h.stall.toNat + m
          let v := r.valueAt k g.mask l th key
          (th'.age m).read key = (if latency i ≤ n then v else none).getD ((th.age n).read key)
          ∧ (th'.age m).early key = (v.isSome && decide (n < latency i) || (th.age n).early key))
        ∧ (CtlFresh s k → ∀ m, let n := r.h.stall.toNat + m
          let on := k.holding r.h g.mask
          k'.ctlOf (th'.age m) = (if ctlLatency i ≤ n ∧ on ≠ 0 then r.ctl k on else []).foldl Ctl.apply
            (k.ctlOf (th.age n))))
  ∧ ∀ i h s g k ops key, operands i = some ops → i.hdr? = some h → i.wellFormed = true → s.cur = some g →
    Stands s i h g k (s.priceAt g.core (gatePrice i)) → Enterable g k 4 → k.holding h g.mask ≠ 0 →
    FirstEarly k h g ops key → ∃ n k', exec i s
        = .next { ({ s with cur := none }.useSlot g).modCrew g.core g.slot (fun _ => k') with serial := n }
      ∧ Entered (s.context k.id.ctx) g (k.addCntr 0 1) k'
        ⟨g.pc, BitVec.ofNat 32 (65536 * 4), BitVec.ofNat 32 key, 0, k.holding h g.mask, g.mask⟩

/-- R93, R146, R204, R212, R246, R265, R304, R305 with R31 and R364: the waits, and SYMQ. -/
def Obligations.WaitsAndCompletions : Prop :=
  ∀ i s g k p, waitPoint (s.begun i g) g (s.begunCrew i g k) i = some p → i.wellFormed = true →
    Ready s i p.h g k → p.Lands s g k → p.EffectIn (s.begun i g) s i g k

/-- R147 to R150, R167, R168: entries are placed, mapped, freed and revived, and a crew waits for capacity. -/
def Obligations.LayoutAndCapacity : Prop :=
  ∀ i s g k X p, layoutPoint (s.begun i g) g (s.begunCrew i g k) i = some (X, p) → i.wellFormed = true →
    Ready s i p.h g k → p.Lands s g k → p.EffectIn X s i g k

/-- R78, R90: the threads of EXIT whose guards hold retire, and a crew whose last thread retires is HELD; where
nobody waits for them the other threads of the group go on, and the rest of the crew is as it was. -/
def Obligations.ExitRetires : Prop :=
  ∀ s h g k, Ready s (.exit h) h g k → k.st = .run → k.holding h g.mask ≠ 0 →
    ∃ t k', exec (.exit h) s = .next t ∧ t.crew? g.core g.slot = some k'
      ∧ (∀ l, (k.holding h g.mask).getLsbD l = true → ∃ th, k'.thread? l = some th ∧ th.st = .retired)
      ∧ (k.holding h g.mask = k.live → k'.st = .held)
      ∧ (NobodyWaits k → k.Clear (s.context k.id.ctx) (g.mask &&& ~~~k.holding h g.mask) (fun _ => g.next) →
          (∀ l, g.mask.getLsbD l = false → k'.thread? l = k.thread? l)
          ∧ ∀ l th, g.mask.getLsbD l = true → (k.holding h g.mask).getLsbD l = false → k.thread? l = some th →
            ∃ th', k'.thread? l = some th' ∧ WentOn th th' ((s.context k.id.ctx).start g.next))

/-- R73: threads whose next instruction is the END of the innermost level wait there with their results, the others of
the group go on.
R92, R73: the threads of LBRK whose guards hold wait at END of the innermost level, broken out of it; the
others go on.
R91, R72: LOOP writes its counter and opens a level, whose body comes next; with a count of 0 it opens none
and goes on at END. It is a completion point. -/
def Obligations.LoopsAndBreaks : Prop :=
  (∀ i s g k r d v, (intResult i = some r ∨ moveResult i = some r ∨ predResult i = some r ∨ flowResult g i = some r) →
    i.wellFormed = true → Ready s i r.h g k → k.level? (lowLane g.mask) = some (d, v) → v.body g.pc = true →
    (∀ l t, g.mask.getLsbD l = false → k.thread? l = some t → t.st ≠ .collective ∧ (t.st = .loopEnd → t.pc = v.stop)) →
    let x := s.context k.id.ctx
    (∃ l, g.mask.getLsbD l = true ∧ x.start (r.dest g k l) = v.stop) → ∃ n k', exec i s
        = .next { (s.begun i g).modCrew g.core g.slot (fun _ => k') with serial := n }
      ∧ k'.st = k.st ∧ k'.id = k.id ∧ k'.loops = k.loops ∧ k'.trap = k.trap ∧ k'.copy = k.copy ∧ k'.finalCtl = k.finalCtl
      ∧ (∀ l, g.mask.getLsbD l = false → k'.thread? l = k.thread? l)
      ∧ ∀ l t, g.mask.getLsbD l = true → k.thread? l = some t → ∃ t', k'.thread? l = some t'
        ∧ t'.pc = x.start (r.dest g k l) ∧ t'.st = (if x.start (r.dest g k l) = v.stop then .loopEnd else .ready)
        ∧ ∀ key, t'.final key = (r.valueAt k g.mask l t key).getD (t.final key))
  ∧ (∀ s h g k d v, Ready s (.lbrk h) h g k → k.holding h g.mask ≠ 0 →
    k.level? (lowLane (k.holding h g.mask)) = some (d, v) → k.level? (lowLane g.mask) = some (d, v) →
    (s.context k.id.ctx).start v.stop = v.stop → (s.context k.id.ctx).start g.next ≠ v.stop →
    k.splitAt (k.holding h g.mask) (k.scope (lowLane (k.holding h g.mask))) v.stop true = none →
    ∃ n k', exec (.lbrk h) s
        = .next { (s.begun (.lbrk h) g).modCrew g.core g.slot (fun _ => k') with serial := n }
      ∧ Stays k k' ∧ k'.loops = k.loops ∧ k'.trap = k.trap
      ∧ (∀ l, g.mask.getLsbD l = false → k'.thread? l = k.thread? l)
      ∧ ∀ l t, g.mask.getLsbD l = true → k.thread? l = some t → ∃ t', k'.thread? l = some t'
        ∧ (if t.guard h then t'.st = .loopEnd ∧ t'.pc = v.stop ∧ t'.broken = true ∧ ∀ key, t'.final key = t.final key
          else WentOn t t' ((s.context k.id.ctx).start g.next)))
  ∧ (∀ s h o g k t, Ready s (.loop h o) h g k → leader k h g = some t →
    let x := s.context k.id.ctx
    let v := loopOpened x g k o
    (loopCount o t ≠ 0 → x.start v.start ≠ v.stop) → (loopCount o t = 0 → k.Clear x g.mask fun _ => v.stop) →
    ∃ n k', exec (.loop h o) s
        = .next { (s.begun (.loop h o) g).modCrew g.core g.slot (fun _ => k') with serial := n }
      ∧ Stays k k' ∧ k'.trap = k.trap
      ∧ k'.loops = ⟨k.loops.lc.set o.lc.toNat (loopCount o t),
          if loopCount o t = 0 then k.loops.levels else k.loops.levels ++ [v], k.loops.buffer⟩
      ∧ (∀ l, g.mask.getLsbD l = false → k'.thread? l = k.thread? l)
      ∧ ∀ l t', g.mask.getLsbD l = true → k.thread? l = some t' → ∃ t'', k'.thread? l = some t''
        ∧ Completed k.sregs t' t'' (x.start (if loopCount o t = 0 then v.stop else v.start)))

/-- R86: BKPT goes on where no debug session watches the crew; where one does, the group stops after the
instruction, beside the crews that have stopped before, and the session has the code and the PC. -/
def Obligations.BkptStops : Prop :=
  ∀ s h code g k, Ready s (.bkpt h code) h g k → (Result.none h).Lands s g k → k.holding h g.mask ≠ 0 →
    (s.watched k = false → (Result.none h).Effect s (.bkpt h code) g k)
    ∧ (s.watched k = true → ∃ n k' v, exec (.bkpt h code) s
        = .next { (s.begun (.bkpt h code) g).modCrew g.core g.slot (fun _ => k') with
            serial := n, device := { s.device with session := v } }
      ∧ v.stops.head? = some ⟨⟨g.core, g.slot⟩, none⟩
      ∧ (∀ x, x.ref ≠ ⟨g.core, g.slot⟩ → (x ∈ v.stops ↔ x ∈ s.device.session.stops))
      ∧ v.speaks = some (⟨g.core, g.slot⟩, k.id.age) ∧ v.stopPc = g.pc ∧ v.code = code.toNat
      ∧ v.attached = s.device.session.attached ∧ v.out = s.device.session.out
      ∧ Stays k k' ∧ k'.loops = k.loops ∧ k'.trap = k.trap
      ∧ (∀ l, g.mask.getLsbD l = false → k'.thread? l = k.thread? l)
      ∧ ∀ l t, g.mask.getLsbD l = true → k.thread? l = some t → ∃ t', k'.thread? l = some t'
        ∧ t'.st = .parked .debugger ∧ t'.pc = (s.context k.id.ctx).start g.next
        ∧ ∀ key, t'.final key = t.final key)

/-- R104, R324, R325: SWR, SETH and TMASK write the crew's control registers.
R104, R145, R152, R169, R170, R196, R327: PHINT, CKPT, MARK, RERANK and SWR of LTDAT. -/
def Obligations.ControlAndSideEffects : Prop :=
  (∀ i s g k r, ctlWrite g i = some r → i.wellFormed = true →
    Ready s i r.h g k → r.Lands s g k → r.Effect s i g k)
  ∧ ∀ i s g k X r, sideResult (s.begun i g) g (s.begunCrew i g k) i = some (X, r) → i.wellFormed = true →
    Ready s i r.h g k → (s.context k.id.ctx).replaying = none → r.Lands s g k → r.EffectIn X s i g k

/-- R19: an instruction of which no guard holds changes nothing but the counts of an issue. R31, R68, R69: a
crew-collective instruction at which every thread of the crew stands and of which no guard holds is complete, and does
nothing else; LOOP goes on at END. -/
def Obligations.GuardsOff : Prop :=
  (∀ i s h g k, guarded i = some h → i.wellFormed = true → Ready s i h g k → k.holding h g.mask = 0 →
    (Result.none h).Lands s g k → (Result.none h).Effect s i g k)
  ∧ ∀ i s h g k, i.collective = true → i.hdr? = some h → i.wellFormed = true → s.cur = some g → g.paid = false →
    g.parts = [(g.slot, g.mask)] → g.mask ≠ 0 → s.crew? g.core g.slot = some k → k.trap.handling = false →
    (∀ l, g.mask.getLsbD l = true → ∃ t, k.thread? l = some t) →
    (∀ p ∈ k.threads, p.1 < 64 ∧ g.mask.getLsbD p.1 = true ∧ p.2.st = .ready) → k.holding h g.mask = 0 →
    let x := s.context k.id.ctx
    let next := match i with
      | .loop _ o => g.pc + BitVec.ofNat 32 (4 * o.endOff.toNat)
      | _ => g.next
    k.Clear x g.mask (fun _ => next) →
      ∃ n k', exec i s = .next { ({ s with cur := none }.useSlot g).modCrew g.core g.slot (fun _ => k') with serial := n }
        ∧ Stays k k' ∧ k'.loops = k.loops ∧ k'.trap = k.trap
        ∧ ∀ l t, k.thread? l = some t → ∃ t', k'.thread? l = some t'
          ∧ (match i with
            | .bara _ _ => WentOn t t' (x.start next)
            | _ => Completed k.sregs t t' (x.start next))

/-- R326, R306, R307: TRAP enters the handler of USER with its code and argument; masked, it goes on.
R309: a trap of a thread of the handler kills its crew; a trap of another group while one is handled waits:
the group parks, and its frame is the last that is pending. -/
def Obligations.TrapsTaken : Prop :=
  (∀ s h o g k t, Ready s (.trap h o) h g k → leader k h g = some t →
    (Enterable g k 7 → Enters (s.begun (.trap h o) g) s (.trap h o) g k 7 o.code.toNat (if o.av then t.reg o.a else 0) 0
      (k.holding h g.mask))
    ∧ (k.trap.handling = false → (k.ctlAt g.mask).tmask.getLsbD 7 = true → (Result.none h).Lands s g k →
      (Result.none h).Effect s (.trap h o) g k))
  ∧ (∀ s h o g k t, Ready s (.trap h o) h g k → k.st ≠ .held → leader k h g = some t → k.trap.handling = true →
    (g.mask &&& k.trap.hact ≠ 0 →
      ∃ t' k', exec (.trap h o) s = .next t' ∧ t'.crew? g.core g.slot = some k' ∧ Killed k')
    ∧ (g.mask &&& k.trap.hact = 0 → ∃ n k' p, exec (.trap h o) s
        = .next { (s.begun (.trap h o) g).modCrew g.core g.slot (fun _ => k') with serial := n }
      ∧ k'.trap = { k.trap with pending := k.trap.pending ++ [p] }
      ∧ p.frame = ⟨g.pc, BitVec.ofNat 32 (o.code.toNat + 65536 * 7), if o.av then t.reg o.a else 0, 0,
          k.holding h g.mask, g.mask⟩
      ∧ (∀ l, g.mask.getLsbD l = false → k'.thread? l = k.thread? l)
      ∧ ∀ l t, g.mask.getLsbD l = true → k.thread? l = some t →
        k'.thread? l = some { t with st := .parked .trap }))

/-- R311: RETT ends the handler and its threads go on, after a completion point, where the form takes them. R163:
where it ends the handler that rebuilds an entry, the entry is LIVE if it was revived and the form is RETRY or SKIP
(LOSING if a doom has come to it), and LOST otherwise.
R311, R35: RETT outside a handler, GIVEUP after another class than LOSS, and the form KILL kill the crew. -/
def Obligations.RettReturns : Prop :=
  (∀ s h form g k pc, Ready s (.rett h form) h g k → k.trap.handling = true → k.holding h g.mask ≠ 0 →
    g.mask &&& ~~~k.trap.hact = 0 → k.trap.pending = [] → returnTo (s.context k.id.ctx) k form.toNat = some pc →
    let lt := k.trap.frame.lt.toNat
    let e := (s.core g.core).entry k.id.ctx lt
    ((k.trap.frame.cls = 1 → e.rebuilder ≠ some g.slot) → ∃ n k', exec (.rett h form) s
        = .next { (s.begun (.rett h form) g).modCrew g.core g.slot (fun _ => k') with serial := n }
      ∧ Stays k k' ∧ k'.loops = k.loops ∧ k'.trap = { k.trap with handling := false, hact := 0 }
      ∧ (∀ l, k.trap.hact.getLsbD l = false → k'.thread? l = k.thread? l)
      ∧ ∀ l t, k.trap.hact.getLsbD l = true → k.thread? l = some t → t.live = true → ∃ t', k'.thread? l = some t'
        ∧ Completed k.sregs t t' pc)
    ∧ (k.trap.frame.cls = 1 → e.rebuilder = some g.slot → e.desc.st = .rebuild →
      ∃ t, exec (.rett h form) s = .next t
        ∧ ((t.core g.core).entry k.id.ctx lt).rebuilder = none
        ∧ ((t.core g.core).entry k.id.ctx lt).desc = { e.desc with
            st := if form ≠ 2 ∧ e.revived = true then (if e.doomed then .losing else .live) else .lost }))
  ∧ (∀ s h form g k, Ready s (.rett h form) h g k → k.st ≠ .held → k.holding h g.mask ≠ 0 →
    (k.trap.handling = false ∨ g.mask &&& ~~~k.trap.hact ≠ 0 ∨ returnTo (s.context k.id.ctx) k form.toNat = none) →
    ∃ t k', exec (.rett h form) s = .next t ∧ t.crew? g.core g.slot = some k' ∧ Killed k')

/-- R29, R137 to R144, R268: thread accesses to a LIVE entry whose lanes are all in bounds, or which clamps: they
reach the banks at issue + 6, and the lanes wait for what they bring, for 6 of issue distance (ATOMS: 8). There a load's
values are the elements that the cells then hold, a store writes its elements in the order of the lanes, and ATOMS
performs its updates and brings their results. -/
def Obligations.ThreadAccesses : Prop :=
  (∀ i a, accessOf i = some a → i.wellFormed = true → ∀ s g k, Ready s i a.h g k → a.Open s g k →
    let x := s.context k.id.ctx
    let k0 := s.begunCrew i g k
    let d := (entryOf s g k (BitVec.ofNat 8 a.n)).desc
    let ts := a.touched d k (k.holding a.h g.mask)
    (∀ x ∈ ts, fits d x.2.2 = true) → (Result.none a.h).Lands s g k →
      ∃ n k', exec i s = .next { (accessed a (s.begun i g) g k0 d ts).modCrew g.core g.slot (fun _ => k') with serial := n }
        ∧ a.Crew x g d s.serial a.lat ts k0 k')
  ∧ (∀ s c due op, (s.core c).late = [(due, op)] → due ≤ s.coreCycle c →
    let t := s.drainLate c
    (∀ n d v ts, op = .load n d v ts → (ts.map fun x => (x.1, x.2.1)).Nodup →
      (t.core c).late = [] ∧ (t.core c).cells = (s.core c).cells ∧ t.globalMem = s.globalMem
      ∧ ∀ x ∈ ts, Arrive s t c x.1 x.2.1 n fun key =>
        if v.toNat ≤ key ∧ key < v.toNat + ceilDiv (x.2.2.length * d.w) 32 then
          some (BitVec.ofNat 32 (packed d (s.core c).cells x.2.2 / 2 ^ (32 * (key - v.toNat)))) else none)
    ∧ (∀ n slots d ws, op = .store n slots d ws → t = s.modCore c fun x => { x with late := [], cells := stored d ws x.cells })
    ∧ ∀ n ctx d reg o ty id retired ls, op = .atoms n ctx d reg o ty id retired ls → d.isGlobal = false →
      (ls.map fun x => (x.1, x.2.lane)).Nodup → (ls.map fun x => x.2.lane).Nodup →
      let all := atomGroup ⟨some c, d.unitAddr, d.unitBits⟩ o ty (s.core c).cells
        (ls.filterMap fun x => if d.inBounds x.2.coord then some (linear d.exts x.2.coord * d.w, x.2) else none)
      (t.core c).late = [] ∧ (t.core c).cells = all.1 ∧ t.globalMem = s.globalMem
      ∧ ∀ x ∈ ls, Arrive s t c x.1 x.2.lane n fun key => if key = reg.toNat then
          some (((all.2.find? fun y => decide (y.1 = x.2.lane)).map (·.2)).getD 0) else none)

/-- R138, R142, R144: an access to a FREE entry takes BOUNDS NOENT; of a kind it does not accept, KIND; with a run
outside its file, REGRUN; with the entry in TRAPLT. Lanes of a store that are out of bounds take COORD, with the first
dimension in which the lowest of them is out; the elements of the other lanes reach the banks at issue + 6. -/
def Obligations.AccessTraps : Prop :=
  ∀ i a, accessOf i = some a → i.wellFormed = true → ∀ s g k, Ready s i a.h g k → Enterable g k 3 →
    ((s.core g.core).nextAccess ≤ s.coreCycle g.core → k.holding a.h g.mask ≠ 0 → NoneReleased g k a.n →
      let e := entryOf s g k (BitVec.ofNat 8 a.n)
      let enters := fun code => Enters (s.begun i g) s i g k 3 code 0 (BitVec.ofNat 8 a.n) (k.holding a.h g.mask)
      (e.desc.st = .free ∨ e.freeing = true → enters 2)
      ∧ (e.desc.st ≠ .free → e.freeing = false → a.kinds e.desc = false → enters 3)
      ∧ (e.desc.st ≠ .free → e.freeing = false → a.kinds e.desc = true →
          (∃ r ∈ a.runs e.desc, regRunOk k.id.vallot r.1 r.2 = false) → enters 6))
    ∧ ((∀ d es key, a.waits d es key = false) → a.Open s g k →
      let d := (entryOf s g k (BitVec.ofNat 8 a.n)).desc
      let ts := a.touched d k (k.holding a.h g.mask)
      let bad := ts.filter fun x => !fits d x.2.2
      ∀ l t es c, bad.head? = some (l, t, es) → es.find? (fun c => !d.inBounds c) = some c →
        Enters (accessed a (s.begun i g) g (s.begunCrew i g k) d (ts.filter fun x => fits d x.2.2)) s i g k 3 1
          (BitVec.ofNat 32 (((List.range d.dims).find? fun j => decide (d.exts.getD j 0 ≤ c.getD j 0)).getD 0))
          (BitVec.ofNat 8 a.n) (maskOf (bad.map (·.1))))

/-- R269, R270: the results and the new value of one indivisible update of a word, by lanes in ascending order. -/
def Obligations.AtomicUpdate : Prop :=
  ∀ op ty old xs, (atomWord op ty old xs).2 = after op ty old xs
    ∧ (atomWord op ty old xs).1.length = xs.length
    ∧ ∀ i, i < xs.length → (atomWord op ty old xs).1[i]? = some (after op ty old (xs.take i))

/-- R52, R53, R111: where lanes raise an enabled flag, their destinations keep their values, the other lanes write
theirs, every flag raised is ORed into FPCTL, and the group takes FPX. -/
def Obligations.FpxEntersHandler : Prop :=
  ∀ i h d f, floatOf i = some (h, d, f) → i.wellFormed = true → ∀ s g k, Ready s i h g k → Enterable g k 0 →
    let on := k.holding h g.mask
    let bad := badLanes k on f
    bad ≠ 0 → (∀ p ∈ k.ctlLog, p.1 < s.serial) → ∃ n k', exec i s = .next { (s.begun i g).modCrew g.core g.slot (fun _ => k') with serial := n }
      ∧ k'.id = k.id ∧ k'.st = k.st ∧ k'.loops = k.loops ∧ k'.copy = k.copy
      ∧ k'.finalCtl = k.finalCtl.apply (.fpOr (BitVec.ofNat 32 (flagsOf k on fun t => (f (ftz k t) t).flags)))
      ∧ k'.trap = { k.trap with handling := true, hact := g.mask, frame :=
          ⟨g.pc, BitVec.ofNat 32 (flagsOf k on fun t => (f (ftz k t) t).flags &&& enables k t), BitVec.ofNat 32 d.toNat, 0,
            bad, g.mask⟩ }
      ∧ (∀ l, g.mask.getLsbD l = false → k'.thread? l = k.thread? l)
      ∧ ∀ l t, g.mask.getLsbD l = true → k.thread? l = some t → ∃ t', k'.thread? l = some t'
        ∧ t'.st = .ready ∧ t'.pc = (s.context k.id.ctx).start ((k.ctlAt g.mask).handlers.getD 0 0)
        ∧ Settled k.sregs (fun key => if bad.getLsbD l then none else (floatResult h f).valueAt k g.mask l t key) t t'

/-- R212, R306: a CWAIT that finds an unfinished ticket takes LATE where it has a handler; TRAPARG rests on the copy
unit's estimate, a free value (log 3). R177: an instruction whose price passes TKCAP takes PRICE with the price, and
does nothing. -/
def Obligations.LateAndPrice : Prop :=
  (∀ s h p a g k, Ready s (.cwait h p a) h g k → Enterable g k 2 →
    let late := maskFilter (k.holding h g.mask) fun l =>
      ((k.thread? l).map fun t => (s.core g.core).waitsFor (t.reg a)).getD false
    late ≠ 0 → ∃ arg, Enters { s.begun (.cwait h p a) g with freeCtr := s.freeCtr + 64 } s (.cwait h p a) g k 2 0 arg 0
      late)
  ∧ ∀ i h, priced i = some h → ∀ s g k, s.cur = some g → Stands s i h g k 0 → g.clsA = false → Enterable g k 9 →
    k.holding h g.mask ≠ 0 → (s.core g.core).tok.tkcap < s.priceAt g.core (gatePrice i) →
    Enters (s.begun i g) s i g k 9 1 (BitVec.ofNat 32 (s.priceAt g.core (gatePrice i))) 0 (k.holding h g.mask)

/-- R202, R205, R172: ACPY pays, and each lane in bounds queues a request under the tag. -/
def Obligations.AcpyQueues : Prop :=
  ∀ s h o g k, s.cur = some g → Passes s (.acpy h o) h g k (s.acpyCost h o g) → (Result.none h).Lands s g k →
    let b := s.begun (.acpy h o) g
    let ls := b.acpyLanes g h o
    let act := ls.filter fun x => (cpyEnds b g o).1.inBounds x.dst
    let price := copyPrice (cpyEnds b g o).2.spaceOf (cpyEnds b g o).1.spaceOf ((act.map (·.n)).foldl (· + ·) 0) 0
    let rs := numbered (fun n x => mkReq n (.thread o.tag.toNat x.n x.lane) k g.slot g.pc
      ⟨g.core, o.sn.toNat, (cpyEnds b g o).2, x.src⟩ ⟨g.core, o.dn.toNat, (cpyEnds b g o).1, x.dst⟩ none x.lane
      (s.coreCycle g.core)) s.serial act
    CpyOk b g o ls (fun d => decide (d.kind = 0 ∨ d.kind = 2)) (fun d => d.isGlobal && !d.gpl) true →
    b.noRoom g o.tag.toNat act = false → Affords b g g.slot price →
    Result.EffectIn
      { Result.none h with keep := fun k => payer b g price (tagged o.tag.toNat (rs.map (·.serial)) k) }
      (enqueued (paidBy b g price) g rs) s (.acpy h o) g k

/-- R203, R213, R173: ASTO to a space of global memory that is not imaged: the first lanes that write any byte, up to the
room of the deferred queue, pay for what they request and queue what lies in the window; the others are refused; P
tells. -/
def Obligations.AstoQueues : Prop :=
  ∀ s h o g k, s.cur = some g → Passes s (.asto h o) h g k (s.astoCost h o g) → (Result.none h).Lands s g k →
    let b := s.begun (.asto h o) g
    let ls := b.astoLanes g h o
    let act := ls.filter fun x => x.n ≠ 0
    let room := 1024 - (b.core g.core).deferredCount
    let price := copyPrice (cpyEnds b g o).2.spaceOf (cpyEnds b g o).1.spaceOf
      (((act.take room).map (·.n)).foldl (· + ·) 0) (b.groupImages g o.dn.toNat)
    let rs := numbered (fun n x => mkReq n (.deferThread x.keep x.lane) k g.slot g.pc
      ⟨g.core, o.sn.toNat, (cpyEnds b g o).2, x.src⟩ ⟨g.core, o.dn.toNat, (cpyEnds b g o).1, x.dst⟩ none x.lane
      (s.coreCycle g.core)) s.serial (act.take room)
    CpyOk b g o ls (fun d => d.isGlobal && !d.gpl) (fun d => decide (d.kind = 0 ∨ d.kind = 2)) false →
    (cpyEnds b g o).1.space ≠ 1 → b.groupImaged g o.dn.toNat = false → Affords b g g.slot price →
    Result.EffectIn { alsoP (Result.none h) o.p (fun l => !(act.drop room).any fun x => decide (x.lane = l)) with
        keep := fun k => payer b g price (refusing (!(act.drop room).isEmpty) k) }
      (enqueued (paidBy b g price) g rs) s (.asto h o) g k

/-- R208, R209, R207, R211: BCPY with both ends open pays its first chunk, takes a ticket and queues its request. -/
def Obligations.BcpyQueues : Prop :=
  ∀ s h o g k t i n price, s.cur = some g →
    Passes s (.bcpy h o) h g k (s.chunkCost g.core (s.descOf g o.sn.toNat).spaceOf 0 0) →
    (Result.none h).Lands s g k → leader k h g = some t →
    let b := s.begun (.bcpy h o) g
    let dd := b.descOf g o.dn.toNat
    let sd := b.descOf g o.sn.toNat
    let r := mkReq s.serial (.bulk o.setf) k g.slot g.pc ⟨g.core, o.sn.toNat, sd, t.coords o.c sd.dims⟩
      ⟨g.core, o.dn.toNat, dd, List.replicate dd.dims 0⟩ (some i) (lowLane (k.holding h g.mask)) (s.coreCycle g.core)
    let p := promised b g
    b.entryFault g [(o.dn.toNat, !dd.isGlobal && decide (dd.ndim = sd.ndim) && decide (dd.fmt = sd.fmt)
      && decide (o.dn ≠ o.sn), []), (o.sn.toNat, true, [(o.c, sd.dims)])] = none →
    (sd.clampz = true ∨ ∀ j < dd.dims, (t.coords o.c sd.dims).getD j 0 + dd.exts.getD j 0 ≤ sd.exts.getD j 0) →
    (b.core g.core).freeTicket? = some i → b.endOpen g o.dn.toNat dd = true → b.endOpen g o.sn.toNat sd = true →
    b.nextChunk g.core r = some (n, price) → Affords b g unit price →
    Result.EffectIn { ticketRegs h o.t (idOf b g i) p with keep := payer b g price }
      { enqueued (ticketed (paidBy b g price) g i .pend o.setf p) g [{ r with paid := [n] }] with
        freeCtr := s.freeCtr + 1 } s (.bcpy h o) g k

/-- R208, R210, R213: BPUT to a space of global memory that is not imaged pays its first chunk and enters the deferred
queue with a ticket DEFERRED and a promise of all ones; where the queue is full it is refused. -/
def Obligations.BputQueues : Prop :=
  ∀ s h o g k t, s.cur = some g →
    Passes s (.bput h o) h g k
      (s.chunkCost g.core 0 (s.descOf g o.dn.toNat).spaceOf (s.groupImages g o.dn.toNat)) →
    (Result.none h).Lands s g k → leader k h g = some t →
    let b := s.begun (.bput h o) g
    let dd := b.descOf g o.dn.toNat
    let sd := b.descOf g o.sn.toNat
    b.groupImaged g o.dn.toNat = false → dd.space ≠ 1 →
    b.entryFault g [(o.dn.toNat, !sd.isGlobal && decide (sd.ndim = dd.ndim) && decide (sd.fmt = dd.fmt) && dd.isGlobal,
      [(o.c, dd.dims)]), (o.sn.toNat, true, [])] = none →
    (dd.clampz = true ∨ ∀ j < sd.dims, (t.coords o.c dd.dims).getD j 0 + sd.exts.getD j 0 ≤ dd.exts.getD j 0) →
    (1024 ≤ (b.core g.core).deferredCount →
      Result.EffectIn { alsoP (ticketRegs h o.t 0xFFFFFFFF (2 ^ 64 - 1)) o.p (fun _ => false) with
        keep := refusing true } b s (.bput h o) g k)
    ∧ ∀ i n price, (b.core g.core).deferredCount < 1024 → (b.core g.core).freeTicket? = some i →
      b.endOpen g o.sn.toNat sd = true → b.endOpen g o.dn.toNat dd = true →
      let r := mkReq s.serial .deferBulk k g.slot g.pc ⟨g.core, o.sn.toNat, sd, List.replicate sd.dims 0⟩
        ⟨g.core, o.dn.toNat, dd, t.coords o.c dd.dims⟩ (some i) (lowLane (k.holding h g.mask)) (s.coreCycle g.core)
      b.chunk g.core 0 dd.spaceOf r.bytes (b.groupImages g o.dn.toNat) = some (n, price) → Affords b g unit price →
      Result.EffectIn { alsoP (ticketRegs h o.t (idOf b g i) (2 ^ 64 - 1)) o.p (fun _ => true) with
          keep := payer b g price }
        (enqueued (ticketed (paidBy b g price) g i .deferred false (2 ^ 64 - 1)) g [{ r with paid := [n] }])
        s (.bput h o) g k

/-- R219, R218: MIGR of a home tile that lies elsewhere pays its first chunk, marks the tile as migrating, takes a
frame of its new home and a ticket, and queues its request; of a tile that is migrating it gives no ticket and P = 0. -/
def Obligations.MigrQueues : Prop :=
  ∀ s h o g k t, s.cur = some g →
    Passes s (.migr h o) h g k (s.chunkCost g.core (s.migrHome h o g).space o.home.toNat 0) →
    (Result.none h).Lands s g k → leader k h g = some t →
    let b := s.begun (.migr h o) g
    let d := b.descOf g o.n.toNat
    let c := t.coords o.c d.dims
    let tile := d.tileAt c
    let home := b.homeOf k.id.ctx d tile
    let gets := fun (id : Word) => { Result.none h with
      uni := true
      regs := fun _ _ _ _ key => if key = o.t.toNat then some id else Option.none }
    b.entryFault g [(o.n.toNat, d.isGlobal && decide (2 ≤ d.space ∧ d.space ≤ 4), [(o.c, d.dims)])] = none →
    d.inBounds c = true →
    (home.mig = true → b.migrBehind g.core k d.handle tile = false →
      Result.EffectIn (alsoP (gets 0xFFFFFFFF) o.p fun _ => false) b s (.migr h o) g k)
    ∧ ∀ i n price, home.mig = false → home.space ≠ o.home.toNat →
      b.backed k.id.ctx o.home.toNat = true → (b.core g.core).freeTicket? = some i →
      let X := ((paidBy b g price).modHome k.id.ctx d.handle tile fun q => { q with mig := true }).takeFrame o.home.toNat
      let e : CopyEnd := ⟨g.core, o.n.toNat, d, c⟩
      let r := mkReq s.serial (.migr d.handle tile o.home.toNat X.2) k g.slot g.pc e e (some i)
        (lowLane (k.holding h g.mask)) (s.coreCycle g.core)
      let p := promised b g
      b.nextChunk g.core r = some (n, price) → Affords b g unit price →
      Result.EffectIn { alsoP (gets (idOf b g i)) o.p (fun _ => true) with keep := payer b g price }
        { enqueued (ticketed X.1 g i .pend false p) g [{ r with paid := [n] }] with freeCtr := s.freeCtr + 1 }
          s (.migr h o) g k

/-- R229, R226, R225: a matrix instruction whose checks pass takes a ticket, reserves its tiles and enters the
reservation table; at its completion point P is 1 in every thread of the crew and s[T] is the ticket's id.
R225, R229, R233: a matrix instruction that names a tile of another crew, or a `.kb` pass without a B tile,
gives P = 0 and an id of all ones. -/
def Obligations.MatrixEnters : Prop :=
  (∀ i s g k t h m j, s.cur = some g → leader k h g = some t → i.wellFormed = true →
    let b := s.begun i g
    matrixOf b g (s.begunCrew i g k) t i = some (h, m) →
    Passes s i h g k (s.priceAt g.core (m.op.price (s.groupImages g (m.ends.getD 0 ⟨0, true, none, (0, 0)⟩).n))) →
    (Result.none h).Lands s g k → MatOk b g k t i m → (tget? s.contexts k.id.ctx).isSome = true →
    b.tilesAhead (quadOf g.core) k g.core m.op = false → b.tilesTaken (quadOf g.core) k g.core m.op = false →
    m.noTile = false →
    (b.core g.core).freeTicket? = some j → b.tableUse (quadOf g.core) < 16 →
    (∀ e ∈ m.ends, b.endOpen g e.n (b.descOf g e.n) = true) →
    ∃ t' k' r, exec i s = .next t' ∧ t'.crew? g.core g.slot = some k' ∧ r ∈ (t'.quad (quadOf g.core)).table
      ∧ r.op = m.op ∧ r.serial = s.serial ∧ r.ticket = j ∧ r.core = g.core ∧ r.slot = g.slot ∧ r.pc = g.pc
      ∧ r.crewId = k.id.crewId ∧ r.kbOf = m.kbOf
      ∧ r.ends = (m.ends.map fun e => ⟨g.core, e.n, b.descOf g e.n, match e.c with
          | some c => t.coords c (b.descOf g e.n).dims
          | none => [0]⟩)
      ∧ ((t'.core g.core).ticket j).st = .pend
      ∧ ((t'.core g.core).ticket j).gen = nextGen ((b.core g.core).ticket j).gen
      ∧ (∀ n ∈ m.op.tiles, ((t'.tilesOf (quadOf g.core) k.id.ctx).tile n).owner = some (g.core, k.id.crewId))
      ∧ wget k'.sregs m.t.toNat = idOf b g j
      ∧ (∀ l, g.mask.getLsbD l = false → k'.thread? l = k.thread? l)
      ∧ ∀ l th, g.mask.getLsbD l = true → k.thread? l = some th → ∃ th', k'.thread? l = some th'
        ∧ th'.st = .ready ∧ th'.pc = (s.context k.id.ctx).start g.next
        ∧ Settled k'.sregs (fun key => if key = pKey m.p then some 1 else none) th th')
  ∧ (∀ i s g k t h m, s.cur = some g → leader k h g = some t → i.wellFormed = true →
    let b := s.begun i g
    matrixOf b g (s.begunCrew i g k) t i = some (h, m) →
    Passes s i h g k (s.priceAt g.core (m.op.price (s.groupImages g (m.ends.getD 0 ⟨0, true, none, (0, 0)⟩).n))) →
    MatOk b g k t i m → b.tilesAhead (quadOf g.core) k g.core m.op = false → (b.tilesTaken (quadOf g.core) k g.core m.op = true ∨ m.noTile = true) →
    let p : Point := { h := h, regs := inP g.mask m.p fun _ => false
                       sregs := fun key => if key = m.t.toNat then some 0xFFFFFFFF else none }
    p.Lands s g k → p.EffectIn b s i g k)

/-- R260, R263, R265, R266: BAR and PHASE arrive, and each member parks until the generation of its arrival has
opened; BARA arrives and goes on.
R260, R259: arrivals count once for each member, or once for the crew, and open nothing themselves; PHASE marks
the generation as publishing. -/
def Obligations.BarriersArrive : Prop :=
  (∀ i h o ph, barrierOf i = some (h, o, ph) → i.wellFormed = true → ∀ s g k wide b, Ready s i h g k →
    s.bar? k.id.block o.bid.toNat = some (wide, b) →
    let set := members g k h o
    let X := (s.begun i g).arriveAll g (s.begunCrew i g k) o ph (k.holding h g.mask)
    let gen := fun l => (tget Member.zero b.members (s.memberOf k wide o.cm l)).count + 1
    (i = .bara h o → (Result.none h).Lands s g k → (Result.none h).EffectIn X s i g k)
    ∧ (i ≠ .bara h o →
        let p : Point := { h := h, stay := maskFilter set fun l => decide (b.opened < gen l)
                           st := fun l => .parked (.barrier (barKey k wide o.bid.toNat) (gen l)) }
        p.Lands s g k → p.EffectIn X s i g k))
  ∧ (∀ (s : State) g k o ph (on : Mask) wide b, s.bar? k.id.block o.bid.toNat = some (wide, b) →
    (o.cm = true → g.mask ≠ 0) →
    let set := if o.cm then g.mask else on
    ∃ b', (s.arriveAll g k o ph on).bar? k.id.block o.bid.toNat = some (wide, b')
      ∧ b'.opened = b.opened ∧ b'.expected = b.expected ∧ b'.level = b.level
      ∧ (∀ l, set.getLsbD l = true → (tget Member.zero b'.members (s.memberOf k wide o.cm l)).count
          = (tget Member.zero b.members (s.memberOf k wide o.cm l)).count + 1
        ∧ (ph = true → (tget Member.zero b.members (s.memberOf k wide o.cm l)).count + 1 ∈ b'.pub))
      ∧ ∀ n, (∀ l, set.getLsbD l = true → s.memberOf k wide o.cm l ≠ n) →
          tget Member.zero b'.members n = tget Member.zero b.members n)

/-- R267, R268, R272: ATOM and ATRED on a window of element form whose lanes are in bounds and aligned pay one token
and queue one request; the lanes of ATOM park for their results, those of ATRED go on. -/
def Obligations.AtomicsQueue : Prop :=
  ∀ i h o ret, atomicOf i = some (h, o, ret) → i.wellFormed = true → ∀ s g k, Ready s i h g k →
    k.holding h g.mask ≠ 0 → (tget? s.launches k.id.launch).all (fun l => !l.record.images.contains o.n.toNat) = true →
    let b := s.begun i g
    let d := b.descOf g o.n.toNat
    b.entryFault g [(o.n.toNat, d.isGlobal && !d.gpl && decide (d.fmt = 0 ∨ d.fmt = 5 ∨ d.fmt = 6), [(o.c, d.dims)])]
      = none →
    (∀ x ∈ acting k (k.holding h g.mask), d.inBounds (x.2.coords o.c d.dims) = true
      ∧ d.bitPos (x.2.coords o.c d.dims) % 32 = 0) →
    Affords b g g.slot 1 →
    let e : CopyEnd := ⟨g.core, o.n.toNat, d, []⟩
    let r := mkReq s.serial (.atom ret o.d o.op.toNat o.ty.toNat o.rel
        ((acting k (k.holding h g.mask)).map fun (l, t) => ⟨l, t.coords o.c d.dims, t.reg o.a, t.reg o.b⟩) none)
      k g.slot g.pc e e none (lowLane (k.holding h g.mask)) (s.coreCycle g.core)
    let X := enqueued (paidBy b g 1) g [r]
    (ret = true →
      let p : Point := { h := h, stay := k.holding h g.mask, st := fun _ => .parked (.atomic s.serial) }
      p.Lands s g k → p.EffectIn X s i g k)
    ∧ (ret = false → (Result.none h).Lands s g k →
        Result.EffectIn { Result.none h with keep := payer b g 1 } X s i g k)

/-- R94, R81: SPAWN makes a record for each thread, or one for the crew, while the population of the launch is below
SPAWNMAX; P tells which were accepted. -/
def Obligations.SpawnRecords : Prop :=
  ∀ s h o g k, Ready s (.spawn h o) h g k →
    let b := s.begun (.spawn h o) g
    let room := spawnRoom b k
    (o.cf = false →
      let act := acting k (k.holding h g.mask)
      let r := alsoP (Result.none h) o.p fun l => (act.take room).any fun x => decide (x.1 = l)
      r.Lands s g k →
        r.EffectIn (spawned b g k ((act.take room).map fun x => spawnRec b g k o x.2)) s (.spawn h o) g k)
    ∧ (o.cf = true → ∀ t, leader k h g = some t →
      let p : Point := { h := h, regs := inP g.mask o.p fun _ => decide (0 < room) }
      p.Lands s g k →
        p.EffectIn (spawned b g k (if 0 < room then [spawnRec b g k o t] else [])) s (.spawn h o) g k)

/-- R95, R97, R332: JOIN acts on the counter that each thread names, LAUNCH appends a record for each thread; lanes act in
ascending order, and go on. Crews that append in one cycle do so in the order of their cores, then of their numbers. -/
def Obligations.JoinAndLaunch : Prop :=
  (∀ s h o g k, Ready s (.join h o) h g k → (Result.none h).Lands s g k →
    (Result.none h).EffectIn ((acting k (k.holding h g.mask)).foldl (fun s x =>
        let id := fun (t : Thread) => if o.self then t.jid.toNat else (t.reg o.a).toNat % 65536
        if o.arm then s.joinArm g k ((x.2.reg o.a).toNat % 65536) ((x.2.reg o.b).toNat % 65536)
        else s.joinOne g k (id x.2)) (s.begun (.join h o) g)) s (.join h o) g k)
  ∧ ∀ s h o g k, Ready s (.launch h o) h g k → (Result.none h).Lands s g k →
    (∀ x ∈ acting k (k.holding h g.mask), InOrder s g k ((s.context k.id.ctx).queue (x.2.reg o.q).toNat)) →
    (Result.none h).EffectIn ((acting k (k.holding h g.mask)).foldl (fun s x => s.launchOne g k x.2 o)
      (s.begun (.launch h o) g)) s (.launch h o) g k

/-- R84, R95: JOIN.ARM arms a counter at rest; an armed counter counts down; at 0 it comes to rest and its records enter
the front end in the order of their arrival; an id whose bits [15:14] are set, an ARM of an armed counter and an arrival
at one that rests are JOINERR; 0xFFFF names no counter.
R83, R84, R96: the threads of PARK whose guards hold retire, each leaving a record that goes on behind the instruction
with r0 to r3; the population of the launch stays. A record is held on an armed counter; at one that rests it is
enqueued, and that is JOINERR. Which front end takes such a record is the model's choice (log 33). -/
def Obligations.JoinAndPark : Prop :=
  (∀ (s : State) d i rs, ((s.die d).joins.map (·.1)).Pairwise (· < ·) → (s.joinAt d i).armed = true →
    (1 < (s.joinAt d i).count → (s.joinDec d i rs).joinAt d i
        = ⟨true, (s.joinAt d i).count - 1, (s.joinAt d i).held ++ rs⟩
      ∧ ((s.joinDec d i rs).die d).tasks = (s.die d).tasks)
    ∧ ((s.joinAt d i).count = 1 → (s.joinDec d i rs).joinAt d i = ⟨false, 0, []⟩
      ∧ tasksOf (s.joinDec d i rs) d = tasksOf s d ++ ((s.joinAt d i).held ++ rs).map fun t => (t.code, t.frame, t.jid)))
  ∧ (∀ (s : State) g k id n, id < 2 ^ 16 → let d := id / 4096
    let i := id % 4096
    (id = 0xFFFF → s.joinArm g k id n = s ∧ s.joinOne g k id = s)
    ∧ (2 ^ 14 ≤ id → id ≠ 0xFFFF → ∀ t ∈ [s.joinArm g k id n, s.joinOne g k id],
      t.dies = s.dies ∧ Reported s t g.core k g.slot 8 g.pc)
    ∧ (id < 2 ^ 14 → ((s.die d).joins.map (·.1)).Pairwise (· < ·) →
      ((s.joinAt d i).armed = true → s.joinOne g k id = s.joinDec d i []
        ∧ (s.joinArm g k id n).dies = s.dies ∧ Reported s (s.joinArm g k id n) g.core k g.slot 8 g.pc)
      ∧ ((s.joinAt d i).armed = false → (s.joinOne g k id).dies = s.dies
        ∧ Reported s (s.joinOne g k id) g.core k g.slot 8 g.pc
        ∧ (n = 0 → s.joinArm g k id n = s)
        ∧ (n ≠ 0 → (s.joinArm g k id n).joinAt d i = ⟨true, n, []⟩
          ∧ ∀ e j, (e, j) ≠ (d, i) → (s.joinArm g k id n).joinAt e j = s.joinAt e j))))
  ∧ (∀ (s : State) g k id r, let here := dieOf g.core
    tasksOf (s.parkOn g k none r) here = tasksOf s here ++ [(r.code, r.frame, r.jid)]
    ∧ s.parkOn g k (some 0xFFFF) r = s.parkOn g k none r
    ∧ (id < 2 ^ 16 → id ≠ 0xFFFF → let t := s.parkOn g k (some id) r
      (2 ^ 14 ≤ id → Reported s t g.core k g.slot 8 g.pc
        ∧ tasksOf t here = tasksOf s here ++ [(r.code, r.frame, r.jid)])
      ∧ (id < 2 ^ 14 → (s.joinAt (id / 4096) (id % 4096)).armed = true →
        t = s.joinDec (id / 4096) (id % 4096) [r])
      ∧ (id < 2 ^ 14 → (s.joinAt (id / 4096) (id % 4096)).armed = false →
        Reported s t g.core k g.slot 8 g.pc
        ∧ tasksOf t (id / 4096) = tasksOf s (id / 4096) ++ [(r.code, r.frame, r.jid)])))
  ∧ (∀ s h j a g k, Ready s (.park h j a) h g k → k.holding h g.mask ≠ 0 → NobodyWaits k →
    k.Clear (s.context k.id.ctx) (g.mask &&& ~~~k.holding h g.mask) (fun _ => g.next) →
    ∃ t k', exec (.park h j a) s = .next t ∧ t.crew? g.core g.slot = some k'
      ∧ (∀ l, (k.holding h g.mask).getLsbD l = true → ∃ th, k'.thread? l = some th ∧ th.st = .retired)
      ∧ (∀ l, g.mask.getLsbD l = false → k'.thread? l = k.thread? l)
      ∧ ((tget? t.launches k.id.launch).map (·.population)) = ((tget? s.launches k.id.launch).map (·.population))
      ∧ t.dies = ((acting k (k.holding h g.mask)).foldl (fun s x =>
          s.parkOn g k (if j then some ((x.2.reg a).toNat % 65536) else none) (parkRec s g k x.2))
        (s.begun (.park h j a) g)).dies)

/-- R97, R199, R331, R332: a record that may be appended is written to the slot of the queue's tail; a queue that is not
device-fed, an entry that is no window, a coordinate out of bounds and a malformed record give LQERR, a full queue gives
LQFULL, and each leaves the queue as it was; a record on a page without a translation waits in the copy unit. What is
malformed, and what the bytes past the window are, is the model's choice (log 72). -/
def Obligations.LaunchAppends : Prop :=
  ∀ (s : State) g k t o, s.MemWf → (tget? s.contexts k.id.ctx).isSome = true →
    let x := s.context k.id.ctx
    let qi := (t.reg o.q).toNat
    let q := x.queue qi
    let d := ((s.core g.core).entry k.id.ctx o.n.toNat).desc
    let c := t.coords o.c d.dims
    let off := d.bitPos c / 8
    let t' := s.launchOne g k t o
    let refused := fun cause => (t'.context k.id.ctx).queues = x.queues ∧ t'.globalMem = s.globalMem
      ∧ Reported s t' g.core k g.slot cause g.pc
    (x.ccb.nq ≤ qi ∨ q.devfed = false ∨ d.isGlobal = false ∨ d.inBounds c = false → refused 0x0A)
    ∧ (qi < x.ccb.nq → q.devfed = true → d.isGlobal = true → d.inBounds c = true →
        s.reachable g.core k.id.ctx d = true →
      let bs := s.recordBytes g.core k.id.ctx d c
      let slot := gaddr q.base (2048 * (q.tail % 2 ^ q.slog))
      (d.space ≠ 1 → d.gpl = false → ∀ i, i < 2048 → bs.getD i 0
        = if off + i < d.reach then Memory.read s.globalMem (gaddr d.handle (off + i)) else 0)
      ∧ (2 ≤ d.space → d.gpl = false → off < d.reach →
        (∃ a, x.allocs.find? (fun a => decide (a.handle = d.handle)) = some a ∧ off / 65536 ∈ a.unmapped) →
        (t'.context k.id.ctx).queues = x.queues ∧ t'.globalMem = s.globalMem
          ∧ ∃ r ∈ (t'.core g.core).reqs, r.kind = .launch qi o.dep ∧ r.src.desc = d ∧ r.src.coord = c)
      ∧ ((∀ a ∈ x.allocs, a.unmapped = []) →
        ((parseRecord (leNat bs)).fieldsOk x = false → refused 0x0A)
        ∧ ((parseRecord (leNat bs)).fieldsOk x = true →
          (2 ^ q.slog < ((q.tail + 1) % 2 ^ 16 + 2 ^ 16 - q.head) % 2 ^ 16 → refused 9)
          ∧ (((q.tail + 1) % 2 ^ 16 + 2 ^ 16 - q.head) % 2 ^ 16 ≤ 2 ^ q.slog → s.inMove slot 2048 = false →
              Apart s k.id.ctx qi slot 2048 →
            ((t'.context k.id.ctx).queue qi).tail = (q.tail + 1) % 2 ^ 16
            ∧ ∀ j, j < 2048 → Memory.read t'.globalMem (slot + j) = bs.getD j 0))))

/-- R15, R16, R23, R24: the decoder reads back every instruction that the encodings admit. -/
def Obligations.DecodeEncode : Prop :=
  ∀ i : Instr, i.hdr?.isSome = true → i.rsvdOk = true → decode true (encode i) = .ok i

/-- R15, R17, R24: each instruction has one encoding; no bit of it is dropped. -/
def Obligations.EncodeDecode : Prop :=
  ∀ priv g rest i, lenOf g ≠ 0 → rest.length = lenOf g → decode priv (g :: rest) = .ok i → encode i = g :: rest

/-- The encodings that the spec writes out stand for the instructions that it says. R34, R27: LEN and PRIV. -/
def Obligations.SpecWords : Prop :=
  (∀ p ∈ specWords, decode true p.1 = .ok p.2)
    ∧ decode true [0x00400001, 0x00000004] = .error .len
    ∧ decode false [0x006A0001, 0x00000004] = .error .priv

/-- R64: a step runs the instruction that stands at the group's PC, and an event that the agenda names takes
place; either is something done in the cycle, but for a doom, which comes first in it (R158). -/
def Obligations.StepRunsDecoded : Prop :=
  (∀ s c slot pc k m ts gs i, Offered s c slot pc k ts →
    (s.context k.id.ctx).fetch pc.toNat = .ok gs → decode (s.privAt k m) gs = .ok i →
    kindCheck k.id.vallot i = none → s.breaksAt ⟨c, slot⟩ k pc = false → (⟨c, slot⟩, pc) ∉ s.device.session.pass →
    let clsA := opcClassA (opcOf (gs.headD 0))
    portFree s c clsA → (issuers s c pc k clsA).head? = some (slot, m) →
    let g : Group := ⟨c, partsOf s c pc k clsA (i.regroups clsA) (privGroup gs), pc, 4 * gs.length, clsA, false, none⟩
    step s = exec i { offered s c ts with cur := some g, moved := true })
  ∧ ∀ s e ts, s.agenda = .event e :: ts → e.hdr? = none →
    ((∀ c, e ≠ .kaleDoom c) → step s = exec e { s with agenda := ts, moved := true })
    ∧ ∀ c, e = .kaleDoom c → step s = exec e { s with agenda := ts }

/-- R34 to R37: an instruction that cannot be fetched, or whose word starts no instruction, is not executed: the oldest
crew that stands there is killed. One that crosses its block, does not decode, or has operands of a wrong kind kills
every crew of its group. CERR has the cause and the address. -/
def Obligations.UndecodableKills : Prop :=
  ∀ s c slot pc k m ts, Offered s c slot pc k ts → s.cur = none →
    let x := s.context k.id.ctx
    (∀ cause a, x.fetch pc.toNat = .error (cause, a) → cause ≠ .cross →
      ((s.core c).crewsAt (s.coreCycle c) k.id.block pc fun t => t.isReady (s.coreCycle c)).head? = some (slot, m) →
      ∃ t, step s = .next t ∧ KilledIn t c slot ∧ Listed s t k cause (BitVec.ofNat 32 a)
        ∧ ((tget? s.contexts k.id.ctx).isSome = true → x.ccb.cerr.valid = false →
          (t.context k.id.ctx).ccb.cerr.crew = k.id.crewId))
    ∧ ∀ gs cause, let clsA := opcClassA (opcOf (gs.headD 0))
      portFree s c clsA → (issuers s c pc k clsA).head? = some (slot, m) →
      ((∀ a, x.fetch pc.toNat = .error (.cross, a) → gs = x.wordsAt pc → cause = .cross →
          ∃ t, step s = .next t ∧ Listed s t k cause pc
            ∧ ∀ p ∈ partsOf s c pc k clsA (wordRegroups gs) (privGroup gs), KilledIn t c p.1)
      ∧ (x.fetch pc.toNat = .ok gs → decode (s.privAt k m) gs = .error cause →
          ∃ t, step s = .next t ∧ Listed s t k cause pc
            ∧ ∀ p ∈ partsOf s c pc k clsA (wordRegroups gs) (privGroup gs), KilledIn t c p.1)
      ∧ ∀ i, x.fetch pc.toNat = .ok gs → decode (s.privAt k m) gs = .ok i → kindCheck k.id.vallot i = some cause →
          ∃ t, step s = .next t ∧ Listed s t k cause pc
            ∧ ∀ p ∈ partsOf s c pc k clsA (i.regroups clsA) (privGroup gs), KilledIn t c p.1)

/-- Every step keeps global memory and the cells of every core in canonical form: addresses rise strictly, and no
byte that reads 0 is listed. -/
def Obligations.MemoryKept : Prop :=
  ∀ s t, s.MemWf → step s = .next t → t.MemWf

/-- R153, R179, R180, R186, R61, R131, R207: what the machine is after reset. That memory reads 0 is the model's choice
(log 7), as is the READY stage (log 5). -/
def Obligations.ResetValues : Prop :=
  let s := State.reset
  s.MemWf ∧ (∀ a, Memory.read s.globalMem a = 0)
    ∧ (∀ c, (s.core c).cap.target = 64 ∧ (s.core c).cap.pinq = 16 ∧ (s.core c).cap.force = false
      ∧ (∀ b, (s.core c).bank b = .lit) ∧ (s.core c).tok.level = 0 ∧ (s.core c).tok.tkcap = 2047
      ∧ (∀ i, s.crew? c i = none) ∧ (∀ x n, ((s.core c).entry x n).desc.st = .free)
      ∧ ∀ i, ((s.core c).ticket i).st = .free)
    ∧ (∀ q, (s.quad q).wave = 16 ∧ (s.quad q).slope = 8 ∧ (s.quad q).table = [])
    ∧ (∀ d, (s.die d).inj = 286 ∧ (s.die d).tasks = [] ∧ ∀ f ∈ (s.die d).flits, f.tok = 0 ∧ f.cv = false)
    ∧ ∀ i, (s.context i).queues = [] ∧ (s.context i).ccb.cerr.valid = false ∧ (s.context i).ccb.quant = 3
        ∧ (s.context i).ccb.wdlog = 26

/-- R29, R97: no instruction but LAUNCH, which appends to a queue, changes a byte of global memory or of the cells as it
issues. -/
def Obligations.MemoryFrame : Prop :=
  ∀ i s t, i.hdr?.isSome = true → storing i = false → exec i s = .next t →
    (∀ a, Memory.read t.globalMem a = Memory.read s.globalMem a)
    ∧ ∀ c a, Memory.read (t.core c).cells a = Memory.read (s.core c).cells a

/-- R43, R45, R46, R49, R50: an exact nonzero value is rounded to the point of the grid that the mode names, NX telling
whether it is another value; past the largest finite value overflow follows; a tiny value is flushed under FTZ, and
raises UF where it is inexact. -/
def Obligations.Rounding : Prop :=
  ∀ f ∈ [F32, F16, BF16, E4M3, E5M2], ∀ mode ftz sat (x e : Int), x ≠ 0 →
    Delivers f mode ftz sat x e (roundNZ f mode ftz sat (decide (x < 0)) x.natAbs e)

/-- R48 to R50, R110, R113: sums, products and fused sums on numbers, zeros, infinities and NaNs, under FTZ; FMIN, FMAX,
FNEG, FABS, FSET, FCLASS and FSCALEB. R45 to R47, R114, R116: CVT between all formats, and QNT. R54: the special values
and exact cases of the approximated functions, NX of their other results, and the bound of FRCP. -/
def Obligations.FloatFunctions : Prop :=
  (∀ f ∈ [F32, F16, BF16], ∀ mode z a b d, a < 2 ^ f.width → b < 2 ^ f.width → d < 2 ^ f.width →
    let x := taken f z a
    let y := taken f z b
    let w := taken f z d
    IsSum f mode z x y (fadd f mode z a b)
    ∧ fsub f mode z a b = fadd f mode z a (if negative f b then b - f.sbit else b + f.sbit)
    ∧ IsProduct f f mode z false x y (fmul f mode z a b)
    ∧ IsFused f mode z x y w (ffma f mode z a b d)
    ∧ (∀ isMax, let r := minmax f isMax z a b
      Signals f [x, y] r.flags
      ∧ (IsNaN f x → IsNaN f y → r.bits = f.nan) ∧ (IsNaN f x → ¬ IsNaN f y → r.bits = y)
      ∧ (¬ IsNaN f x → IsNaN f y → r.bits = x)
      ∧ (¬ IsNaN f x → ¬ IsNaN f y → r.bits = if decide (place f x ≤ place f y) != isMax then x else y))
    ∧ ((IsNaN f x ∨ IsNaN f y) → ∀ c, (fset f c z a b).1 = decide (c = 1) ∧ Signals f [x, y] (fset f c z a b).2)
    ∧ (¬ IsNaN f x → ¬ IsNaN f y → ∀ c, fset f c z a b = (relation c (rank f x) (rank f y), 0)))
  ∧ (∀ z a, a < 2 ^ 32 →
    let x := taken F32 z a
    (∀ neg, let r := negAbs F32 neg z a
      (IsNaN F32 x → r.bits = F32.nan ∧ Signals F32 [x] r.flags)
      ∧ (¬ IsNaN F32 x → r = ⟨mag F32 x + zero F32 (neg && !negative F32 x), 0⟩))
    ∧ (let c := fclass F32 z a
      let n := negative F32 x
      (IsSignalling F32 x → c = 2 ^ 8) ∧ (IsNaN F32 x → ¬ IsSignalling F32 x → c = 2 ^ 9)
      ∧ (IsInf F32 x → c = if n then 2 ^ 0 else 2 ^ 7)
      ∧ (2 ^ 23 ≤ mag F32 x → IsFin F32 x → c = if n then 2 ^ 1 else 2 ^ 6)
      ∧ (0 < mag F32 x → mag F32 x < 2 ^ 23 → c = if n then 2 ^ 2 else 2 ^ 5)
      ∧ (mag F32 x = 0 → c = if n then 2 ^ 3 else 2 ^ 4))
    ∧ ∀ b : Word, let r := fscaleb z a b.toInt
      NaNRule F32 F32 [x] r ∧ (IsInf F32 x → r = ⟨infinity F32 (negative F32 x), 0⟩)
      ∧ (mag F32 x = 0 → r = ⟨zero F32 (negative F32 x), 0⟩)
      ∧ (IsFin F32 x → mag F32 x ≠ 0 → Delivers F32 .rn z false (fnum F32 x) (F32.qmin + b.toInt) r))
  ∧ (∀ src dst mode z, src ≤ 4 → dst ≤ 4 → ∀ sat a, a < 2 ^ fmtWidth src →
    let f := ffmtOf src
    let g := ffmtOf dst
    let x := taken f z a
    let n := negative f x
    let r := cvt src dst mode sat z a
    NaNRule f g [x] r
    ∧ (IsInf f x → r = ⟨if sat then zero g n + g.maxBits else if g = E4M3 then 0x7F else infinity g n, 0⟩)
    ∧ (mag f x = 0 → r = ⟨zero g n, 0⟩)
    ∧ (IsFin f x → mag f x ≠ 0 → Delivers g mode z sat (fnum f x) f.qmin r))
  ∧ (∀ src dst mode z, src ≤ 4 → 5 ≤ dst → dst ≤ 9 → ∀ a, a < 2 ^ fmtWidth src →
    let f := ffmtOf src
    let x := taken f z a
    let lo := (intRange dst).1
    let hi := (intRange dst).2
    let r := cvt src dst mode false z a
    (IsNaN f x → r = ⟨0, NV⟩) ∧ (IsInf f x → r = ⟨intCode dst (if negative f x then lo else hi), NV⟩)
    ∧ (IsFin f x → ∃ v, roundsToInt mode (fnum f x) (2 ^ (-f.qmin).toNat) v
      ∧ (v < lo → r = ⟨intCode dst lo, NV⟩) ∧ (hi < v → r = ⟨intCode dst hi, NV⟩)
      ∧ (lo ≤ v → v ≤ hi → r = ⟨intCode dst v, if v * 2 ^ (-f.qmin).toNat = fnum f x then 0 else NX⟩)))
  ∧ (∀ src dst mode z, 5 ≤ src → src ≤ 9 → ∀ a, a < 2 ^ fmtWidth src →
    (dst ≤ 4 → (intOf src a = 0 → cvt src dst mode false z a = ⟨0, 0⟩)
      ∧ (intOf src a ≠ 0 → Delivers (ffmtOf dst) mode z false (intOf src a) 0 (cvt src dst mode false z a)))
    ∧ (5 ≤ dst → dst ≤ 9 → cvt src dst mode false z a = ⟨intCode dst (intOf src a), 0⟩
      ∧ cvt src dst mode true z a
        = ⟨intCode dst (max (intRange dst).1 (min (intRange dst).2 (intOf src a))), 0⟩))
  ∧ (∀ g ∈ [E4M3, E5M2], ∀ sat z a b, a < 2 ^ 32 → b < 2 ^ 32 →
    IsProduct F32 g .rn z sat (taken F32 z a) (taken F32 z b) (qnt g sat z a b))
  ∧ ∀ z a, a < 2 ^ 32 →
    let x := taken F32 z a
    let n := negative F32 x
    let at0 := mag F32 x = 0
    let below := n = true ∧ mag F32 x ≠ 0 ∧ ¬ IsNaN F32 x
    let inf := F32.infBits
    let one := 0x3F800000
    let r := fun fn => approxF fn z a
    (∀ fn, NaNRule F32 F32 [x] (r fn))
    ∧ (at0 → r .rcp = ⟨infinity F32 n, DZ⟩ ∧ r .rsq = ⟨infinity F32 n, DZ⟩ ∧ r .log2 = ⟨infinity F32 true, DZ⟩
      ∧ r .exp2 = ⟨one, 0⟩ ∧ r .tanh = ⟨zero F32 n, 0⟩)
    ∧ (IsInf F32 x → r .rcp = ⟨zero F32 n, 0⟩ ∧ r .exp2 = ⟨if n then 0 else inf, 0⟩ ∧ r .tanh = ⟨zero F32 n + one, 0⟩
      ∧ (n = false → r .rsq = ⟨0, 0⟩ ∧ r .log2 = ⟨inf, 0⟩))
    ∧ (below → r .rsq = ⟨F32.nan, NV⟩ ∧ r .log2 = ⟨F32.nan, NV⟩)
    ∧ (∀ i, IsPower x i →
      (-127 ≤ i → i ≤ 126 → r .rcp = ⟨zero F32 n + powerBits (-i), 0⟩)
      ∧ (n = false → i % 2 = 0 → r .rsq = ⟨powerBits (-(i / 2)), 0⟩)
      ∧ (n = false → (r .log2).flags = 0 ∧ fnum F32 (r .log2).bits = i * 2 ^ 149 ∧ (i = 0 → (r .log2).bits = 0)))
    ∧ (∀ i : Int, IsFin F32 x → fnum F32 x = i * 2 ^ 149 →
      (-126 ≤ i → i ≤ 127 → r .exp2 = ⟨powerBits i, 0⟩) ∧ (128 ≤ i → r .exp2 = ⟨inf, OF ||| NX⟩))
    ∧ (IsFin F32 x → mag F32 x ≠ 0 → (r .tanh).flags &&& NX = NX
      ∧ ((∀ i, IsPower x i → i < -127 ∨ 126 < i) → (r .rcp).flags &&& NX = NX)
      ∧ ((∀ i, IsPower x i → i % 2 ≠ 0) → n = false → (r .rsq).flags &&& NX = NX)
      ∧ ((∀ i, ¬ IsPower x i) → n = false → (r .log2).flags &&& NX = NX)
      ∧ ((∀ i : Int, fnum F32 x = i * 2 ^ 149 → i < -126 ∨ 127 < i) → (r .exp2).flags &&& NX = NX))
    ∧ ∀ E : Int, -126 ≤ E → E ≤ 126 →
      2 ^ (E + 150).toNat * grid F32 (mag F32 x) ≤ 2 ^ 299 → 2 ^ 299 < 2 ^ (E + 151).toNat * grid F32 (mag F32 x) →
      negative F32 (r .rcp).bits = n
        ∧ ((grid F32 (mag F32 (r .rcp).bits) : Int) * grid F32 (mag F32 x) - 2 ^ 298).natAbs
          ≤ 2 ^ (E + 126).toNat * grid F32 (mag F32 x)

/-- R73: at the loop end of the innermost level its counter is decremented; the threads that have not broken out go
on at START while the counter is not 0, and otherwise the level closes and all go on at END, or wait there where an
outer level ends too. -/
def Obligations.LoopEnds : Prop :=
  ∀ s r k ls v, s.crew? r.core r.slot = some k → Lanes k → AtEnd k ls v →
    let d := ls.length
    let c := k.loops.lc.getD d 0 - 1
    let stays := fun l t => (k.levelSet v).getLsbD l = true ∧ k.thread? l = some t ∧ t.broken = false
    (c ≠ 0 → (∃ l t, stays l t) → CrewEvent (.loopEnd r) s r fun k' =>
      Stays k k' ∧ k'.trap = k.trap ∧ k'.counts = k.counts
        ∧ k'.loops = ⟨k.loops.lc.set d c, k.loops.levels, k.loops.buffer⟩
        ∧ (∀ l t, stays l t → ∃ t', k'.thread? l = some t' ∧ Completed k.sregs t t' v.start)
        ∧ ∀ l, (∀ t, ¬ stays l t) → k'.thread? l = k.thread? l)
    ∧ ((c = 0 ∨ ∀ l t, ¬ stays l t) → CrewEvent (.loopEnd r) s r fun k' =>
      Stays k k' ∧ k'.trap = k.trap ∧ k'.counts = k.counts ∧ k'.loops.lc = k.loops.lc.set d 0 ∧ k'.loops.levels = ls
        ∧ (∀ l, (k.levelSet v).getLsbD l = false → k'.thread? l = k.thread? l)
        ∧ ∀ l t, (k.levelSet v).getLsbD l = true → k.thread? l = some t → ∃ t', k'.thread? l = some t'
          ∧ t'.st = (if ls.getLast?.any fun w => decide (w.stop = v.stop) && w.inHandler == v.inHandler then .loopEnd
              else .ready)
          ∧ t'.pc = v.stop ∧ t'.broken = false ∧ Settled k.sregs (fun _ => none) t t')

/-- R93, R186, R168, R31, R364: the threads of SLEEPT whose deadline TICK has reached, the threads of a barrier whose
wave has come, and a WAITCAP at its deadline or whose turn has come go on; a claim lasts until its instant.
R63, R77: a thread that has been READY for 256 cycles is promoted; a crew that has retired nothing for 2^WDLOG of
its core's cycles is reported, and its count begins again. -/
def Obligations.CrewTimers : Prop :=
  (∀ s r k, s.crew? r.core r.slot = some k → Lanes k →
    let x := s.context k.id.ctx
    let now := s.coreTick r.core
    let slept := waiting k fun st => match st with
      | .sleeping d => decide (d ≤ now)
      | _ => false
    let waved := waiting k fun st => match st with
      | .parked (.wave t) => decide (t ≤ s.coreCycle r.core)
      | _ => false
    let capped := waiting k fun st => match st with
      | .parked (.cap _ _ _ _) => true
      | _ => false
    (slept ≠ 0 → NoLoopEnd x slept k →
      CrewEvent (.sleepWake r) s r (Woken x slept (fun _ => none) k.claim k))
    ∧ (waved ≠ 0 → NoLoopEnd x waved k →
      CrewEvent (.waveRelease r) s r (Woken x waved (fun _ => none) k.claim k))
    ∧ (∀ n rank p d, k.capWait = some (n, rank, p, some d) → d ≤ now → NoLoopEnd x capped k →
      CrewEvent (.waitcapDeadline r) s r
        (Woken x capped (fun key => if key = pKey p then some 0 else none) k.claim k))
    ∧ (∀ n rank p d, k.capWait = some (n, rank, p, d) → s.nextCap r.core = some (r.slot, n, p) →
      NoLoopEnd x capped k →
      CrewEvent (.waitcapWake r) s r
        (Woken x capped (fun key => if key = pKey p then some 1 else none) (some ⟨n, now + 1000⟩) k))
    ∧ ∀ c, k.claim = some c → c.expires ≤ now →
      exec (.claimExpiry r) s = .next (s.modCrew r.core r.slot fun k => { k with claim := none }))
  ∧ (∀ s r k, s.crew? r.core r.slot = some k →
    (∀ l t, k.st = .run → k.evict = none → k.thread? l = some t → t.isReady (s.coreCycle r.core) = true →
      t.promoted = false → t.since + 256 ≤ s.coreCycle r.core →
      ∃ t' k', exec (.threadPromotion r l) s = .next t' ∧ t'.crew? r.core r.slot = some k'
        ∧ k'.thread? l = some { t with promoted := true } ∧ (∀ l', l' ≠ l → k'.thread? l' = k.thread? l')
        ∧ k'.st = k.st ∧ k'.id = k.id ∧ ∀ slot, slot ≠ r.slot → t'.crew? r.core slot = s.crew? r.core slot)
    ∧ (k.st ≠ .held → k.counts.wdBase + 2 ^ (s.context k.id.ctx).ccb.wdlog ≤ s.coreCycle r.core →
      let n : Counts := { k.counts with wdBase := s.coreCycle r.core }
      ∃ t', exec (.watchdog r) s = .next t' ∧ t'.crew? r.core r.slot = some { k with counts := n }
        ∧ Reported s t' r.core k r.slot 5 (((k.thread? (lowLane k.live)).map (·.pc)).getD 0)))

/-- R59 to R61, R145, R221: a block is placed with its crews in PROLOGUE; its bindings are begun one by one, a request on
every core whose entries are LIVE; then all its crews become runnable in one cycle, and the entries that a binding has
filled are FULL.
R82, R83: a bin that holds 64 eligible records, or whose oldest has waited 2,000 of TICK in it, gives a spawned
crew, which runs at once. -/
def Obligations.BlocksAndTasksStart : Prop :=
  ((∀ s e l xs, s.placing e = some (l, xs) → ∃ t b, exec (.blockPlacement e) s = .next t
    ∧ tget? t.blocks s.serial = some b ∧ b.launch = e.launch ∧ b.index = e.block
    ∧ b.xyz = xyzOfIndex l.record.grid e.block ∧ b.cores = e.cores ∧ b.left = l.record.crews ∧ b.started = false
    ∧ b.crews.length = l.record.crews
    ∧ (∀ r ∈ b.crews, r.core ∈ e.cores ∧ ∃ k, t.crew? r.core r.slot = some k ∧ Placed s e l k)
    ∧ (tget? t.launches e.launch).map (·.waiting) = some (l.waiting.drop 1))
  ∧ (∀ s block b, tget? s.blocks block = some b → s.bindNext block = true →
    let w := (s.bindsOf b).getD b.nextBind 0
    ∃ t, exec (.prologueBinding block) s = .next t
      ∧ (tget? t.blocks block) = some { b with nextBind := b.nextBind + 1 }
      ∧ ∀ c ∈ b.cores, ∀ r k, b.crews.find? (fun r => decide (r.core = c)) = some r → s.crew? c r.slot = some k →
        ((s.core c).entry k.id.ctx (bindDst w)).desc.st = .live → ((s.core c).entry k.id.ctx (bindSrc w)).desc.st = .live →
        ∃ q ∈ (t.core c).reqs, q.kind = .binding (bindWord w) (bindScale w) ∧ q.block = block ∧ q.slot = r.slot
          ∧ q.src.entry = bindSrc w ∧ q.dst.entry = bindDst w)
  ∧ ∀ s block b, tget? s.blocks block = some b → s.canStart block = true →
    ∃ t, exec (.crewStart block) s = .next t ∧ (tget? t.blocks block) = some { b with started := true }
      ∧ (∀ r ∈ b.crews, ∀ k n, s.crew? r.core r.slot = some k → (r.core, n) ∈ b.bound →
        ((s.core r.core).entry k.id.ctx n).desc.st = .live → ((t.core r.core).entry k.id.ctx n).desc.full = true)
      ∧ ∀ r ∈ b.crews, ∀ k, s.crew? r.core r.slot = some k → ∃ k', t.crew? r.core r.slot = some k'
        ∧ k'.st = .run ∧ k'.id = k.id ∧ k'.sregs = k.sregs ∧ k'.counts = k.counts
        ∧ ∀ l th, k.thread? l = some th → k'.thread? l = some { th with
            nextA := s.coreCycle r.core, nextB := s.coreCycle r.core, since := s.coreCycle r.core })
  ∧ (∀ s e r l, (s.inBin e.die e.bin).head? = some r → s.taskRoom e r = true → tget? s.launches r.launch = some l →
    (64 ≤ (s.inBin e.die e.bin).length → TasksFormed (.taskCrewForm e) s e (s.inBin e.die e.bin) l)
    ∧ ∀ t, r.binned = some t → t + 2000 ≤ s.tick → TasksFormed (.taskBinTimeout e) s e (s.inBin e.die e.bin) l)

/-- R78, R79, R81, R130, R162, R257, R336: the slot of a HELD crew with nothing in flight becomes FREE; a block whose last crew
comes to this publishes its deferred writes, and when every one has landed its entries and slots are free (entries that
are LOSING stay until they are lost) and its launch counts it; a launch with nothing left to do completes, its backing
region is released and its record is written. -/
def Obligations.CrewsAndBlocksEnd : Prop :=
  (∀ s r k b, s.crew? r.core r.slot = some k → Sorted (s.core r.core).slots → k.st = .held →
    s.engineBusy r.core r.slot k = false → tget? s.blocks k.id.block = some b → 1 < b.left →
    ∃ t, exec (.crewRelease r) s = .next t ∧ t.crew? r.core r.slot = none
      ∧ (∀ slot, slot ≠ r.slot → t.crew? r.core slot = s.crew? r.core slot)
      ∧ (tget? t.blocks k.id.block).map (·.left) = some (b.left - 1))
  ∧ (∀ s block b, tget? s.blocks block = some b → s.blockOver block = true →
    (b.publishing = false → (∃ c, ∃ r ∈ (s.core c).reqs, r.block = block ∧ r.deferred = true) →
      ∃ t, exec (.blockComplete block) s = .next t ∧ tget? t.blocks block = some { b with publishing := true }
        ∧ ∀ c, (t.core c).slots = (s.core c).slots ∧ (t.core c).layout = (s.core c).layout
          ∧ ∀ r ∈ (t.core c).reqs, ¬ Unpublished block r)
    ∧ ((∀ p ∈ s.cores, ∀ r ∈ p.2.reqs, r.block = block → r.deferred = false) → Sorted s.blocks → (∀ c, Sorted (s.core c).slots) →
      ∃ t, exec (.blockComplete block) s = .next t ∧ tget? t.blocks block = none
        ∧ (∀ r ∈ b.crews, t.crew? r.core r.slot = none)
        ∧ (∀ c ∈ b.cores, ∀ p ∈ (t.core c).layout, p.2.owner = .block block →
          p.2.cleared = true ∧ (p.2.desc.st = .losing ∨ p.2.doomed = true))
        ∧ ∀ l, tget? s.launches b.launch = some l → ∃ l', tget? t.launches b.launch = some l'
          ∧ l'.done = (if b.spawned then l.done else l.done + 1)
          ∧ l'.spawned = (if b.spawned then l.spawned - 1 else l.spawned)))
  ∧ ∀ s n l, tget? s.launches n = some l → l.isOver = true → s.MemWf →
    ∃ t, exec (.launchComplete n) s = .next t ∧ (tget? t.launches n).map (·.completed) = some true
      ∧ t.device.frames.free = s.device.frames.free ++ l.frames.map (fun f => (2, f))
      ∧ (l.record.cmpl ≠ 0 → s.inMove (gaddr l.record.cmpl 0) 32 = false →
        (∀ q, l.queue = some q → Apart s l.ctx q (gaddr l.record.cmpl 0) 32) →
        leNat (Memory.readN t.globalMem (gaddr l.record.cmpl 0) 32)
        = (l.status + 2 ^ 8 * l.detail + 2 ^ 32 * l.record.lid.toNat + 2 ^ 64 * (s.tick % 2 ^ 64)
          + 2 ^ 128 * (l.done % 2 ^ 32)) % 2 ^ 256)
      ∧ ∀ c, ∀ p ∈ (t.core c).layout, p.2.owner = .launch n →
        p.2.cleared = true ∧ (p.2.desc.st = .losing ∨ p.2.doomed = true)

/-- R179, R181, R182, R180: a die fills the flit at its stop 0 once in a fabric cycle, while it is ACTIVE; a core takes
from the flit at its stop what it demands, if the flit is not claimed by another core, and pays every demand that the
head rule allows; a head that has waited 130 cycles claims a flit; a party whose demand has waited 64 core cycles is
hungry; a write of TKCAP discards what is above it.
R188 to R190: a request for a point outside the limits is denied and logged; another makes the quad go to the
fastest point of its frequency, at once where that is no faster than its own. The control loop reads the mailboxes and
writes points, targets and injections; the stall counters are copied and start again. -/
def Obligations.TokensAndPoints : Prop :=
  ((∀ (s : State) d f fs, d < 4 → (s.die d).flits = f :: fs → s.device.power.state = .active →
    (s.die d).injAt ≠ s.cycle + 1 → ∃ t, exec (.tokenInjection d) s = .next t
      ∧ (t.die d).flits = { f with tok := min 4095 (f.tok + max (s.die d).inj 36) } :: fs
      ∧ t.cores = s.cores ∧ ∀ d', d' ≠ d → t.die d' = s.die d')
  ∧ (∀ (s : State) d, (s.device.power.state ≠ .active ∨ (s.die d).injAt = s.cycle + 1) →
    exec (.tokenInjection d) s = .next s)
  ∧ (∀ s c, c < 256 → (s.core c).tok.takeAt ≠ s.cycle + 1 → c % 64 + 1 < (s.die (dieOf c)).flits.length →
    let f := s.flitAt c
    let take := if f.cv = false ∨ f.cid = c % 64 then min f.tok (ringDemand (s.core c)) else 0
    ∃ t, exec (.tokenTake c) s = .next t ∧ (t.flitAt c).tok = f.tok - take ∧ (t.core c).nextPaid = none
      ∧ ((s.core c).demands = [] → (t.core c).tok.level = (s.core c).tok.level + take
        ∧ (t.flitAt c).cv = (f.cv && decide (f.cid ≠ c % 64))))
  ∧ (∀ s c d, c < 256 → c % 64 + 1 < (s.die (dieOf c)).flits.length → (s.flitAt c).cv = false →
    (s.core c).tok.holds = false → 130 ≤ (s.core c).tok.headWait → (s.core c).head? = some d →
    ∃ t, exec (.ringClaim c) s = .next t
      ∧ t.flitAt c = { s.flitAt c with cid := c % 64, cv := true }
      ∧ (t.core c).tok = { (s.core c).tok with
          holds := true, claimFor := some d.kind, claims := (s.core c).tok.claims + 1 })
  ∧ (∀ s c d, c < 256 → d ∈ (s.core c).presented → d.hungry = none → d.since + 64 ≤ s.coreCycle c →
    ∃ t, exec (.partyHungry c) s = .next t
      ∧ (∀ e ∈ (t.core c).demands, e.kind = d.kind → e.hungry = some (s.coreCycle c))
      ∧ ∀ k, s.crew? c d.party = some k → ∃ k', t.crew? c d.party = some k' ∧ k'.hungry = true
        ∧ k'.counts = (k.addCntr 3 1).counts)
  ∧ ∀ s c v, c < 256 → v < 4096 → ∃ t, exec (.tkcapWrite c v) s = .next t ∧ (t.core c).tok.tkcap = v
    ∧ ((s.core c).demands = [] → (s.core c).tok.head = none → (t.core c).tok = { (s.core c).tok with
        tkcap := v, level := min (s.core c).tok.level v }))
  ∧ ((∀ s (e : PointEv), e.quad < 64 →
    ((e.mV < 550 ∨ 950 < e.mV ∨ e.freq < 400 ∨ 1050 < e.freq ∨ freqs.getD (fastest volts e.mV) 0 < e.freq) →
      ∃ t, exec (.operatingPointChange e) s = .next t ∧ t.quads = s.quads ∧ t.cores = s.cores
        ∧ t.device.power.denied = s.device.power.denied ++ [e])
    ∧ (550 ≤ e.mV → e.mV ≤ 950 → 400 ≤ e.freq → e.freq ≤ freqs.getD (fastest volts e.mV) 0 →
      ∃ t, exec (.operatingPointChange e) s = .next t ∧ (t.quad e.quad).want = fastest freqs e.freq
        ∧ t.device.power.denied = s.device.power.denied
        ∧ ((s.quad e.quad).op ≤ fastest freqs e.freq → (t.quad e.quad).op = fastest freqs e.freq)))
  ∧ (∀ s ws, ∃ t, exec (.controlLoop ws) s = .next t ∧ ∀ q, (t.quad q).mailbox = [])
  ∧ (∀ s d v, d < 4 → v < 4096 → ∃ t, exec (.controlLoop [.inj d v]) s = .next t ∧ (t.die d).inj = v
    ∧ ∀ d', d' ≠ d → t.die d' = s.die d')
  ∧ (∀ s c v, c < 256 → v ≤ 64 → ∃ t, exec (.controlLoop [.target c v]) s = .next t
    ∧ (t.core c).cap.target = if (s.core c).cap.force then (s.core c).cap.target else v)
  ∧ ∀ s q, q < 64 → (s.quad q).snapAt + 10000 ≤ s.tick →
    ∃ t, exec (.stallCounterSnapshot q) s = .next t ∧ t.quad q = { s.quad q with
      snapshot := (s.quad q).stall, stall := ⟨0, 0, 0, 0, 0⟩, snapAt := s.tick })

/-- R232, R234, R235, R42: a pass on an integer format gives in cell (i, j) the sum over k of A's element kept to its
planes times B's, modulo 2^32; on E4M3 and E5M2 without specials, the exact sum of the products rounded once to F32. -/
def Obligations.PassSums : Prop :=
  ∀ fa fb q a (b : Tab Word) i j, Sorted b → a.length = 128 → (∀ r ∈ a, r.length = matK fa) → i < 128 → j < 128 →
    let A := fun x => (a.getD i []).getD x 0
    let B := fun x => (tget 0 b (128 * x + j)).toNat
    ((fa = 7 ∨ fa = 9) → fb = fa → tget 0 (passTile fa fb q a b []) (128 * i + j)
      = BitVec.ofInt 32 (sumTo (fun x => kept fa q (A x) * intVal fb (B x)) (matK fa)))
    ∧ ((fa = 3 ∨ fa = 4) → (fb = 3 ∨ fb = 4) →
        (∀ x, x < matK fa → special (mElem fa q (A x)).w (mElem fb 64 (B x)).w = .none) →
        let sum := sumTo (fun x => (mElem fa q (A x)).v * (mElem fb 64 (B x)).v) (matK fa)
        tget 0 (passTile fa fb q a b []) (128 * i + j)
          = BitVec.ofNat 32 (roundF F32 .rn false (decide (sum < 0)) sum.natAbs (unitExp fa + unitExp fb) false).bits)

/-- R224, R227, R228, R231, R233, R241, R242, R249: the loader reads B; the gather unit builds B from the CSR entries,
whose error ends the request FAULT; the arbiter grants a request, which computes then; at its end an array operation
writes its tile and a drain its elements, and the ticket is DONE; a bank spills to the save area and fills from it; a
reset takes requests out of the table. -/
def Obligations.MatrixEngine : Prop :=
  (∀ s q r fa fb bt kb ps p, s.loadable q = some r → r.op = .mma fa fb bt kb ps p →
    ∃ t, exec (.bTileLoad q) s = .next t ∧ inTable t q r.serial ≠ [] ∧ ∀ x ∈ inTable t q r.serial, x.loadStart = some (s.quadCycle q)
      ∧ ∃ b, x.bTile = some b ∧ ∀ i j, i < matK fa → j < 128 → tget 0 b (128 * i + j)
        = BitVec.ofNat 32 (if bt then boxElem s r (r.opEnd 1) j i else boxElem s r (r.opEnd 1) i j))
  ∧ (∀ s q r fa fb ps p k0 j0, s.gatherable q = some r → r.op = .mmas fa fb ps p k0 j0 → quadOf r.core = q →
    ((s.core r.core).ticket r.ticket).st.ended = false →
    let got := gatherTile (matK fa) k0 j0 (s.vecAt r (r.opEnd 3)) (s.vecAt r (r.opEnd 2)) (s.vecAt r (r.opEnd 1))
    (∀ b, got = some b → ∃ t, exec (.mmasGather q) s = .next t ∧ inTable t q r.serial ≠ []
      ∧ ∀ x ∈ inTable t q r.serial, x.bTile = some b ∧ x.skipped = zeroChunks fb (matK fa) b)
    ∧ (got = none → ∃ t, exec (.mmasGather q) s = .next t ∧ MatEnded t q r .fault
      ∧ ∃ f ∈ (t.core r.core).openRecs ++ (t.core r.core).waiting, f.cause = 7 ∧ f.pc = r.pc ∧ f.ctx = r.ctx
        ∧ f.lid = lidOf s r.launch))
  ∧ (∀ s q r, s.nextGrant q = some r → r.kbOf = none → ∃ t, exec (.matrixGrant q) s = .next t
    ∧ ((t.core r.core).ticket r.ticket).st = .run ∧ inTable t q r.serial ≠ []
    ∧ ∀ x ∈ inTable t q r.serial, x.st = .granted (s.quadCycle q + r.cycles (s.quadCycle q))
      ∧ (x.values, x.valuesInt) = s.matValues q { r with bTile := some (r.bTile.getD (s.readB r)) })
  ∧ (∀ s q r n isInt, s.finished q false = some r → r.op.writes = some (n, isInt) →
    ((s.quad q).bankAt? r.ctx).isSome = true → OnQuad s q r.ctx → ((s.core r.core).ticket r.ticket).st.ended = false →
    ∃ t, exec (.matrixOpComplete q false) s = .next t ∧ MatEnded t q r .done
      ∧ ((t.tilesOf q r.ctx).tile n).vals = r.values ∧ ((t.tilesOf q r.ctx).tile n).isInt = r.valuesInt
      ∧ ∀ m, m ≠ n → (t.tilesOf q r.ctx).tile m = (s.tilesOf q r.ctx).tile m)
  ∧ (∀ s q r, s.finished q true = some r → s.reachable r.core r.ctx (r.opEnd 0).desc = true → r.seqNo = none →
    r.image = 0 → ((s.core r.core).ticket r.ticket).st.ended = false →
    let p := s.port r.core r.ctx (r.opEnd 0).desc
    ∃ t, exec (.matrixOpComplete q true) s = .next t ∧ MatEnded t q r .done
      ∧ t.memOf p t.globalMem
        = r.drained.foldl (fun m x => r.landElem p m x.1 x.2) (s.memOf p s.globalMem))
  ∧ (∀ s q i, (s.quad q).spilled i = none → (s.quad q).mustSpill i = true →
    ∃ t c b, exec (.bankSpill q i) s = .next t ∧ (s.quad q).banks[i]? = some b ∧ b.use = .bound c
      ∧ (t.quad q).banks[i]? = some { b with use := .spilling c })
  ∧ (∀ s q i c b, (s.quad q).spilled i = some (c, b) → (tget? s.contexts c).isSome = true →
    ∃ t, exec (.bankSpill q i) s = .next t ∧ tget? (t.context c).savedTiles q = some { b with use := .free }
      ∧ ((s.quad q).waiter = none → (∀ r ∈ (s.quad q).table, r.ctx ≠ c) → (t.quad q).banks[i]? = some TileBank.reset)
      ∧ ∀ w, (s.quad q).waiter = some w → ∃ x ∈ (t.quad q).banks, x.use.names w = true)
  ∧ (∀ s q i c b, (s.quad q).banks[i]? = some b → b.use = .filling c → (∃ r ∈ (s.quad q).table, r.ctx = c) →
    let saved := tget TileBank.reset (s.context c).savedTiles q
    ∃ t, exec (.bankFill q i) s = .next t
      ∧ (t.quad q).banks[i]? = some { saved with use := .bound c, granted := false })
  ∧ ∀ s q ctx, q < 64 → ((s.quad q).table.map (·.serial)).Nodup → (∀ r ∈ (s.quad q).table, quadOf r.core = q) →
    ∃ t, exec (.engineReset q ctx) s = .next t
      ∧ (∀ r ∈ (t.quad q).table, concerned ctx r.ctx = false)
      ∧ (∀ r ∈ (s.quad q).table, concerned ctx r.ctx = true → ((t.core r.core).ticket r.ticket).st.ended = true)
      ∧ ∀ x, ctx = some x → ∀ b ∈ (t.quad q).banks, b.use.names x = false

/-- R205, R207, R209, R202, R219, R218: a copy request starts, where its ends are open, and a lane's request reads its
bytes; a lane's request lands whole and its tag's count falls; a bulk request demands and pays its chunks, reads and
lands its units, and is DONE when all have landed, with FULL set by SETF; a migration is committed in the map, with the
frame that it has taken, and the old frame is released. -/
def Obligations.CopiesMove : Prop :=
  ∀ s c n r, s.req? c n = some r → (s.context r.ctx).replaying = none →
    (s.mayStart c r = true →
      (s.endsOpen c r = true → r.isThread = true → r.held = [] → ∃ t, exec (.copyStart ⟨c, n⟩) s = .next t
        ∧ t.req? c n = some { r with started := true, held := [(0, s.readUnit c r (s.viewOf c r) 0)] })
      ∧ (s.endsOpen c r = true → (r.isThread = false ∨ r.held ≠ []) → ∃ t, exec (.copyStart ⟨c, n⟩) s = .next t
        ∧ t.req? c n = some { r with started := true } ∧ ∀ i, r.ticket = some i → ((t.core c).ticket i).st = .run)
      ∧ (s.endsOpen c r = false → Open s c r → ∃ t, exec (.copyStart ⟨c, n⟩) s = .next t ∧ ReqEnded t c r .lost))
    ∧ (∀ tag m l, r.kind = .thread tag m l → r.started = true → s.mayMove r = true → s.mayEnd r = true → r.image = 0 →
      s.reachable c r.ctx r.dst.desc = true → r.ticket = none → ∃ t, exec (.copyLanding ⟨c, n⟩) s = .next t
        ∧ ReqEnded t c r .done ∧ Landed s c r 0 (tget [] r.held 0) t
        ∧ ∀ slot k, (s.core c).slotOf? r.ctx r.crewId = some slot → s.crew? c slot = some k →
          ∃ k', t.crew? c slot = some k' ∧ k'.tagIds tag = (k.tagIds tag).filter fun i => decide (i ≠ r.serial))
    ∧ (∀ u, r.bulkMoves = true → u < r.units → u ∉ r.chunks → s.mayMove r = true → r.image = 0 →
      (∀ m price, r.isPaid u = false → (∀ d ∈ (s.core c).demands, d.ofReq r.serial = false) →
        s.nextChunk c r = some (m, price) → ∃ t, exec (.copyChunk ⟨c, n⟩ u) s = .next t
          ∧ ((∃ q, t.req? c n = some q ∧ q.paid = r.paid ++ [m])
            ∨ (0 < price ∧ ∃ d ∈ (t.core c).demands, d.kind = .chunk r.serial m r.accepted)))
      ∧ (r.isPaid u = true → r.isMigr = true → ∃ t, exec (.copyChunk ⟨c, n⟩ u) s = .next t
          ∧ t.req? c n = some { r with chunks := r.chunks ++ [u] })
      ∧ (r.isPaid u = true → r.isMigr = false → s.endsOpen c r = true →
        (tget? r.held u = none → ∃ t, exec (.copyChunk ⟨c, n⟩ u) s = .next t
          ∧ t.req? c n = some { r with held := tset r.held u (s.readUnit c r (s.viewOf c r) u) })
        ∧ ∀ vals, tget? r.held u = some vals → ∃ t, exec (.copyChunk ⟨c, n⟩ u) s = .next t
          ∧ t.req? c n = some { r with chunks := r.chunks ++ [u], held := tdel r.held u } ∧ Landed s c r u vals t))
    ∧ (r.bulkMoves = true → r.isMigr = false → r.units ≤ r.chunks.length → s.mayEnd r = true → Open s c r →
      ∃ t, exec (.bulkCopyComplete ⟨c, n⟩) s = .next t ∧ ReqEnded t c r .done
        ∧ (r.kind = .bulk true → ((s.core c).entry r.ctx r.dst.entry).desc.st ≠ .free →
          ((t.core c).entry r.ctx r.dst.entry).desc.full = true))
    ∧ ∀ h tile home frame, r.kind = .migr h tile home frame → r.started = true → 2048 ≤ r.chunks.length →
      s.mayEnd r = true → Open s c r → (tget? s.contexts r.ctx).isSome = true →
      ∃ t, exec (.migrCommit ⟨c, n⟩) s = .next t ∧ ReqEnded t c r .done
        ∧ (∀ a ∈ (s.context r.ctx).allocs, a.handle = h →
          { a with homes := tset a.homes tile ⟨home, frame, false, true⟩ } ∈ (t.context r.ctx).allocs)
        ∧ ∀ a, (s.context r.ctx).allocs.find? (fun a => decide (a.handle = h)) = some a →
          t.device.frames.free = s.device.frames.free ++ [((a.home tile).space, (a.home tile).frame)]

/-- R214, R300, R301, R298: the request in turn of a publish reads its source and lands, a bulk one unit by unit as its
chunks are paid, and then its images one after another; R270, R272: an atomic is performed on memory, and its request is
done; R263, R186: a generation that is full opens, a publishing one once its members' writes have landed, and the
threads that wait for it go on in waves. -/
def Obligations.PublishesAndOpenings : Prop :=
  (∀ s c r, s.turn c = some r → (s.core c).holdCopy = false → s.mayMove r = true → s.mayEnd r = true →
    s.req? c r.serial = some r → (s.context r.ctx).replaying = none →
    (r.image = 0 → (r.isThread = true ∨ r.isPaid r.chunks.length = true) →
      let u := r.chunks.length
      let vals := s.readUnit c r s.globalMem u
      ∃ t, exec (.publishRequestLanding c) s = .next t ∧ Landed s c r u vals t
        ∧ (u + 1 < r.units → ∃ q, t.req? c r.serial = some q ∧ q.chunks = r.chunks ++ [u] ∧ q.image = 0)
        ∧ (r.units ≤ u + 1 → s.reqImages r = [] → Open s c r → ReqEnded t c r .done)
        ∧ (r.units ≤ u + 1 → s.reqImages r ≠ [] → ∃ q, t.req? c r.serial = some q ∧ q.image = 1))
    ∧ ∀ l, r.image ≠ 0 → tget? s.launches r.launch = some l → ∃ t, exec (.publishRequestLanding c) s = .next t
      ∧ Imaged s c r l t
      ∧ (r.image < (s.reqImages r).length → ∃ q, t.req? c r.serial = some q ∧ q.image = r.image + 1)
      ∧ ((s.reqImages r).length ≤ r.image → Open s c r → ReqEnded t c r .done))
  ∧ (∀ s c n r ret d op ty rel ls bad, s.req? c n = some r → r.kind = .atom ret d op ty rel ls bad →
    s.clocked = true → s.atomReady c r = true → (s.context r.ctx).replaying = none →
    s.reachable c r.ctx r.dst.desc = true →
    let p := s.port c r.ctx r.dst.desc
    ∃ t, exec (if ret then .atomUpdate ⟨c, n⟩ else .atredUpdate ⟨c, n⟩) s = .next t ∧ t.req? c n = none
      ∧ behindDst s c r t = (atomGroup p op ty (behindDst s c r s) (ls.map fun x => (r.dst.desc.bitPos x.coord, x))).1)
  ∧ ∀ s key b, s.barOf key = some b → s.genReady key b = true →
    let g := b.opened + 1
    (g ∈ b.pub → b.publishing = false → ∃ t, exec (.generationOpen key) s = .next t
      ∧ t.barOf key = some { b with publishing := true }
      ∧ ∀ p ∈ t.cores, ∀ r ∈ p.2.reqs, r.deferred = true → s.beforeArrival key b p.1 r r.lane = true →
        r.publishing ≠ none)
    ∧ ((g ∉ b.pub ∨ b.publishing = true) → ∃ t b', exec (.generationOpen key) s = .next t ∧ t.barOf key = some b'
      ∧ (b.publishing = true → ∀ p ∈ s.cores, ∀ r ∈ p.2.reqs, r.deferred = true → r.publishing ≠ none →
        s.beforeArrival key b p.1 r r.lane = false)
      ∧ b'.opened = g ∧ b'.publishing = false ∧ b'.members = b.members ∧ g ∉ b'.pub
      ∧ ∀ c slot k, s.crew? c slot = some k → Lanes k → ∃ k', t.crew? c slot = some k'
        ∧ ∀ l th, k.thread? l = some th → if th.st = .parked (.barrier key g) then
            ∃ (i : Nat) (w : Nat), (s.waveOrder (quadOf c) key g)[i]? = some ⟨c, slot⟩
              ∧ w = s.quadCycle (quadOf c) + (if (s.quad (quadOf c)).wave = 0 then 0
                else i / (s.quad (quadOf c)).wave * (s.quad (quadOf c)).slope)
              ∧ k'.thread? l = some { th with st := .parked (.wave w) }
          else k'.thread? l = some th)

/-- R199, R200, R228: a request that has come to a page without a translation parks and a PAGE record is made; a resumed
page is mapped and nothing is parked on it; a failed one ends what was parked on it FAULT; a reset of a copy unit ends
its requests FAULT, but for queued deferred ones where no context is named. -/
def Obligations.PagesAndResets : Prop :=
  (∀ s c n r d p, s.req? c n = some r → s.faultPage r = some (d, p) → ∃ t, exec (.pageFault ⟨c, n⟩) s = .next t
    ∧ t.req? c n = some { r with parked := some p } ∧ (∀ i, r.ticket = some i → ((t.core c).ticket i).st = .parked)
    ∧ Recorded s t c 3 ((d.handle.toNat * 2 ^ 32 + p) % 2 ^ 64) r.ctx r.launch)
  ∧ (∀ s c n r p, s.req? c n = none → s.mat? c n = some r → s.drainPage (quadOf c) r = some p →
    ∃ t, exec (.pageFault ⟨c, n⟩) s = .next t ∧ (∀ x ∈ inTable t (quadOf c) r.serial, x.parked = some p)
      ∧ ((t.core c).ticket r.ticket).st = .parked
      ∧ Recorded s t c 3 (((r.opEnd 0).desc.handle.toNat * 2 ^ 32 + p) % 2 ^ 64) r.ctx r.launch)
  ∧ (∀ s (p : PageRef), s.isUnmapped p = true → ∃ t, exec (.pageResume p) s = .next t ∧ t.isUnmapped p = false
    ∧ (∀ c, ∀ r ∈ (t.core c).reqs, r.onPage p = false) ∧ (∀ q, ∀ r ∈ (t.quad q).table, r.onPage p = false)
    ∧ ∀ c, ((t.core c).reqs.map (·.serial)) = (s.core c).reqs.map (·.serial))
  ∧ (∀ s (p : PageRef), (s.parkedOn p ≠ [] ∨ s.drainsOn p ≠ []) → ∃ t, exec (.pageFail p) s = .next t
    ∧ (∀ c, (∀ r ∈ (t.core c).reqs, r.onPage p = false)
      ∧ ∀ r ∈ (s.core c).reqs, r.onPage p = true → ∀ i, r.ticket = some i → ((t.core c).ticket i).st.ended = true)
    ∧ ∀ q, ∀ r ∈ (t.quad q).table, r.onPage p = false)
  ∧ ∀ s c ctx, c < 256 → ∃ t, exec (.copyUnitReset c ctx) s = .next t
    ∧ (∀ r ∈ (t.core c).reqs, r.resets ctx = false)
    ∧ ∀ r ∈ (s.core c).reqs, r.resets ctx = true → ∀ i, r.ticket = some i → ((t.core c).ticket i).st.ended = true

/-- R157, R158: the banks that Kale chooses: each is the first choosable LIT bank in the order, over the live entries that
the choices before it leave, until enough are chosen or none is choosable.
R153, R155, R156, R158, R160, R163: a write of CAPCTL; at the start of a cycle Kale dooms the banks that it chooses and
the LIVE entries in them are LOSING; at the dark instant the banks are DARK, their cells read 0, the entries that the
doom took are LOST (or FREE where their owner has ended), and the groups that waited for them go on; a read that still
runs 2,000 of TICK after the doom ends LOST; a WAKING bank is LIT at its instant. -/
def Obligations.CapacityMoves : Prop :=
  (∀ c : Core, let bs := c.chosen
    bs.Nodup ∧ bs.length ≤ c.nLit + c.nWaking - c.cap.target
    ∧ (∀ i b, bs[i]? = some b → Choice c (bs.take i) b
        ∧ ∀ x, Choice c (bs.take i) x → x ≠ b → Sooner (leftLive c (bs.take i)) b x)
    ∧ (bs.length < c.nLit + c.nWaking - c.cap.target → ∀ x, ¬ Choice c bs x))
  ∧ ((∀ s (e : CapctlEv), e.core < 256 →
    let old := (s.core e.core).cap
    let fits := (∀ v, e.target = some v → v ≤ 64) ∧ ∀ v, e.pinQuota = some v → v ≤ 64
    ∃ t, exec (.capctlWrite e) s = .next t
      ∧ (fits → (t.core e.core).cap.target = (if e.debug = true ∨ old.force = false then e.target.getD old.target
          else old.target) ∧ (t.core e.core).cap.pinq = e.pinQuota.getD old.pinq
          ∧ (t.core e.core).cap.force = e.force.getD old.force)
      ∧ (¬ fits → t.core e.core = s.core e.core))
  ∧ (∀ s c, c < 256 → s.imposedDoom c = none → s.replayedOn c = false → s.atStart c = true →
    ((s.core c).cap.pending = true ∨ ((s.core c).cap.target < (s.core c).nLit + (s.core c).nWaking ∧ (s.core c).chosen ≠ [])) →
    Sorted (s.core c).layout →
    let bs := (s.core c).chosen
    ∃ t, exec (.kaleDoom c) s = .next t
      ∧ (∀ b ∈ bs, (t.core c).bank b = .doomed) ∧ (∀ b, b ∉ bs → (t.core c).bank b = (s.core c).bank b)
      ∧ ((t.core c).cap.target, (t.core c).cap.pinq, (t.core c).cap.force)
        = ((s.core c).cap.target, (s.core c).cap.pinq, (s.core c).cap.force)
      ∧ (bs ≠ [] → ∃ d ∈ (t.core c).dooms, d.t0 = s.coreCycle c ∧ d.tick = s.coreTick c ∧ d.banks = bs
        ∧ ∀ ctx n, n < 256 → let e := (s.core c).entry ctx n
          e.desc.st = .live → e.desc.isGlobal = false → e.reserved = false → inBanks e bs → 256 * ctx + n ∈ d.entries)
      ∧ ∀ ctx n, n < 256 → let e := (s.core c).entry ctx n
          e.desc.st = .live → e.desc.isGlobal = false → e.reserved = false → inBanks e bs →
            ((t.core c).entry ctx n).desc.st = .losing)
  ∧ (∀ s c d, (s.core c).dooms.find? (s.isDark c) = some d → Sorted (s.core c).layout → s.MemWf →
    ∃ t, exec (.darkInstant c) s = .next t ∧ (t.core c).dooms = (s.core c).dooms.erase d
      ∧ (∀ b ∈ d.banks, (t.core c).bank b = .dark) ∧ (∀ b, b ∉ d.banks → (t.core c).bank b = (s.core c).bank b)
      ∧ (∀ a, Memory.read (t.core c).cells a = if a / 12288 ∈ d.banks then 0 else Memory.read (s.core c).cells a)
      ∧ (∀ ctx n, n < 256 → 256 * ctx + n ∈ d.entries → let e := (s.core c).entry ctx n
          e.desc.st = .losing → ((t.core c).entry ctx n).desc.st = if e.cleared then .free else .lost)
      ∧ ∀ slot k, s.crew? c slot = some k → Lanes k → ∃ k', t.crew? c slot = some k' ∧
          ∀ l th n o, k.thread? l = some th → th.st = .parked (.entry n o) → n < 256 →
            256 * k.id.ctx + n ∈ d.entries → ((s.core c).entry k.id.ctx n).desc.st = .losing →
            ∃ th', k'.thread? l = some th' ∧ th'.st = .ready ∧ th'.pc = th.pc ∧ ∀ key, th'.final key = th.final key)
  ∧ (∀ s c n, s.lateReader n = true →
    (∀ r, s.req? c n = some r → Open s c r → ∃ t, exec (.engineReadCancel ⟨c, n⟩) s = .next t ∧ ReqEnded t c r .lost)
    ∧ ∀ r, s.req? c n = none → s.mat? c n = some r → ((s.core c).ticket r.ticket).st.ended = false →
      ∃ t, exec (.engineReadCancel ⟨c, n⟩) s = .next t ∧ MatEnded t (quadOf c) r .lost)
  ∧ ∀ s c b till, (s.core c).bank b = .waking till → till ≤ s.coreTick c →
    ∃ t, exec (.bankWake c b) s = .next t ∧ (t.core c).bank b = .lit
      ∧ ∀ b', b' ≠ b → (t.core c).bank b' = (s.core c).bank b')

/-- R148, R168: FIND takes the lowest first bank and then the lowest row, of the sets of LIT banks before those whose DARK
banks may be lit; the condition of WAITCAP; of the crews that wait and may take their claims the one of the highest rank,
and then the oldest.
R147, R156, R167: a placement whose banks are LIT zeroes its cells in as many cycles as it has rows and is LIVE, or
revived; its group goes on with P = 1 and its claim is over. R162: a doom of its banks leaves it FREE, or not revived,
with P = 0. R145, R146, R150, R170: at issue + 6 FREE makes its entry FREE, P 1, MARK writes FULL and the threads that wait
for it go on, and RERANK writes the rank. -/
def Obligations.CapacityChoice : Prop :=
  (∀ (c : Core) k n rank claimed, k ≤ 6 → match c.find k n rank claimed with
    | some (b, r, dark) => Qualifies c k n rank claimed dark b r
        ∧ (∀ b' r', Qualifies c k n rank claimed dark b' r' → b < b' ∨ (b = b' ∧ r ≤ r'))
        ∧ (dark = true → ∀ b' r', ¬ Qualifies c k n rank claimed false b' r')
    | none => ∀ dark b r, ¬ Qualifies c k n rank claimed dark b r)
  ∧ (∀ s c slot n rank, s.capHolds c slot n rank = true
    ↔ n + claimedBeside s c slot ≤ available (s.core c) ∧ (rank = 7 → pinnedCount (s.core c) + n ≤ (s.core c).cap.pinq))
  ∧ (∀ s c, Sorted (s.core c).slots → (∀ slot k n r p d, s.crew? c slot = some k → k.capWait = some (n, r, p, d) → r ≤ 7) →
    (∀ slot n p, s.nextCap c = some (slot, n, p) → ∃ k rank, MayTake s c slot k n rank p
      ∧ ∀ slot' k' n' rank' p', MayTake s c slot' k' n' rank' p' → rank' < rank ∨ (rank' = rank ∧ k.id.age ≤ k'.id.age))
    ∧ (s.nextCap c = none → ∀ slot k n rank p, ¬ MayTake s c slot k n rank p))
  ∧ (∀ s c slot k n p lit cyc b0 row, s.crew? c slot = some k → Lanes k → n < 256 →
    let x := s.context k.id.ctx
    let e := (s.core c).entry k.id.ctx n
    let w := waiting k fun st => match st with
      | .parked (.place _ _ _ _) => true
      | _ => false
    w ≠ 0 → (∀ l th m p' lit' cyc', k.thread? l = some th → th.st = .parked (.place m p' lit' cyc') →
      m = n ∧ p' = p ∧ lit' = lit ∧ cyc' = cyc) → NoLoopEnd x w k → e.placing = some (b0, row) → s.MemWf →
    (∀ t, t = s.placementStep c slot →
      (lit ≠ 0 → (s.core c).litAt b0 e.desc.banklog ≠ 0 → t = s)
      ∧ (lit ≠ 0 → (s.core c).litAt b0 e.desc.banklog = 0 → (t.core c).cells = (s.core c).cells
        ∧ (t.core c).layout = (s.core c).layout ∧ ∃ k', t.crew? c slot = some k' ∧ ∀ l th, k.thread? l = some th →
          k'.thread? l = some (if w.getLsbD l then { th with st := .parked (.place n p 0 (s.coreCycle c + e.desc.nrows)) }
            else th))
      ∧ (lit = 0 → s.coreCycle c < cyc → t = s)
      ∧ (lit = 0 → cyc ≤ s.coreCycle c → (∃ k', t.crew? c slot = some k'
            ∧ Woken x w (fun key => if key = pKey p then some 1 else none) none k k')
        ∧ (let d := { e.desc with bank0 := b0, row0 := row, full := false }
          (t.core c).entry k.id.ctx n = if e.desc.st = .rebuild
            then { e with placing := none, revived := true, doomed := false, desc := d }
            else { e with placing := none, desc := { d with st := .live } })
        ∧ (∀ ctx' n', n' < 256 → (ctx' ≠ k.id.ctx ∨ n' ≠ n) → (t.core c).entry ctx' n' = (s.core c).entry ctx' n')
        ∧ t.globalMem = s.globalMem
        ∧ ∀ a, Memory.read (t.core c).cells a
          = if b0 ≤ a / 12288 ∧ a / 12288 < b0 + 2 ^ e.desc.banklog ∧ row ≤ a / 32 % 384 ∧ a / 32 % 384 < row + e.desc.nrows
            then 0 else Memory.read (s.core c).cells a))
    ∧ ∀ t, t = s.placed c slot k.id.ctx n false → Sorted (s.core c).layout →
      (∃ k', t.crew? c slot = some k' ∧ Woken x w (fun key => if key = pKey p then some 0 else none) none k k')
        ∧ EntryBecomes s t c k.id.ctx n (if e.desc.st = .rebuild
          then { e with placing := none, revived := false, doomed := false } else Entry.free))
  ∧ ∀ s c due op ctx n, (s.core c).late = [(due, op)] → due ≤ s.coreCycle c → n < 256 → Sorted (s.core c).slots →
    Sorted (s.core c).layout →
    let t := s.drainLate c
    let e := (s.core c).entry ctx n
    let nobody := fun (_ : TState) => false
    (op = .free (256 * ctx + n) →
      (e.desc.st = .losing → (t.core c).late = [(s.coreCycle c + 1, op)] ∧ EntryBecomes s t c ctx n e
        ∧ GoOnFor s t c ctx nobody fun _ => none)
      ∧ (e.desc.st ≠ .losing → ∀ p, (∀ slot k l th p', s.crew? c slot = some k → k.thread? l = some th →
          th.st = .parked (.freeing n p') → p' = p) → (t.core c).late = [] ∧ EntryBecomes s t c ctx n Entry.free
        ∧ GoOnFor s t c ctx (fun st => decide (st = .parked (.freeing n p)))
          fun key => if key = pKey p then some 1 else none))
    ∧ (∀ v, op = .mark (256 * ctx + n) v → (t.core c).late = []
      ∧ EntryBecomes s t c ctx n (if e.desc.st = .free then e else { e with desc := { e.desc with full := v } })
      ∧ GoOnFor s t c ctx (fun st => v && decide (e.desc.st = .live ∨ (e.desc.st = .rebuild ∧ e.revived = true ∧ e.doomed = false))
        && decide (st = .parked (.full n))) fun _ => none)
    ∧ ∀ r, op = .rerank (256 * ctx + n) r → (t.core c).late = []
      ∧ EntryBecomes s t c ctx n (if e.desc.st = .free then e else { e with desc := { e.desc with rank := r } })
      ∧ (t.core c).cap.pending = ((s.core c).cap.pending
        || decide ((s.core c).cap.target < litCount (s.core c) + wakingCount (s.core c)))
      ∧ GoOnFor s t c ctx nobody fun _ => none

/-- R37, R152, R186, R316, R330, R331: a write through LTDAT reaches the fields that R152 leaves, or changes nothing
and is recorded; CERR is cleared; a field of the control block takes a value of its range, and another value changes
nothing and is logged; WAVECTL, the injection and the queue descriptors take what is written. A record of a coalescer
that is due, or that a ninth needs gone, is written to its context's fault queue, and the event that waits opens one. -/
def Obligations.SoftwareWrites : Prop :=
  (∀ s c due e word v slot pc,
    (s.core c).late.find? (fun x => x.2.isLtdat && decide (x.1 ≤ s.coreCycle c)) = some (due, .ltdat e word v slot pc) →
    let x := (s.core c).entry (e / 256) (e % 256)
    let new := x.desc.patch (s.context (e / 256)).codeBase (s.context (e / 256)).codeSize word v
    x.desc.st = .live → ∃ t, exec (.ltdatWrite c) s = .next t
      ∧ (t.core c).late = (s.core c).late.erase (due, .ltdat e word v slot pc)
      ∧ (∀ key, key ≠ e → tget? (t.core c).layout key = tget? (s.core c).layout key)
      ∧ (∀ d, new = some d → (t.core c).entry (e / 256) (e % 256) = { x with desc := d } ∧ d.st = .live
        ∧ (d.kind, d.fmt, d.ndim, d.ext, d.full, d.banklog, d.bank0, d.row0, d.nrows)
          = (x.desc.kind, x.desc.fmt, x.desc.ndim, x.desc.ext, x.desc.full, x.desc.banklog, x.desc.bank0, x.desc.row0,
              x.desc.nrows))
      ∧ (new = none → (t.core c).layout = (s.core c).layout
        ∧ ∀ k, s.crew? c slot = some k → Reported s t c k slot 0x0B pc))
  ∧ (∀ s ctx, (tget? s.contexts ctx).isSome = true → ∃ t, exec (.cerrClear ctx) s = .next t
    ∧ (t.context ctx).ccb = { (s.context ctx).ccb with cerr := Cerr.reset })
  ∧ (∀ s ctx f v, (tget? s.contexts ctx).isSome = true → ∃ t, exec (.controlBlockWrite ctx f v) s = .next t
    ∧ ((ccbRange f).1 ≤ v ∧ v < (ccbRange f).2 →
      ccbValue (t.context ctx).ccb f = v ∧ (∀ f', f' ≠ f → ccbValue (t.context ctx).ccb f' = ccbValue (s.context ctx).ccb f')
        ∧ (t.context ctx).ccb.cerr = (s.context ctx).ccb.cerr ∧ (t.context ctx).ccb.fqTail = (s.context ctx).ccb.fqTail)
    ∧ (¬ ((ccbRange f).1 ≤ v ∧ v < (ccbRange f).2) → (t.context ctx).ccb = (s.context ctx).ccb
      ∧ t.device.firmware.log = s.device.firmware.log ++ [v]))
  ∧ (∀ s q v, q < 64 → ∃ t, exec (.registerWrite (.wavectl q) v) s = .next t
    ∧ t.quad q = { s.quad q with wave := v % 64, slope := v / 256 % 256 })
  ∧ (∀ s d v, d < 4 → ∃ t, exec (.registerWrite (.ringctlInj d) v) s = .next t
    ∧ t.die d = { s.die d with inj := v % 4096 })
  ∧ (∀ s ctx q f v, (tget? s.contexts ctx).isSome = true → ∃ t, exec (.registerWrite (.queueField ctx q f) v) s = .next t
    ∧ let old := (s.context ctx).queue q
      (t.context ctx).queue q = match f with
        | .base => { old with base := BitVec.ofNat 64 v }
        | .slog => { old with slog := if 1 ≤ v ∧ v ≤ 15 then v else old.slog }
        | .ranged => { old with ranged := decide (v % 2 = 1) }
        | .devfed => { old with devfed := decide (v % 2 = 1) })
  ∧ ∀ s c r, s.MemWf → (tget? s.contexts r.ctx).isSome = true →
    (s.core c).openRecs.find? (fun r => !(s.context r.ctx).ccb.fqFull) = some r →
    (r.opened + 1000 ≤ s.tick ∨ (8 ≤ (s.core c).openRecs.length ∧ (s.core c).waiting ≠ [])) →
    let b := (s.context r.ctx).ccb
    let slot := gaddr b.fqBase (32 * (b.fqTail % 2 ^ b.fqLog))
    ∃ t, exec (.coalescerWrite c) s = .next t ∧ (t.context r.ctx).ccb = { b with fqTail := (b.fqTail + 1) % 2 ^ 16 }
      ∧ (s.inMove slot 32 = false → leNat (Memory.readN t.globalMem slot 32) = faultBits s c r % 2 ^ 256)
      ∧ (s.inMove slot 32 = true → t.globalMem = s.globalMem ∧ ∃ bs, t.device.held = s.device.held ++ [(slot, bs)]
        ∧ bs.length = 32 ∧ leNat bs = faultBits s c r % 2 ^ 256)
      ∧ ((s.core c).waiting = [] → (t.core c).openRecs = (s.core c).openRecs.erase r)
      ∧ ∀ w, (s.core c).waiting = [w] → mergeInto w ((s.core c).openRecs.erase r) = none →
        (s.core c).openRecs.length ≤ 8 → (t.context w.ctx).ccb.fqFull = false →
        (t.core c).openRecs = (s.core c).openRecs.erase r ++ [{ w with opened := s.tick }] ∧ (t.core c).waiting = []

/-- R331, R332, R334 to R337, R339, R342, R61, R81: a tail write brings the records up to it into the window, stops a
queue that it would overrun, and is held while the device sleeps or the firmware changes; a released KERNEL becomes a
launch with its backing region, or is refused with its cause; a skipped record completes as SKIPPED; COND, SIGNAL and
WAIT do what their words say and leave the window; a killed context has nothing left on the cores, and its launches are
over. -/
def Obligations.QueuesRun : Prop :=
  (∀ s (r : QueueRef) (tail : BitVec 16), s.queueOpen r = true →
    let q := (s.context r.ctx).queue r.queue
    (s.device.power.state ≠ .active → ∃ t, exec (.tailWrite r tail) s = .next t ∧ t.device.power.woken = true
      ∧ t.device.power.heldTails = s.device.power.heldTails ++ [(r, tail)] ∧ t.contexts = s.contexts)
    ∧ (s.device.power.state = .active → s.device.firmware.quiesced = true → ∃ t, exec (.tailWrite r tail) s = .next t
      ∧ t.device.firmware.heldTails = s.device.firmware.heldTails ++ [(r, tail)] ∧ t.contexts = s.contexts)
    ∧ (s.device.power.state = .active → s.device.firmware.quiesced = false →
      (q.devfed = true → exec (.tailWrite r tail) s = .next s)
      ∧ (q.devfed = false → 2 ^ q.slog < (tail.toNat + 2 ^ 16 - q.head) % 2 ^ 16 →
        ∃ t, exec (.tailWrite r tail) s = .next t ∧ (t.context r.ctx).queue r.queue = { q with stop := true })
      ∧ (q.devfed = false → (tail.toNat + 2 ^ 16 - q.head) % 2 ^ 16 ≤ 2 ^ q.slog → q.stop = false → q.head < 2 ^ 16 →
        let n := min (64 - q.window.length) ((tail.toNat + 2 ^ 16 - q.head) % 2 ^ 16)
        let slotOf := fun i => gaddr q.base (2048 * ((q.head + i) % 2 ^ 16 % 2 ^ q.slog))
        (∀ i, i < n → Quiet s (slotOf i) 2048 ∧ Apart s r.ctx r.queue (slotOf i) 2048) →
        ∃ t, exec (.tailWrite r tail) s = .next t ∧ let q' := (t.context r.ctx).queue r.queue
          q'.tail = tail.toNat ∧ q'.head = (q.head + n) % 2 ^ 16 ∧ q'.window.length = q.window.length + n
          ∧ (∀ i, i < q.window.length → q'.window[i]? = q.window[i]?)
          ∧ ∀ i, i < n → ∃ w, q'.window[q.window.length + i]? = some w ∧ w.st = .queued ∧ w.launch = none
            ∧ w.skip = decide (i < q.skips)
            ∧ w.record = parseRecord (leNat (Memory.readN s.globalMem (slotOf i) 2048)))))
  ∧ (∀ s (r : QueueRef), s.queueOpen r = true → ∃ t, exec (.queueStopClear r) s = .next t
    ∧ ((t.context r.ctx).queue r.queue).stop = false
    ∧ ∀ (i : Nat) (w : QRec), ((s.context r.ctx).queue r.queue).window[i]? = some w → ((t.context r.ctx).queue r.queue).window[i]? = some w)
  ∧ (∀ s r q e, MayRelease s r q → s.MemWf → q.skip = true →
    (q.record.kind, e) ∈ [(0, Instr.launchRelease r), (1, Instr.cond r), (2, Instr.signal r), (3, Instr.wait r)] →
    let a := gaddr q.record.cmpl 0
    ∃ t, exec e s = .next t ∧ LeftWindow s r (fun _ w => w) t ∧ t.launches = s.launches
      ∧ (q.record.cmpl ≠ 0 → s.inMove a 32 = false → Apart s r.ctx r.queue a 32 →
        leNat (Memory.readN t.globalMem a 32) = 4 + 2 ^ 32 * q.record.lid.toNat + 2 ^ 64 * (s.tick % 2 ^ 64)))
  ∧ (∀ s r q, MayRelease s r q → q.record.kind = 0 → q.skip = false →
    (∀ cause, s.refuses r.ctx q.record = some cause →
      ∃ t l, exec (.launchRelease r) s = .next t ∧ Launched s r q l t ∧ l.status = 3 ∧ l.detail = cause
        ∧ l.waiting = [] ∧ l.total = 0)
    ∧ (s.refuses r.ctx q.record = none → s.wideFree q.record = true →
      ∃ t l, exec (.launchRelease r) s = .next t ∧ Launched s r q l t ∧ l.status = 0 ∧ l.waiting = q.record.reps
        ∧ l.total = q.record.reps.length ∧ l.done = 0
        ∧ l.frames.length = (32 * q.record.spawnmax + 65535) / 65536))
  ∧ (∀ s r q, MayRelease s r q → q.record.kind = 1 → q.skip = false → s.MemWf →
    let n := q.record.code.toNat
    let word := Memory.readWord s.globalMem (gaddr q.record.pred 0)
    ∃ t, exec (.cond r) s = .next t ∧ OnlyDescriptor s r t
      ∧ (word ≠ 0 → LeftWindow s r (fun _ w => w) t)
      ∧ (word = 0 → LeftWindow s r (fun i w => if r.idx < i ∧ i ≤ r.idx + n then { w with skip := true } else w) t
        ∧ ((queueOf s r).head = (queueOf s r).tail →
          (queueOf t r).skips = (queueOf s r).skips + (n - ((queueOf s r).window.length - (r.idx + 1))))))
  ∧ (∀ s r q, MayRelease s r q → q.record.kind = 2 → q.skip = false → s.MemWf →
    let b := (s.context r.ctx).ccb
    let a := gaddr b.qtBase (32 * b.nq + 4 * (q.record.code.toNat % 64))
    (s.inMove a 4 = true → exec (.signal r) s = .next s)
    ∧ (s.inMove a 4 = false → ∃ t, exec (.signal r) s = .next t ∧ LeftWindow s r (fun _ w => w) t
      ∧ Memory.readWord t.globalMem a = Memory.readWord s.globalMem a + 1
      ∧ ∀ x, (x < a ∨ a + 4 ≤ x) → Apart s r.ctx r.queue x 1 → Memory.read t.globalMem x = Memory.read s.globalMem x))
  ∧ (∀ s r q, MayRelease s r q → q.record.kind = 3 → q.skip = false → s.MemWf →
    let b := (s.context r.ctx).ccb
    let v := (Memory.readWord s.globalMem (gaddr b.qtBase (32 * b.nq + 4 * (q.record.code.toNat % 64)))).toNat
    (v < q.record.pred.toNat % 2 ^ 32 → exec (.wait r) s = .next s)
    ∧ (q.record.pred.toNat % 2 ^ 32 ≤ v → ∃ t, exec (.wait r) s = .next t ∧ LeftWindow s r (fun _ w => w) t
      ∧ OnlyDescriptor s r t))
  ∧ ∀ s ctx, (tget? s.contexts ctx).isSome = true → (s.context ctx).killed = false →
    ∃ t, exec (.contextKill ctx) s = .next t ∧ (t.context ctx).killed = true ∧ (t.context ctx).saved = []
      ∧ (∀ c, (∀ p ∈ (t.core c).slots, p.2.id.ctx ≠ ctx) ∧ ∀ r ∈ (t.core c).reqs, r.ctx ≠ ctx)
      ∧ (∀ q, ∀ r ∈ (t.quad q).table, r.ctx ≠ ctx)
      ∧ ∀ p ∈ t.launches, p.2.ctx = ctx → p.2.completed = true

/-- R76, R317, R318, R320: a pre-emption chooses the youngest crews that may go, as few as meet the request; a block
that has run its quantum goes when others wait; a chosen crew is saved with its registers and pending writes, its
ungranted matrix requests leave the table and its slot is FREE; a restored crew that no waking thread brings to a loop
end goes on where it stood, and a thread that waited behind an entry that is in REBUILD no longer executes its
instruction again (R165). -/
def Obligations.CrewsSaved : Prop :=
  (∀ s (e : PreemptEv), e.core < 256 → (tget? s.contexts e.ctx).isSome = true → Sorted (s.core e.core).slots →
    ∃ (t : State) (vs : List (Nat × Crew)) (n : Nat), exec (.preemption e) s = .next t
      ∧ (∀ p, p ∈ vs ↔ Choosable s e.core p) ∧ vs.Pairwise (fun a b => b.2.id.age ≤ a.2.id.age) ∧ n ≤ vs.length
      ∧ (n = vs.length ∨ (e.slots ≤ n ∧ e.regs ≤ ((vs.take n).map fun p => p.2.id.vallot).sum))
      ∧ (∀ m, m < n → m < e.slots ∨ ((vs.take m).map fun p => p.2.id.vallot).sum < e.regs)
      ∧ (∀ p ∈ vs.take n, t.crew? e.core p.1 = some (Leaving s e.core p.2))
      ∧ ∀ slot, (∀ p ∈ vs.take n, p.1 ≠ slot) → t.crew? e.core slot = s.crew? e.core slot)
  ∧ (∀ s block b l, tget? s.blocks block = some b → RunItsQuantum s b l →
    ∃ t, exec (.timeSliceEviction block) s = .next t
      ∧ (tget? t.launches b.launch) = some { l with waiting := l.waiting ++ [b.index] }
      ∧ ∀ r ∈ b.crews, ∀ k, s.crew? r.core r.slot = some k →
        t.crew? r.core r.slot = some (Leaving s r.core k))
  ∧ (∀ s r k, s.crew? r.core r.slot = some k → Sorted (s.core r.core).slots → (tget? s.contexts k.id.ctx).isSome = true →
    (∃ at' < s.coreCycle r.core, k.evict = some at') → k.st ≠ .held → s.bankBusy r.core r.slot k = false →
    ∃ t v, exec (.crewSave r) s = .next t ∧ SavedAs s r k v ∧ v.version = s.device.firmware.version
      ∧ (t.context k.id.ctx).saved = (s.context k.id.ctx).saved ++ [v] ∧ t.crew? r.core r.slot = none
      ∧ (∀ slot, slot ≠ r.slot → t.crew? r.core slot = s.crew? r.core slot)
      ∧ ∀ x ∈ (t.quad (quadOf r.core)).table, x.core = r.core → x.ctx = k.id.ctx → x.crewId = k.id.crewId →
        x.granted = true)
  ∧ ∀ s (e : RestoreEv) v, (s.context e.ctx).saved[e.idx]? = some v → s.canRestore e.ctx v e.slot = true →
    v.mreqs = [] → v.crew.trap.pending = [] → Lanes v.crew →
    NoLoopEnd (s.context v.crew.id.ctx) (BitVec.allOnes 64) v.crew →
    ∃ t k, exec (.crewRestore e) s = .next t ∧ v ∉ (t.context e.ctx).saved ∧ t.crew? v.core e.slot = some k
      ∧ k.id.crewId = v.crew.id.crewId ∧ k.id.block = v.crew.id.block ∧ k.id.age = s.serial
      ∧ k.trap = v.crew.trap ∧ k.copy = v.crew.copy ∧ (∀ l u, v.crew.thread? l = some u → u.st = .ready →
        ∃ t', k.thread? l = some t' ∧ t'.st = .ready ∧ StaysAs u t'
          ∧ t'.nextA = s.coreCycle v.core + u.nextA ∧ t'.nextB = s.coreCycle v.core + u.nextB)
      ∧ ∀ l u n o, v.crew.thread? l = some u → u.st = .parked (.entry n o) →
        ((s.core v.core).entry e.ctx n).desc.st ≠ .rebuild →
        ∃ t', k.thread? l = some t' ∧ t'.st = .ready ∧ StaysAs u t' ∧ t'.nextA = s.coreCycle v.core

/-- R321, R323: a checkpoint that is due holds the context's crews, its entries and its queues, and its crews stand in
their slots again; a replay goes back to the newest checkpoint at which the crew had not passed the count, memory
being rolled back by the journal; `rstep` goes to one retirement before the stopped crew's. -/
def Obligations.CheckpointAndReplay : Prop :=
  (∀ s ctx, (tget? s.contexts ctx).isSome = true → s.ckptDue ctx = true → (∀ c, Sorted (s.core c).slots) →
    (∀ q, ((s.quad q).table.map (·.serial)).Nodup) →
    let x := s.context ctx
    ∃ t k, exec (.checkpoint ctx) s = .next t ∧ (t.context ctx).ckpts = k :: x.sealNewest ∧ k.taken = s.tick
      ∧ k.queues = x.queues
      ∧ (∀ c y, tget? s.cores c = some y → (tget? k.layouts c).map (fun es => es.map fun p => (p.1, p.2.desc))
        = some ((y.layout.filter fun p => decide (p.1 / 256 = ctx)).map fun p => (p.1, p.2.desc)))
      ∧ ∀ r k0, s.crew? r.core r.slot = some k0 → k0.id.ctx = ctx →
        (∀ slot k1, slot ≠ r.slot → s.crew? r.core slot = some k1 → k1.id.ctx = ctx → k1.id.crewId ≠ k0.id.crewId) →
        (∃ v ∈ k.crews, SavedAs s r k0 v)
        ∧ ((∀ v ∈ x.saved, ¬ (v.core = r.core ∧ v.crew.id.crewId = k0.id.crewId)) →
          ∃ k1, t.crew? r.core r.slot = some k1 ∧ k1.id = k0.id ∧ k1.evict = k0.evict))
  ∧ (∀ s ctx crew target j k, (s.context ctx).ckptFor crew target = some j → (s.context ctx).ckpts[j]? = some k →
    (s.context ctx).killed = false → (∀ p ∈ s.cores, p.2.takesCkpt k ctx p.1 = true) →
    ∃ t, exec (.replay ctx crew target) s = .next t ∧ (t.context ctx).saved = k.crews
      ∧ (∀ c, ∀ p ∈ (t.core c).slots, p.2.id.ctx ≠ ctx)
      ∧ ((t.context ctx).ckpts.head?).map (·.taken) = some k.taken
      ∧ ((t.context ctx).replaying).map (fun r => (r.crew, r.target, r.mismatch)) = some (crew, target, none)
      ∧ (j = 0 → s.MemWf → s.device.held = [] → ((t.context ctx).replaying).map (·.todo) = some (s.context ctx).log
        ∧ ∀ a, Memory.read t.globalMem a = if a ∈ (s.context ctx).journalKeys then
          Memory.read (s.context ctx).journal a else Memory.read s.globalMem a))
  ∧ (∀ s ctx crew target, (s.context ctx).ckptFor crew target = none → exec (.replay ctx crew target) s = .next s)
  ∧ ∀ s ctx r k, s.device.session.attached = some ctx → Stopped s r k → k.id.ctx = ctx → k.counts.retired ≠ 0 →
    exec (.rstep ctx) s = exec (.replay ctx k.id.crewId (k.counts.retired - 1)) s

/-- R220, R328, R329, R331, R338 to R340: an Ettil write changes device memory, once no migration copies its tile; a link
goes to Ettil mode where both ends and the tests allow it, else it is reported, and a retrain is counted in the field
data; an image with both signatures and an owner's key goes to the standby complex, which takes over once it is booted
and has the state table, unless a saved record is too old for it and the change is not forced, and the old complex is
the standby then; held tail writes are served after it; an ownership transfer clears the owner's keys, and what was
accepted under them.
R341 to R343: the module starts through SAFE and BRINGUP to READY, where every bank is LIT and CAPCTL is reset; a
failed test keeps it in SAFE. It goes down to the lowest state that the host's tolerance allows, once its work allows
it. In NAP every core's TARGET is what is pinned, and the way back restores CAPCTL; DOZE takes every entry and spills the
tile banks, and the way back resets CAPCTL; a state is left once something has woken the module, and held tail writes are
served then. -/
def Obligations.PackageMoves : Prop :=
  ((∀ s (e : EttilEv), s.device.start.stage = .ready → e.node < 1024 → e.offset + e.bytes.length ≤ 2 ^ 48 →
    (∀ p ∈ s.contexts, p.2.ccb.qtBase = e.handle → 32 * p.2.ccb.nq ≤ e.offset) →
    let a := gaddr e.handle e.offset
    ∃ t, exec (.ettilWrite e) s = .next t
      ∧ (t.cores, t.quads, t.dies, t.launches, t.blocks) = (s.cores, s.quads, s.dies, s.launches, s.blocks)
      ∧ (s.device.power.state ≠ .active → t.device.power.woken = true)
      ∧ (s.MemWf → s.inMove a e.bytes.length = false →
        (∀ i b, e.bytes[i]? = some b → Memory.read t.globalMem (a + i) = b)
          ∧ ∀ x, (x < a ∨ a + e.bytes.length ≤ x) → Memory.read t.globalMem x = Memory.read s.globalMem x)
      ∧ (s.inMove a e.bytes.length = true → t.globalMem = s.globalMem
        ∧ t.device.held = s.device.held ++ [(a, e.bytes)]))
  ∧ (∀ s link both ok, link < 36 → s.device.start.stage ≠ .safe → ∃ t l, exec (.linkTraining link both ok) s = .next t
    ∧ tget? t.device.links link = some l ∧ l.trained = true ∧ l.ettil = (both && ok) ∧ l.reported = !(both && ok)
    ∧ ((both && ok) = false → t.device.reports = s.device.reports ++ [.standardMode link]))
  ∧ (∀ s link l, link < 36 → tget? s.device.links link = some l → l.trained = true →
    ∃ t, exec (.linkRetrain link) s = .next t ∧ tget? t.device.links link = some { l with retrains := l.retrains + 1 }
      ∧ tget 0 t.device.field.retrains link = tget 0 s.device.field.retrains link + 1)
  ∧ (∀ s (e : ImageEv), s.device.firmware.quiesced = false → ∃ t, exec (.imageVerify e) s = .next t
    ∧ (e.makerSig = true ∧ e.ownerSig = true ∧ s.device.firmware.ownerKeys ≠ [] →
      t.device.firmware = { s.device.firmware with
        standby := some (e.image, e.version), verified := true, booted := false, exported := false
        measured := s.device.firmware.measured ++ [e.digest] })
    ∧ (¬ (e.makerSig = true ∧ e.ownerSig = true ∧ s.device.firmware.ownerKeys ≠ []) →
      t.device.firmware = { s.device.firmware with log := s.device.firmware.log ++ [e.image] }))
  ∧ (∀ s, ∃ t, exec .ownershipTransfer s = .next t ∧ t.device.firmware = { s.device.firmware with
    ownerKeys := [], verified := false, booted := false, exported := false })
  ∧ (∀ s key, ∃ t, exec (.ownerKeyEnrollment key) s = .next t ∧ key ∈ t.device.firmware.ownerKeys
    ∧ ∀ k ∈ s.device.firmware.ownerKeys, k ∈ t.device.firmware.ownerKeys)
  ∧ (∀ s x, s.device.firmware.standby = some x → s.device.firmware.verified = true →
    ∃ t, exec (.liveUpdate .boot) s = .next t
      ∧ t.device.firmware = { s.device.firmware with booted := true } ∧ t.contexts = s.contexts)
  ∧ (∀ s, s.device.firmware.verified = false → exec (.liveUpdate .boot) s = .next s)
  ∧ (∀ s x, s.device.firmware.standby = some x → s.device.firmware.booted = true →
    ∃ t, exec (.liveUpdate .exportState) s = .next t ∧ t.device.firmware = { s.device.firmware with exported := true }
      ∧ t.contexts = s.contexts)
  ∧ (∀ s forced image version, s.device.firmware.standby = some (image, version) → s.device.firmware.exported = true →
    s.device.firmware.quiesced = false → s.device.firmware.ownerKeys ≠ [] →
    let old := fun (x : Context) => ∃ v ∈ x.saved, v.version + 1 < version
    ((∀ p ∈ s.contexts, ¬ old p.2) → ∃ t, exec (.liveUpdate (.takeOver forced)) s = .next t
      ∧ t.device.firmware = { s.device.firmware with
          image := image, version := version, standby := some (s.device.firmware.image, s.device.firmware.version)
          verified := false, booted := false, exported := false, quiesced := true } ∧ t.contexts = s.contexts)
    ∧ ((∃ p ∈ s.contexts, old p.2) → forced = false → exec (.liveUpdate (.takeOver forced)) s = .next s)
    ∧ (∀ c, forced = true → (∃ x, (c, x) ∈ s.contexts ∧ old x) → ∃ t, exec (.liveUpdate (.takeOver forced)) s = .next t
      ∧ t.device.firmware.image = image ∧ t.device.firmware.version = version ∧ (t.context c).saved = []
      ∧ ∀ p ∈ t.launches, p.2.ctx = c → p.2.completed = true))
  ∧ (∀ s forced, s.device.firmware.ownerKeys = [] → exec (.liveUpdate (.takeOver forced)) s = .next s)
  ∧ (∀ s (r : QueueRef) (tail : BitVec 16), s.device.firmware.quiesced = true → s.device.firmware.heldTails = [(r, tail)] →
    let f : Firmware := { s.device.firmware with quiesced := false, heldTails := [] }
    let d : Device := { s.device with firmware := f }
    exec (.liveUpdate .serve) s = .next (({ s with device := d }).writeTail r tail))
  ∧ ∀ s x, s.device.firmware.standby = some x → s.device.firmware.quiesced = false →
    ∃ t, exec (.liveUpdate .fail) s = .next t ∧ t.device.firmware.standby = none
      ∧ t.device.firmware.image = s.device.firmware.image ∧ t.device.firmware.version = s.device.firmware.version)
  ∧ ((∀ s ok, ∃ t, exec (.packageReset .safe ok) s = .next t ∧ t.device.start = ⟨.safe, false⟩ ∧ t.contexts = []
    ∧ t.launches = [] ∧ t.blocks = [] ∧ ∀ c, c < 256 → (t.core c).slots = [] ∧ (t.core c).layout = []
      ∧ ∀ b, b < 64 → (t.core c).bank b = .dark)
  ∧ (∀ s ok, s.device.start.stage = .safe →
    (s.device.start.failed = false → ∃ t, exec (.packageReset .bringup ok) s = .next t ∧ t.device.start.stage = .bringup)
    ∧ (s.device.start.failed = true → exec (.packageReset .bringup ok) s = .next s))
  ∧ (∀ s, s.device.start.stage = .bringup →
    (∃ t, exec (.packageReset .ready true) s = .next t ∧ t.device.start = ⟨.ready, false⟩
      ∧ ∀ c, c < 256 → (∀ b, (t.core c).bank b = .lit) ∧ (t.core c).cap = CapSt.reset)
    ∧ ∃ t, exec (.packageReset .ready false) s = .next t ∧ t.device.start = ⟨.safe, true⟩
      ∧ t.device.reports = s.device.reports ++ [.failed])
  ∧ (∀ s, s.device.start.stage = .ready → s.device.power.state = .active → 2 ≤ s.device.power.tolerance →
    (¬ AllIdle s ∨ s.device.power.tolerance < 50) →
    ∃ t, exec (.powerStateEntry .idle) s = .next t ∧ t.device.power.state = .idle ∧ t.device.power.woken = false
      ∧ t.cores = s.cores ∧ t.contexts = s.contexts)
  ∧ (∀ s, AllIdle s → 50 ≤ s.device.power.tolerance → s.device.power.tolerance < 2000 →
    ∃ t, exec (.powerStateEntry .nap) s = .next t ∧ t.device.power.state = .nap
      ∧ ∀ c, c < 256 → (t.core c).cap.target = (s.core c).nPinned ∧ (t.core c).cap.pending = true
        ∧ (t.core c).cap.pinq = (s.core c).cap.pinq ∧ (t.core c).cap.force = (s.core c).cap.force
        ∧ tget? t.device.power.kept c = some (s.core c).cap ∧ (t.quad (quadOf c)).want = 7)
  ∧ (∀ s, AllIdle s → 2000 ≤ s.device.power.tolerance →
    ∃ t, exec (.powerStateEntry .doze) s = .next t ∧ t.device.power.state = .doze
      ∧ (∀ c, c < 256 → (t.core c).cells = [] ∧ (∀ b, b < 64 → (t.core c).bank b = .dark)
        ∧ ∀ p ∈ (t.core c).layout, p.2.desc.st = .lost ∨ p.2.desc.st = .free ∨ p.2.desc.isGlobal = true)
      ∧ ∀ q x c, tget? s.quads q = some x → (∀ p ∈ s.quads, p.1 = q → p.2 = x) →
        (tget? s.contexts c).isSome = true → ∀ b, x.banks.filter (fun y => decide (y.use = .bound c)) = [b] →
        tget? (t.context c).savedTiles q = some { b with use := .free } ∧ ∀ y ∈ (t.quad q).banks, y.use ≠ .bound c)
  ∧ (∀ s ok, s.device.power.woken = false → exec (.powerStateExit ok) s = .next s)
  ∧ (∀ s c, c < 256 → s.device.power.state = .nap → s.device.power.woken = true → s.device.power.heldTails = [] →
    Sorted s.device.power.kept →
    ∀ k, tget? s.device.power.kept c = some k → ∃ t, exec (.powerStateExit true) s = .next t
      ∧ t.device.power.state = .active ∧ (t.core c).cap = { k with pending := true })
  ∧ (∀ s, s.device.power.state = .doze → s.device.power.woken = true → s.device.power.heldTails = [] →
    (∃ t, exec (.powerStateExit true) s = .next t ∧ t.device.power.state = .active
      ∧ ∀ c, c < 256 → (t.core c).cap = CapSt.reset)
    ∧ ∃ t, exec (.powerStateExit false) s = .next t ∧ t.device.start = ⟨.safe, true⟩)
  ∧ ∀ s ok (r : QueueRef) (tail : BitVec 16), s.device.power.state = .idle → s.device.power.woken = true →
    s.device.firmware.quiesced = false → s.device.power.heldTails = [(r, tail)] →
    let p : PowerSt := { s.device.power with state := .active, woken := false, kept := [], heldTails := [] }
    let d : Device := { s.device with power := p }
    exec (.powerStateExit ok) s = .next (({ s with device := d }).writeTail r tail))

/-- R11, R323, R346, R347, R349, R352, R353, R356, R357, R360: `run` places a kernel, its data images and its record,
whose words are the kernel's parameters, or it resumes the stopped crews; `break` sets a breakpoint, `step` lets the
stopped crew retire n instructions, `focus` restricts the session to a block; `hold copy`, `release copy`, `cap` and
`cap auto` write the core of the crew that stopped last; `tags`, `tokens`, `where` and `print` print and change nothing
else. -/
def Obligations.DebuggerCommands : Prop :=
  (∀ s (e : RunEv), s.queueOpen ⟨e.ctx, e.queue⟩ = true → s.device.session.attached = some e.ctx →
    s.device.power.state = .active → s.device.firmware.quiesced = false →
    let q := (s.context e.ctx).queue e.queue
    let slot := gaddr q.base (2048 * (q.tail % 2 ^ q.slog))
    let words := e.params ++ e.images.flatMap fun x =>
      [(x.sreg, BitVec.ofNat 32 x.handle.toNat), (x.sreg + 1, BitVec.ofNat 32 (x.handle.toNat / 2 ^ 32))]
    words.length ≤ 32 → s.inMove slot 2048 = false → s.MemWf → Memory.wf (s.context e.ctx).code = true →
    ∃ u : State, exec (.run (some e)) s = .next (u.writeTail ⟨e.ctx, e.queue⟩ (BitVec.ofNat 16 (q.tail + 1)))
      ∧ (u.context e.ctx).codeBase = 0x4000 ∧ (u.context e.ctx).codeSize = e.code.length
      ∧ (∀ i b, e.code[i]? = some b → Memory.read (u.context e.ctx).code (0x4000 + i) = b)
      ∧ u.device.session.labels = e.labels ∧ u.device.session.ran = some (e.ctx, e.queue)
      ∧ (let r := parseRecord (leNat (Memory.readN u.globalMem slot 2048))
        r.kind = 0 ∧ r.code = 0x4000 ∧ r.fpctl.toNat = e.fpctl.toNat
          ∧ ∀ (i n : Nat) (w : Word), words[i]? = some (n, w) → r.pidx[i]? = some (n % 256) ∧ r.pval[i]? = some w)
      ∧ ∀ x, e.images = [x] → s.inMove (gaddr x.handle 0) x.bytes.length = false → ∀ i b, x.bytes[i]? = some b →
        (gaddr x.handle i < slot ∨ slot + 2048 ≤ gaddr x.handle i) → Memory.read u.globalMem (gaddr x.handle i) = b)
  ∧ (∀ s, ∃ t, exec (.run none) s = .next t ∧ t.device.session.stops = []
    ∧ (∀ c slot k, s.crew? c slot = some k → Lanes k → GoOn t ⟨c, slot⟩ k)
    ∧ ∀ x ∈ s.device.session.caps, x.armed = false →
      { x with tick := s.tick + x.tick, armed := true } ∈ t.device.session.caps)
  ∧ (∀ s pc, s.device.session.attached.isSome = true → ∃ t, exec (.breakAt pc) s = .next t
    ∧ (∀ p, p ∈ t.device.session.breaks ↔ p = pc ∨ p ∈ s.device.session.breaks) ∧ t.cores = s.cores)
  ∧ (∀ s x y, s.device.session.attached.isSome = true → ∃ t, exec (.focus x y) s = .next t
    ∧ t.device.session.focus = some (x, y) ∧ t.cores = s.cores)
  ∧ (∀ s r k n, Stopped s r k → Lanes k → ∃ t, exec (.step n) s = .next t ∧ GoOn t r k
    ∧ t.device.session.stops.head? = some ⟨r, some (k.counts.retired + n)⟩
    ∧ (∀ x, x.ref ≠ r → (x ∈ t.device.session.stops ↔ x ∈ s.device.session.stops))
    ∧ ∀ x ∈ s.device.session.caps, x.armed = false →
      { x with tick := s.tick + x.tick, armed := true } ∈ t.device.session.caps)
  ∧ (∀ s r age, s.device.session.speaks = some (r, age) →
    CoreOnly .holdCopy s r.core (fun c => { c with holdCopy := true })
    ∧ CoreOnly .releaseCopy s r.core (fun c => { c with holdCopy := false, reqs := c.reqs.map fun q =>
        if q.startable then { q with inTurn := true } else q })
    ∧ (∀ n, n ≤ 64 → CoreOnly (.cap n none) s r.core fun c =>
      { c with cap := { c.cap with target := n, force := true, pending := true } })
    ∧ (∀ n time, ∃ t, exec (.cap n (some time)) s = .next t ∧ t.cores = s.cores
      ∧ t.device.session.caps = s.device.session.caps ++ [⟨r.core, n, time, false⟩])
    ∧ CoreOnly .capAuto s r.core (fun c => { c with cap := { c.cap with force := false } }))
  ∧ (∀ s r age k, s.device.session.speaks = some (r, age) → s.crew? r.core r.slot = some k → k.id.age = age →
    let x := (s.core r.core).tok
    Prints .tokens s [.wide (x.level + 2 ^ 12 * x.tkcap + 2 ^ 24 * k.hungry.toNat + 2 ^ 25 * x.holds.toNat
      + 2 ^ 26 * (s.earmarked r.core k).toNat), .wide (k.counts.cntr.getD 5 0)])
  ∧ (∀ s r age, s.device.session.speaks = some (r, age) → ∃ xs, Prints .banks s xs
    ∧ ∀ b, b < 64 → (∃ p ∈ (s.core r.core).layout, p.2.holdsCells = true ∧ p.2.touches b = true) →
      ∃ es, .list (b :: ((s.core r.core).bank b).code :: (s.core r.core).protect b :: es) ∈ xs
        ∧ ∀ n, n ∈ es ↔ ∃ p ∈ (s.core r.core).layout, p.2.holdsCells = true ∧ p.2.touches b = true ∧ p.1 % 256 = n)
  ∧ (∀ s r k, Stopped s r k → Prints .tags s
    ((List.range 8).map (fun t =>
      let x := tget { ids := [], loss := false, fault := false } k.copy.tags t
      .list [t, min 63 x.ids.length, x.loss.toNat, x.fault.toNat])
    ++ [.wide (((s.core r.core).reqs.filter fun q =>
          q.deferred && decide (q.ctx = k.id.ctx) && decide (q.crewId = k.id.crewId)).length
        + 2 ^ 11 * k.copy.oloss.toNat + 2 ^ 12 * k.copy.ofault.toNat + 2 ^ 13 * k.copy.oref.toNat),
      .wide k.copy.word]))
  ∧ (∀ s r k, Stopped s r k → ∃ ls, Prints .whereCmd s ([.word k.pcNow] ++ ls
      ++ [.list (if k.trap.handling = true then [1, k.trap.frame.cls, k.trap.hact.toNat] else [0])])
    ∧ ((∀ a ∈ s.device.session.labels, k.pcNow.toNat < a.toNat) → ls = [])
    ∧ ∀ (i : Nat) (a : Word), s.device.session.labels[i]? = some a → a.toNat ≤ k.pcNow.toNat →
      (∀ (j : Nat) (b : Word), s.device.session.labels[j]? = some b → j ≠ i → b.toNat ≤ k.pcNow.toNat → b.toNat < a.toNat) →
      ls = [.list [i, k.pcNow.toNat - a.toNat]])
  ∧ (∀ s r k f, Stopped s r k → s.watched k = true → ∃ xs, Prints (.print f) s xs
    ∧ (∀ n lo hi, f = .v n (some (lo, hi)) → n.toNat < k.id.vallot → (∀ l, lo ≤ l → l ≤ hi → (k.thread? l).isSome = true) →
      xs = [.list ((List.range (hi + 1 - lo)).map fun i =>
        ((k.thread? (lo + i)).map fun t => (t.read n.toNat).toNat).getD 0)])
    ∧ (∀ n, f = .v n none → n.toNat < k.id.vallot → Sorted k.threads →
      xs = [.list (k.threads.map fun p => (p.2.read n.toNat).toNat)])
    ∧ (∀ n lanes, f = .v n lanes → k.id.vallot ≤ n.toNat → xs = [])
    ∧ (∀ n l t, f = .p n (some l) → k.thread? l = some t → xs = [.list [(t.read (pKey n)).toNat]])
    ∧ (∀ n, f = .p n none → ∃ on off, xs = [.list on, .list off]
      ∧ (∀ l, l ∈ on ↔ l < 64 ∧ ∃ t, k.thread? l = some t ∧ t.read (pKey n) = 1)
      ∧ (∀ l, l ∈ off ↔ l < 64 ∧ ∃ t, k.thread? l = some t ∧ t.read (pKey n) ≠ 1))
    ∧ (∀ n t, f = .s n → n.toNat < 192 → k.thread? k.readLane = some t → xs = [.word (t.read (256 + n.toNat))])
    ∧ (∀ n, f = .s n → 192 ≤ n.toNat → xs = [])
    ∧ (∀ code t, f = .special code → k.thread? k.readLane = some t →
      xs = if specialAssigned code then [.wide (s.special r.core k.readLane k t code.toNat)] else [])
    ∧ (∀ st, f = .capq st → xs = [.word ((s.core r.core).capWord st)])
    ∧ (let e := fun (n : BitVec 8) => ((s.core r.core).entry k.id.ctx n.toNat).desc
      let at' := fun (n : BitVec 8) (c : List Nat) =>
        let p := s.port r.core k.id.ctx (e n)
        p.elem (s.memOf p s.globalMem) (e n) c
      (∀ n, f = .entry n [] → (e n).st = .lost → xs = [.unavailable])
      ∧ (∀ n, f = .entry n [] → (e n).st ≠ .lost → (e n).st ≠ .free → (∀ x ∈ (e n).exts, x ≠ 0) →
        xs = [.list ((List.range ((e n).exts.foldl (· * ·) 1)).map fun i => at' n (coordOf (e n).exts i))])
      ∧ ∀ n before lo hi after, let one := fun (x : Nat) => (x, x)
        f = .entry n (before.map one ++ (lo, hi) :: after.map one) → (e n).st ≠ .lost → (e n).st ≠ .free →
        before.length + after.length + 1 = (e n).exts.length →
        if lo ≤ hi ∧ (e n).inBounds (before ++ hi :: after) = true then
          xs = [.list ((List.range (hi + 1 - lo)).map fun i => at' n (before ++ (lo + i) :: after))]
        else xs = [])
    ∧ (∀ h w lo hi, f = .image h w lo hi →
      (∃ c, s.device.session.attached = some c ∧ ∃ a ∈ (s.context c).allocs, a.handle = h ∧ w * (hi + 1) ≤ a.size) →
      xs = [.list ((List.range (hi + 1 - lo)).map fun i => leNat (Memory.readN s.globalMem (gaddr h (w * (lo + i))) w))])
    ∧ (∀ b key x, f = .barrier b → s.bar? k.id.block b.toNat = some (key, x) →
      xs = [.list [x.level, x.opened, x.arrivals (x.opened + 1), x.expected]])
    ∧ ∀ n, f = .ltState n → xs = [.word ((s.core r.core).entry k.id.ctx n.toNat).ltqWord,
      .list [((s.core r.core).entry k.id.ctx n.toNat).revived.toNat]])
  ∧ ∀ s r k f, Stopped s r k → s.watched k = false → (∀ h w lo hi, f ≠ .image h w lo hi) → Prints (.print f) s []
end

