-- ==== Sys2Proof/Laws/Mask.lean ====
section
/-! SUPPORT. Lane masks and lists of lanes (N54). -/

namespace Sys2Proof.Machine

theorem mem_lanesOf (m : Mask) (l : Nat) : l ∈ lanesOf m ↔ m.getLsbD l = true := by
  simp only [lanesOf, List.mem_filter, List.mem_range]
  constructor
  · exact fun h => h.2
  · intro h
    refine ⟨?_, h⟩
    by_contra hl
    rw [BitVec.getLsbD_of_ge m l (by omega)] at h
    exact absurd h (by simp)

theorem getLsbD_laneBit (l i : Nat) (hi : i < 64) : (laneBit l).getLsbD i = decide (i = l) := by
  simp only [laneBit, BitVec.getLsbD_ofNat, hi, decide_true, Bool.true_and, Nat.testBit_two_pow]
  simp [eq_comm]

theorem getLsbD_foldl_laneBit (ls : List Nat) (m : Mask) (i : Nat) (hi : i < 64) :
    (ls.foldl (fun m l => m ||| laneBit l) m).getLsbD i = (m.getLsbD i || decide (i ∈ ls)) := by
  induction ls generalizing m with
  | nil => simp
  | cons l ls ih =>
    rw [List.foldl_cons, ih]
    simp only [BitVec.getLsbD_or, getLsbD_laneBit l i hi, List.mem_cons, Bool.decide_or, Bool.or_assoc]

theorem getLsbD_maskOf (ls : List Nat) (i : Nat) (hi : i < 64) :
    (maskOf ls).getLsbD i = decide (i ∈ ls) := by
  rw [maskOf, getLsbD_foldl_laneBit ls 0 i hi]
  simp

theorem getLsbD_lt {m : Mask} {l : Nat} (h : m.getLsbD l = true) : l < 64 := by
  by_contra hl
  rw [BitVec.getLsbD_of_ge m l (by omega)] at h
  exact absurd h (by simp)

theorem getLsbD_maskFilter (m : Mask) (p : Nat → Bool) (i : Nat) :
    (maskFilter m p).getLsbD i = (m.getLsbD i && p i) := by
  by_cases hi : i < 64
  · rw [maskFilter, getLsbD_maskOf _ i hi]
    simp only [List.mem_filter, mem_lanesOf, Bool.decide_and, Bool.decide_eq_true]
  · rw [BitVec.getLsbD_of_ge _ i (by omega), BitVec.getLsbD_of_ge m i (by omega)]
    rfl

theorem mask_ext {a b : Mask} (h : ∀ l, a.getLsbD l = b.getLsbD l) : a = b :=
  BitVec.eq_of_getLsbD_eq fun i _ => h i

theorem maskFilter_self (m : Mask) (p : Nat → Bool) (h : ∀ l, m.getLsbD l = true → p l = true) :
    maskFilter m p = m := by
  apply mask_ext
  intro l
  rw [getLsbD_maskFilter]
  cases hm : m.getLsbD l
  · rfl
  · simp [h l hm]

theorem maskFilter_none (m : Mask) (p : Nat → Bool) (h : ∀ l, m.getLsbD l = true → p l = false) :
    maskFilter m p = 0 := by
  apply mask_ext
  intro l
  rw [getLsbD_maskFilter]
  cases hm : m.getLsbD l
  · simp
  · simp [h l hm]

/-- The lowest lane of a set that is not empty is one of its lanes. -/
theorem lowest_mem {m : Mask} {l : Nat} (h : (lanesOf m).head? = some l) : m.getLsbD l = true := by
  rw [← mem_lanesOf]
  exact List.mem_of_mem_head? h

theorem lanesOf_ne_nil {m : Mask} (h : m ≠ 0) : lanesOf m ≠ [] := by
  intro hn
  apply h
  apply mask_ext
  intro l
  cases hl : m.getLsbD l
  · simp
  · rw [← mem_lanesOf, hn] at hl
    exact absurd hl (by simp)

end Sys2Proof.Machine
end

