-- ==== Sys2Proof/Laws/Tab.lean ====
section
/-! SUPPORT. What the table operations do: reads after writes, and that a second write of a key replaces
the first. -/

namespace Sys2Proof.Machine

theorem tget?_tset_same {α : Type} (t : Tab α) (i : Nat) (v : α) : tget? (tset t i v) i = some v := by
  induction t with
  | nil => simp [tset, tget?]
  | cons p t ih =>
    obtain ⟨k, w⟩ := p
    simp only [tset]
    split
    · simp [tget?]
    · split
      · simp [tget?]
      · rename_i h1 h2
        simp [tget?, h1, h2, ih]

theorem tget?_tset_ne {α : Type} (t : Tab α) {i j : Nat} (v : α) (h : j ≠ i) :
    tget? (tset t i v) j = tget? t j := by
  induction t with
  | nil => simp only [tset, tget?]; split <;> first | omega | (split <;> rfl)
  | cons p t ih =>
    obtain ⟨k, w⟩ := p
    simp only [tset]
    split
    · subst k
      simp [tget?, Ne.symm h]
    · split
      · rename_i h1 h2
        simp only [tget?]
        by_cases hj : j < i
        · have h3 : k ≠ j := by omega
          have h4 : j < k := by omega
          simp [Ne.symm h, hj, h3, h4]
        · simp [Ne.symm h, hj]
      · simp only [tget?, ih]

theorem tset_tset {α : Type} (t : Tab α) (i : Nat) (v w : α) : tset (tset t i v) i w = tset t i w := by
  induction t with
  | nil => simp [tset]
  | cons p t ih =>
    obtain ⟨k, x⟩ := p
    simp only [tset]
    split
    · simp [tset]
    · split
      · simp [tset]
      · rename_i h1 h2
        simp [tset, h1, h2, ih]

theorem tset_self {α : Type} (t : Tab α) (i : Nat) (v : α) (h : tget? t i = some v) : tset t i v = t := by
  induction t with
  | nil => simp [tget?] at h
  | cons p t ih =>
    obtain ⟨k, x⟩ := p
    simp only [tget?] at h
    split at h
    · simp_all [tset]
    · split at h
      · simp at h
      · rename_i h1 h2
        simp [tset, h1, h2, ih h]

theorem tget?_tmap {α : Type} (t : Tab α) (f : Nat → α → α) (i : Nat) :
    tget? (tmap t f) i = (tget? t i).map (f i) := by
  induction t with
  | nil => rfl
  | cons p t ih =>
    obtain ⟨k, x⟩ := p
    simp only [tmap, List.map_cons, tget?] at ih ⊢
    split
    · subst k; rfl
    · split
      · rfl
      · exact ih

theorem tget?_tmod_same {α : Type} (t : Tab α) (i : Nat) (f : α → α) :
    tget? (tmod t i f) i = (tget? t i).map f := by
  unfold tmod
  cases h : tget? t i with
  | none => simp [h]
  | some v => simp [tget?_tset_same]

theorem tget?_tmod_ne {α : Type} (t : Tab α) {i j : Nat} (f : α → α) (h : j ≠ i) :
    tget? (tmod t i f) j = tget? t j := by
  unfold tmod
  cases tget? t i with
  | none => rfl
  | some v => exact tget?_tset_ne t _ h

theorem tmod_tmod {α : Type} (t : Tab α) (i : Nat) (f f' : α → α) :
    tmod (tmod t i f) i f' = tmod t i (f' ∘ f) := by
  unfold tmod
  cases h : tget? t i with
  | none => simp [h]
  | some v => simp [tget?_tset_same, tset_tset]

theorem tget?_mem {α : Type} (t : Tab α) (i : Nat) (v : α) (h : tget? t i = some v) : (i, v) ∈ t := by
  induction t with
  | nil => simp [tget?] at h
  | cons p t ih =>
    obtain ⟨k, x⟩ := p
    simp only [tget?] at h
    split at h
    · simp_all
    · split at h
      · simp at h
      · exact List.mem_cons_of_mem _ (ih h)

theorem tmap_id {α : Type} (t : Tab α) (f : Nat → α → α) (h : ∀ p ∈ t, f p.1 p.2 = p.2) : tmap t f = t := by
  induction t with
  | nil => rfl
  | cons p t ih =>
    obtain ⟨k, x⟩ := p
    simp only [tmap, List.map_cons] at ih ⊢
    rw [h (k, x) (by simp), ih fun p hp => h p (List.mem_cons_of_mem _ hp)]

theorem tmap_tmap {α : Type} (t : Tab α) (f f' : Nat → α → α) :
    tmap (tmap t f) f' = tmap t fun i x => f' i (f i x) := by
  simp [tmap]

theorem tget_tset_same {α : Type} (d : α) (t : Tab α) (i : Nat) (v : α) : tget d (tset t i v) i = v := by
  simp [tget, tget?_tset_same]

theorem tget_tset_ne {α : Type} (d : α) (t : Tab α) {i j : Nat} (v : α) (h : j ≠ i) :
    tget d (tset t i v) j = tget d t j := by
  simp [tget, tget?_tset_ne t v h]

end Sys2Proof.Machine
end

