-- ==== Sys2Proof/Laws/Issue.lean ====
section
/-! SUPPORT. The gate of an instruction (R308): where every check of it passes, the instruction's own effect
begins in `State.begun`. -/

namespace Sys2Proof.Machine

theorem core_setCore (s : State) (c : Nat) (x : Core) : (s.setCore c x).core c = x := by
  simp [State.core, State.setCore, tget, tget?_tset_same]

theorem core_setCore_ne (s : State) {c d : Nat} (x : Core) (h : d ≠ c) : (s.setCore c x).core d = s.core d := by
  simp [State.core, State.setCore, tget, tget?_tset_ne _ _ h]

theorem core_modCore (s : State) (c : Nat) (f : Core → Core) : (s.modCore c f).core c = f (s.core c) :=
  core_setCore s c _

theorem core_modCore_ne (s : State) {c d : Nat} (f : Core → Core) (h : d ≠ c) :
    (s.modCore c f).core d = s.core d := core_setCore_ne s _ h

theorem modCore_modCore (s : State) (c : Nat) (f f' : Core → Core) :
    (s.modCore c f).modCore c f' = s.modCore c (f' ∘ f) := by
  simp only [State.modCore, core_setCore]
  simp [State.setCore, tset_tset]

/-- A core that lists a crew is itself listed. -/
theorem core_listed {s : State} {c slot : Nat} {k : Crew} (h : s.crew? c slot = some k) :
    tget? s.cores c = some (s.core c) := by
  unfold State.crew? State.core tget at *
  cases hc : tget? s.cores c with
  | none => rw [hc] at h; simp [Core.reset, Core.crew?, tget?] at h
  | some x => rfl

theorem setCore_self {s : State} {c : Nat} (h : tget? s.cores c = some (s.core c)) :
    s.setCore c (s.core c) = s := by
  simp [State.setCore, tset_self _ _ _ h]

theorem modCrew_of {s : State} {c slot : Nat} {k : Crew} (h : s.crew? c slot = some k) (f : Crew → Crew) :
    s.modCrew c slot f
      = s.setCore c { s.core c with slots := tset (s.core c).slots slot (f k) } := by
  have h' : tget? (s.core c).slots slot = some k := h
  simp [State.modCrew, State.modCore, tmod, h']

/-- A change that leaves the crew as it is leaves the machine as it is. -/
theorem modCrew_id {s : State} {c slot : Nat} {k : Crew} (h : s.crew? c slot = some k) (f : Crew → Crew)
    (hf : f k = k) : s.modCrew c slot f = s := by
  rw [modCrew_of h, hf, tset_self _ _ _ h, setCore_self (core_listed h)]

theorem crew?_modCrew (s : State) (c slot : Nat) (f : Crew → Crew) :
    (s.modCrew c slot f).crew? c slot = (s.crew? c slot).map f := by
  simp only [State.modCrew, State.crew?, core_modCore, Core.crew?, tget?_tmod_same]

theorem crew?_modCrew_slot (s : State) (c : Nat) {slot x : Nat} (f : Crew → Crew) (h : x ≠ slot) :
    (s.modCrew c slot f).crew? c x = s.crew? c x := by
  simp only [State.modCrew, State.crew?, core_modCore, Core.crew?, tget?_tmod_ne _ _ h]

theorem crew?_modCrew_core (s : State) {c d : Nat} (slot x : Nat) (f : Crew → Crew) (h : d ≠ c) :
    (s.modCrew c slot f).crew? d x = s.crew? d x := by
  simp only [State.modCrew, State.crew?, core_modCore_ne s _ h]

theorem modCrew_modCrew (s : State) (c slot : Nat) (f f' : Crew → Crew) :
    (s.modCrew c slot f).modCrew c slot f' = s.modCrew c slot (f' ∘ f) := by
  simp only [State.modCrew, modCore_modCore]
  congr 1
  funext x
  simp [tmod_tmod]

/-- Two changes that agree on the crew are one. -/
theorem modCrew_congr {s : State} {c slot : Nat} {k : Crew} (h : s.crew? c slot = some k) (f f' : Crew → Crew)
    (hf : f k = f' k) : s.modCrew c slot f = s.modCrew c slot f' := by
  rw [modCrew_of h, modCrew_of h, hf]

theorem modCrew_none {s : State} {c slot : Nat} (h : tget? (s.core c).slots slot = none) (f : Crew → Crew) :
    s.modCrew c slot f = s.setCore c (s.core c) := by
  simp [State.modCrew, State.modCore, tmod, h]

/-- Setting threads READY that are READY changes nothing. -/
theorem modLanes_ready {s : State} {c slot : Nat} {k : Crew} {m : Mask} (h : s.crew? c slot = some k)
    (hr : ∀ p ∈ k.threads, m.getLsbD p.1 = true → p.2.st = .ready) :
    (s.modLanes c slot m fun _ t => { t with st := .ready }) = s := by
  apply modCrew_id h
  unfold Crew.modLanes
  rw [tmap_id]
  intro p hp
  split
  · rename_i hm
    have := hr p hp hm
    cases hpt : p.2
    simp_all
  · rfl

theorem group_eta (g : Group) {m : List (Nat × Mask)} (h : g.parts = m) : ({ g with parts := m } : Group) = g := by
  subst h; rfl

variable {s : State} {i : Instr} {h : Hdr} {g : Group} {k : Crew} {price : Nat}

theorem Passes.partsByAge (hr : Passes s i h g k price) : s.partsByAge g = [(g.slot, g.mask)] := by
  unfold State.partsByAge
  rw [hr.parts]
  rfl

theorem Passes.thread_ready (hr : Passes s i h g k price) {l : Nat} {t : Thread} (hl : g.mask.getLsbD l = true)
    (ht : k.thread? l = some t) : t.st = .ready :=
  hr.ready (l, t) (tget?_mem _ _ _ ht) hl

/-- Live lanes of a crew. -/
theorem live_of_ready {k : Crew} {l : Nat} {t : Thread} (ht : k.thread? l = some t) (hs : t.st = .ready)
    (hl : l < 64) : k.live.getLsbD l = true := by
  unfold Crew.live Crew.lanesWhere
  rw [getLsbD_maskOf _ _ hl]
  simp only [decide_eq_true_eq, List.mem_map, List.mem_filter]
  exact ⟨(l, t), ⟨tget?_mem _ _ _ ht, by simp [Thread.live, hs]⟩, rfl⟩

theorem Passes.stallCheck (hr : Passes s i h g k price) : s.stallCheck i h g = (s, g) := by
  unfold State.stallCheck
  rw [hr.partsByAge]
  simp only [List.foldl_cons, List.foldl_nil, hr.crew, List.nil_append]
  rcases hr.early with he | he
  · rw [he, group_eta g hr.parts]
  · cases s.earlySource i h g g.slot g.mask
    · rw [group_eta g hr.parts]
    · simp only [he, Bool.not_false, if_true, group_eta g hr.parts]

/-- The state after the payment of a class-A group, or after none. -/
def State.paidFor (s : State) (i : Instr) (g : Group) : State :=
  let n := s.dueAt i g
  if n = 0 then s
  else (s.modCore g.core fun c => { c with tok := { c.tok with level := c.tok.level - n } }).modCrew g.core
    g.slot fun k => (k.addCntr 5 n).addCntr 1 1

theorem Passes.payGroup (hr : Passes s i h g k price) (hA : g.clsA = true) :
    s.payGroup g (gatePrice i) none = .go (s.paidFor i g) g := by
  unfold State.payGroup State.paidFor State.dueAt
  simp only [hA, if_true, hr.unpaid]
  by_cases hz : s.priceAt g.core (gatePrice i) = 0
  · simp [hz]
  · have hp : (s.core g.core).canPay g.slot (s.priceAt g.core (gatePrice i)) = true :=
      (hr.pays hA).resolve_left hz
    have ho : s.oldest g = g.slot := by unfold State.oldest; rw [hr.partsByAge]; rfl
    simp only [hz, Bool.false_eq_true, if_false, ho, DemandKind.party, hp, if_true, State.countWide, hr.parts,
      List.foldl_cons, List.foldl_nil]
    have hcrew : (s.modCore g.core fun c => { c with tok := { c.tok with
        level := c.tok.level - s.priceAt g.core (gatePrice i) } }).crew? g.core g.slot = some k := by
      simp only [State.crew?, core_modCore]; exact hr.crew
    rw [hcrew]
    simp only [State.countDebit, State.modOwner]
    have hown : ((s.modCore g.core fun c => { c with tok := { c.tok with
        level := c.tok.level - s.priceAt g.core (gatePrice i) } }).core g.core).slotOf? k.id.ctx k.id.crewId
        = some g.slot := by
      simp only [core_modCore]; exact hr.owner
    rw [hown]
    simp only [modCrew_modCrew]
    rfl

theorem Passes.gateTail (hr : Passes s i h g k price) (cost : State → Group → Nat) (hc : cost s g = price) :
    s.gateTail i h g cost = .go (s.paidFor i g) g := by
  unfold State.gateTail
  simp only [hc, hr.stallCheck]
  have h1 : ¬ (s.core g.core).tok.tkcap < price := by have := hr.price; omega
  have h2 : g.parts.isEmpty = false := by rw [hr.parts]; rfl
  simp only [h1, if_false, h2, Bool.false_eq_true]
  by_cases hA : g.clsA = true
  · simp [hA, hr.payGroup hA]
  · simp [hA, State.paidFor, State.dueAt]

theorem Passes.gateLoop (hr : Passes s i h g k price) (cost : State → Group → Nat) (hc : cost s g = price) :
    s.gateLoop i h g cost = .go (s.paidFor i g) g := by
  have hb := hr.buffer
  unfold State.gateLoop
  simp only [hr.parts, List.filter_cons, hr.crew, hb, Option.isNone_some, Bool.false_eq_true, if_false,
    List.filter_nil, List.foldl_cons, List.foldl_nil]
  have hid : (s.modCrew g.core g.slot fun k => (k.buffered g.pc).getD k) = s :=
    modCrew_id hr.crew _ (by simp [hb])
  simp only [hid, List.contains_nil, Bool.not_false, if_true, group_eta g hr.parts, hr.conv, List.isEmpty_cons,
    Bool.false_eq_true, if_false]
  exact hr.gateTail cost hc

theorem Passes.lowLane_mem (hr : Passes s i h g k price) : g.mask.getLsbD (lowLane g.mask) = true := by
  unfold lowLane
  cases hh : (lanesOf g.mask).head? with
  | none =>
    have := lanesOf_ne_nil hr.nonempty
    cases hx : lanesOf g.mask with
    | nil => exact absurd hx this
    | cons a b => rw [hx] at hh; simp at hh
  | some l => exact lowest_mem hh

/-- No READY lane waits anywhere. -/
theorem Passes.waitsAt (hr : Passes s i h g k price) {m : Mask} {st : TState} (pc : Word)
    (hm : ∀ l, m.getLsbD l = true → g.mask.getLsbD l = true) (hst : st ≠ .ready) :
    k.waitsAt m st pc = 0 := by
  apply maskFilter_none
  intro l hl
  obtain ⟨t, ht⟩ := hr.lanes l (hm l hl)
  simp [ht, hr.thread_ready (hm l hl) ht, Ne.symm hst]

theorem Passes.gather (hr : Passes s i h g k price) (mr : RegCode) (hm : i.maskPair = some mr) :
    s.gather h g mr = .go s g := by
  have hg := hr.gathered
  unfold Gathered at hg
  rw [hm] at hg
  simp only at hg
  have own : ∀ l, g.mask.getLsbD l = true → k.ownMask mr l = g.mask := by
    intro l hl
    obtain ⟨t, ht⟩ := hr.lanes l hl
    unfold Crew.ownMask
    rw [ht]; exact hg l t hl ht
  have hout : (maskFilter g.mask fun l => !(k.ownMask mr l).getLsbD l) = 0 := by
    apply maskFilter_none
    intro l hl
    rw [own l hl, hl]; rfl
  have hinn : g.mask &&& ~~~(0 : Mask) = g.mask := by
    apply mask_ext; intro l
    cases hb : g.mask.getLsbD l
    · simp [hb]
    · simp only [BitVec.getLsbD_and, BitVec.getLsbD_not, hb, getLsbD_lt hb, Bool.true_and, decide_true,
        BitVec.ofNat_eq_ofNat, BitVec.getLsbD_zero, Bool.not_false]
  have hsame : (maskFilter g.mask fun l => decide (k.ownMask mr l = g.mask)) = g.mask := by
    apply maskFilter_self
    intro l hl
    rw [own l hl]; simp
  have hz : g.mask &&& ~~~g.mask = 0 := by
    apply mask_ext; intro l
    cases hb : g.mask.getLsbD l <;> simp
  have hclash : k.clash mr g.mask g.mask g.mask = false := by
    unfold Crew.clash
    rw [hz]; rfl
  have hcycle : (k.threads.any fun p => g.mask.getLsbD p.1 && p.2.crosses g.pc g.mask g.mask) = false := by
    rw [List.any_eq_false]
    intro p hp
    cases hb : g.mask.getLsbD p.1 with
    | false => simp
    | true => simp [Thread.crosses, hr.ready p hp hb]
  have hz' : g.mask &&& k.live &&& ~~~g.mask = 0 := by
    apply mask_ext; intro l
    cases hb : g.mask.getLsbD l <;> simp [hb]
  have hhere : k.waitsAt (g.mask &&& k.live) (.crossLane g.mask) g.pc = 0 := by
    apply hr.waitsAt _ _ (by simp)
    intro l hl
    rw [BitVec.getLsbD_and] at hl
    simp at hl; exact hl.1
  have hfull : g.mask ||| (0 : Mask) = g.mask := by simp
  have hex : k.exitedIn (k.handles g.mask) g.mask = false := by
    unfold Crew.exitedIn
    rw [List.any_eq_false]
    intro p hp
    cases hb : g.mask.getLsbD p.1 with
    | false => simp
    | true => simp [Thread.live, hr.ready p hp hb]
  unfold State.gather
  simp only [hr.crew, hout, if_true, hinn]
  unfold State.gatherIn
  simp only [hr.crew, own _ hr.lowLane_mem, hsame, hclash, hcycle,
    Bool.or_false, Bool.false_eq_true, if_false, hhere, hfull, hz', ne_eq, not_true_eq_false]
  rw [modLanes_ready hr.crew hr.ready, group_eta g hr.parts]
  simp only [hex, Bool.false_eq_true, if_false]

/-- Lanes that a crew-collective group already has are READY, so none of them waits there. -/
theorem Passes.holdsAt (hr : Passes s i h g k price) : s.on g h g.slot = k.holding h g.mask := by
  unfold State.on
  rw [hr.crew, hr.parts]
  simp

theorem Passes.converge (hr : Passes s i h g k price) (rett : Bool) (hm : i.maskPair = none)
    (hrett : rett = (i.isRett && k.handles g.mask)) (hcol : (i.collective || rett) = true) :
    s.converge i h g rett = .go s g := by
  have hg := hr.gathered
  unfold Gathered at hg
  rw [hm] at hg
  simp only at hg
  rw [← hrett, if_pos hcol] at hg
  obtain ⟨hact, hscope, hgone, hsplit, hon⟩ := hg
  unfold State.converge
  rw [hr.crew]
  simp only
  generalize hh : k.handles g.mask = hand at *
  have hmask : (if hand then g.mask &&& k.trap.hact else g.mask) = g.mask := by
    cases hand
    · rfl
    · exact hact rfl
  rw [hmask]
  generalize hs : (if hand then k.live &&& k.trap.hact else k.live) = scope at *
  have hex : (!rett && k.exitedIn hand (~~~0)) = false := by
    cases rett
    · simp only [Bool.not_false, Bool.true_and, Crew.exitedIn]
      rw [List.any_eq_false]
      intro p hp
      rcases hgone rfl p hp with h1 | ⟨h1, h2⟩
      · simp [h1]
      · simp [h1, h2]
    · rfl
  rw [hex]
  simp only [Bool.false_eq_true, if_false, hsplit]
  have hsc : ∀ l, scope.getLsbD l = true → g.mask.getLsbD l = true := by
    intro l hl
    by_contra hn
    have : (scope &&& ~~~g.mask).getLsbD l = true := by
      have hn' : g.mask.getLsbD l = false := by simpa using hn
      simp only [BitVec.getLsbD_and, BitVec.getLsbD_not, hl, getLsbD_lt hl, hn', decide_true, Bool.not_false,
        Bool.and_self]
    rw [hscope] at this
    simp at this
  have hhere : k.waitsAt scope .collective g.pc = 0 := hr.waitsAt _ hsc (by simp)
  have hfull : g.mask ||| (0 : Mask) = g.mask := by simp
  simp only [hhere, hfull, hscope, ne_eq, not_true_eq_false, if_false]
  rw [modLanes_ready hr.crew hr.ready, group_eta g hr.parts, hr.holdsAt, hon]
  simp only [not_true_eq_false, and_false, if_false, hr.nonempty]

theorem Passes.gate (hr : Passes s i h g k price) (cost : State → Group → Nat) (hc : cost s g = price) :
    s.gate i h g cost = .go (s.paidFor i g) g := by
  unfold State.gate
  simp only [hr.unpaid, Bool.false_eq_true, if_false, hr.crew]
  cases hm : i.maskPair with
  | some mr =>
    simp only [hr.gather mr hm, hr.gateLoop cost hc]
  | none =>
    simp only
    split
    · rename_i s' hgo
      split at hgo
      · rename_i hcol
        rw [hr.converge _ hm rfl hcol] at hgo
        exact absurd hgo (by simp)
      · exact absurd hgo (by simp)
    · rename_i s' g' hgo
      have : Gate.go s g = Gate.go s' g' := by
        split at hgo
        · rename_i hcol
          rw [hr.converge _ hm rfl hcol] at hgo
          exact hgo
        · exact hgo
      injection this with h1 h2
      subst h1; subst h2
      exact hr.gateLoop cost hc

/-- The checks do not look at the group that issues. -/
theorem Passes.noCur (hr : Passes s i h g k price) : Passes { s with cur := none } i h g k price :=
  ⟨⟨hr.unpaid, hr.chunk, hr.parts, hr.nonempty, hr.crew, hr.owner, hr.lanes, hr.ready, hr.gathered, hr.buffer, hr.conv,
    hr.price⟩, hr.early, hr.pays⟩

/-- An instruction whose checks pass has its own effect, in the state in which it begins. -/
theorem Passes.runAt (hr : Passes s i h g k price) (hcur : s.cur = some g) (cost : State → Group → Nat)
    (hc : cost { s with cur := none } g = price) (body : State → Group → State) :
    s.runAt i h cost body = .next (body (s.begun i g) g) := by
  unfold State.runAt
  rw [hcur]
  simp only
  rw [hr.noCur.gate cost hc]
  rfl

theorem Ready.run (hr : Ready s i h g k) (body : State → Group → State) :
    s.run i h body = .next (body (s.begun i g) g) :=
  hr.2.runAt hr.1 _ rfl body

/-- The crew of the group when the instruction's own effect begins. -/
theorem Passes.begun_crew (hr : Passes s i h g k price) :
    (s.begun i g).crew? g.core g.slot = some (s.begunCrew i g k) := by
  have hc : ∀ (s : State), (s.useSlot g).crew? g.core g.slot = (s.crew? g.core g.slot).map (·.addCntr 0 1) := by
    intro s
    unfold State.useSlot
    rw [hr.parts]
    simp only [List.foldl_cons, List.foldl_nil, State.counted, crew?_modCrew]
    congr 1
    simp only [State.markSlot, State.crew?, core_modCore]
    split <;> rfl
  unfold State.begun State.begunCrew
  simp only [hc]
  by_cases hz : s.dueAt i g = 0
  · simp only [hz, if_true]
    have : ({ s with cur := none } : State).crew? g.core g.slot = some k := hr.crew
    rw [this]; rfl
  · simp only [hz, if_false, crew?_modCrew]
    have : (({ s with cur := none } : State).modCore g.core fun c =>
        { c with tok := { c.tok with level := c.tok.level - s.dueAt i g } }).crew? g.core g.slot = some k := by
      simp only [State.crew?, core_modCore]; exact hr.crew
    rw [this]; rfl

end Sys2Proof.Machine
end

