-- ==== Sys2Proof/Laws/Thread.lean ====
section
/-! SUPPORT. Registers of a thread: what a write, the passing of issue distance and a completion point do to
the value that a register holds in the end (R30, R31, R364). -/

namespace Sys2Proof.Machine

theorem wget_tset_same (t : Tab Word) (k : Nat) (v : Word) : wget (tset t k v) k = v := tget_tset_same 0 t k v
theorem wget_tset_ne (t : Tab Word) {k j : Nat} (v : Word) (h : j ≠ k) : wget (tset t k v) j = wget t j :=
  tget_tset_ne 0 t v h

theorem Thread.base_setBase_same (t : Thread) (k : Nat) (v : Word) : (t.setBase k v).base k = v := by
  unfold Thread.setBase Thread.base
  split <;> simp [wget_tset_same]

theorem Thread.base_setBase_ne (t : Thread) {k j : Nat} (v : Word) (h : j ≠ k) :
    (t.setBase k v).base j = t.base j := by
  unfold Thread.setBase Thread.base
  split <;> split <;> simp [wget_tset_ne _ v h]

@[simp] theorem Thread.pend_setBase (t : Thread) (k : Nat) (v : Word) : (t.setBase k v).pend = t.pend := by
  unfold Thread.setBase; split <;> rfl

theorem Thread.final_eq (t : Thread) (k : Nat) : t.final k = (lastWrite k t.pend).getD (t.base k) := rfl

theorem lastWrite_append (k : Nat) (ps : List Pend) (p : Pend) :
    lastWrite k (ps ++ [p]) = if p.key = k then some p.val else lastWrite k ps := by
  induction ps with
  | nil => simp [lastWrite]
  | cons q ps ih =>
    rw [List.cons_append, lastWrite, ih, lastWrite]
    by_cases h : p.key = k <;> simp [h]

/-- The newest write of a register is the value that it holds in the end. -/
theorem Thread.final_write_same (t : Thread) (k : Nat) (v : Word) (lat : Nat) :
    (t.write k v lat).final k = v := by
  rw [Thread.final_eq]; simp [Thread.write, lastWrite_append]

theorem Thread.final_write_ne (t : Thread) {k j : Nat} (v : Word) (lat : Nat) (h : j ≠ k) :
    (t.write k v lat).final j = t.final j := by
  rw [Thread.final_eq, Thread.final_eq]
  simp [Thread.write, lastWrite_append, Ne.symm h, Thread.base]

theorem settle_final (t : Thread) (ps kept : List Pend) (k : Nat) :
    (settle t ps kept).final k = (lastWrite k (kept.reverse ++ ps)).getD (t.base k) := by
  induction ps generalizing t kept with
  | nil => rw [settle, Thread.final_eq]; simp [Thread.base]
  | cons p ps ih =>
    rw [settle]
    split
    · rename_i h
      rw [ih]
      have hk : ∀ qs : List Pend, (∀ q ∈ qs, q.key ≠ p.key) → p.key = k → lastWrite k qs = none := by
        intro qs hq hpk
        induction qs with
        | nil => rfl
        | cons q qs ihq =>
          rw [lastWrite, ihq fun x hx => hq x (List.mem_cons_of_mem _ hx)]
          simp [← hpk, hq q (by simp)]
      have app : ∀ (as bs : List Pend), lastWrite k (as ++ bs)
          = (lastWrite k bs).or (lastWrite k as) := by
        intro as bs
        induction as with
        | nil => simp [lastWrite]
        | cons a as iha =>
          rw [List.cons_append, lastWrite, iha, lastWrite]
          cases lastWrite k bs <;> simp
      rw [app, app, lastWrite]
      have hkept : ∀ q ∈ kept.reverse, q.key ≠ p.key := by
        intro q hq
        have := h.2.2
        rw [List.all_eq_true] at this
        simpa using this q (by simpa using hq)
      cases hl : lastWrite k ps with
      | some v => simp
      | none =>
        by_cases hp : p.key = k
        · simp [hp, hk _ hkept hp]
          rw [← hp, Thread.base_setBase_same]
        · simp [hp, Thread.base_setBase_ne t p.val (Ne.symm hp)]
    · rw [ih]; simp

/-- The passing of issue distance changes no register's final value. -/
theorem Thread.final_age (t : Thread) (n k : Nat) : (t.age n).final k = t.final k := by
  unfold Thread.age
  rw [settle_final, Thread.final_eq]
  have : ∀ ps : List Pend, lastWrite k (ps.map fun p => { p with left := p.left - n }) = lastWrite k ps := by
    intro ps
    induction ps with
    | nil => rfl
    | cons p ps ih => simp [lastWrite, ih]
  simp [this, Thread.base]

/-- A completion point leaves v registers and predicates with their final values. -/
theorem Thread.final_complete (t : Thread) (sregs : Tab Word) {k : Nat} (h : isSKey k = false) :
    (t.complete sregs).final k = t.final k := by
  have hs : (t.complete sregs).final k = (settle t (t.pend.map fun p => { p with left := 0 }) []).final k := by
    unfold Thread.final Thread.base Thread.complete
    simp only [h]
    rfl
  have hm : ∀ ps : List Pend, lastWrite k (ps.map fun p => { p with left := 0 }) = lastWrite k ps := by
    intro ps
    induction ps with
    | nil => rfl
    | cons p ps ih => simp [lastWrite, ih]
  rw [hs, settle_final, Thread.final_eq]
  simp [hm]

/-- Where a thread stands says nothing of its registers. -/
theorem Thread.final_goFrom (t : Thread) (pc : Word) (tA tB k : Nat) : (t.goFrom pc tA tB).final k = t.final k := by
  rw [Thread.final_eq, Thread.final_eq]
  rfl

end Sys2Proof.Machine
end

