-- ==== Sys2Proof/Laws/Finish.lean ====
section
/-! SUPPORT. Going on after an instruction (R28 to R31, R73) and register results (R22, R108), for a group of
one crew that meets no loop end. -/

namespace Sys2Proof.Machine

@[simp] theorem context_setCore (s : State) (c : Nat) (x : Core) (i : Nat) :
    (s.setCore c x).context i = s.context i := rfl
@[simp] theorem context_modCrew (s : State) (c slot : Nat) (f : Crew → Crew) (i : Nat) :
    (s.modCrew c slot f).context i = s.context i := rfl
@[simp] theorem coreCycle_setCore (s : State) (c : Nat) (x : Core) (i : Nat) :
    (s.setCore c x).coreCycle i = s.coreCycle i := rfl
@[simp] theorem coreCycle_modCrew (s : State) (c slot : Nat) (f : Crew → Crew) (i : Nat) :
    (s.modCrew c slot f).coreCycle i = s.coreCycle i := rfl

theorem thread?_modLanes (k : Crew) (m : Mask) (f : Nat → Thread → Thread) (l : Nat) :
    (k.modLanes m f).thread? l = (k.thread? l).map fun t => if m.getLsbD l then f l t else t := by
  simp only [Crew.thread?, Crew.modLanes, tget?_tmap]

/-- A crew whose threads have executed an instruction (R28 to R31). -/
def Crew.wentOn (k : Crew) (m : Mask) (next : Nat → Word) (stall now tA tB : Nat) (done : Bool) : Crew :=
  let k := ((k.modLanes m fun _ t => if done then t.complete k.sregs else t.age stall).retireOne now).tidyCtl
  k.modLanes (maskFilter m k.liveAt) fun l t => t.goFrom (next l) tA tB

theorem tidyCtl_threads (k : Crew) : k.tidyCtl.threads = k.threads := rfl

theorem lowLane_filter {m : Mask} {p : Nat → Bool} (h : ∀ l, m.getLsbD l = true → p l = true) :
    lowLane (maskFilter m p) = lowLane m := by
  rw [maskFilter_self m p h]

theorem st_settle (t : Thread) (ps kept : List Pend) : (settle t ps kept).st = t.st := by
  induction ps generalizing t kept with
  | nil => rfl
  | cons p ps ih =>
    rw [settle]; split
    · rw [ih]; unfold Thread.setBase; split <;> rfl
    · exact ih t _

@[simp] theorem Thread.st_age (t : Thread) (n : Nat) : (t.age n).st = t.st := by
  unfold Thread.age; rw [st_settle]

@[simp] theorem Thread.st_complete (t : Thread) (sregs : Tab Word) : (t.complete sregs).st = t.st := by
  simp [Thread.complete, st_settle]

/-- Lanes of a set that are READY. -/
def Crew.AllReady (k : Crew) (m : Mask) : Prop :=
  ∀ l, m.getLsbD l = true → ∃ t, k.thread? l = some t ∧ t.st = .ready

/-- Going on changes one crew: its threads have executed the instruction and no loop end is met. -/
theorem finishPart_clear {s : State} {c slot : Nat} {k : Crew} {m : Mask} (hk : s.crew? c slot = some k)
    (hm : k.AllReady m) (ipc : Word) (next : Nat → Word) (hl : k.Clear (s.context k.id.ctx) m next) (stall : Nat)
    (clsA done : Bool) :
    s.finishPart c slot m ipc next stall clsA done
      = s.modCrew c slot fun _ => k.wentOn m (fun l => (s.context k.id.ctx).start (next l)) stall (s.coreCycle c)
          (nextIssue (s.coreCycle c) stall clsA).1 (nextIssue (s.coreCycle c) stall clsA).2 done := by
  unfold State.finishPart
  simp only
  set F : Crew → Crew := fun k => ((k.modLanes m fun _ t => if done then t.complete k.sregs else t.age stall).retireOne
      (s.coreCycle c)).tidyCtl with hF
  have hk1 : (s.modCrew c slot F).crew? c slot = some (F k) := by rw [crew?_modCrew, hk]; rfl
  unfold State.land
  simp only [hk1]
  have hid : (F k).id = k.id := rfl
  have hth : ∀ l, (F k).thread? l = (k.thread? l).map fun t =>
      if m.getLsbD l then (if done then t.complete k.sregs else t.age stall) else t := by
    intro l
    exact thread?_modLanes k m (fun _ t => if done then t.complete k.sregs else t.age stall) l
  have hlive : ∀ l, m.getLsbD l = true → (F k).liveAt l = true := by
    intro l hlm
    obtain ⟨t, ht, hst⟩ := hm l hlm
    rw [Crew.liveAt, hth, ht]
    simp only [Option.map_some, hlm, if_true]
    cases done <;> simp [Thread.live, hst]
  have hend : (s.modCrew c slot F).modLanes c slot (maskFilter m (F k).liveAt) (fun l t => t.goFrom
      ((s.context k.id.ctx).start (next l)) (nextIssue (s.coreCycle c) stall clsA).1
        (nextIssue (s.coreCycle c) stall clsA).2)
      = s.modCrew c slot fun _ => k.wentOn m (fun l => (s.context k.id.ctx).start (next l)) stall (s.coreCycle c)
          (nextIssue (s.coreCycle c) stall clsA).1 (nextIssue (s.coreCycle c) stall clsA).2 done := by
    rw [State.modLanes, modCrew_modCrew]
    exact modCrew_congr hk _ _ rfl
  have hlev : (F k).level? (lowLane (maskFilter m (F k).liveAt)) = k.level? (lowLane m) := by
    rw [lowLane_filter hlive]
    rfl
  rw [hlev]
  simp only [hid, context_modCrew]
  cases hv : k.level? (lowLane m) with
  | none => exact hend
  | some dv =>
    obtain ⟨d, v⟩ := dv
    simp only
    rw [if_pos]
    · exact hend
    · apply maskFilter_none
      intro l hlm
      rw [getLsbD_maskFilter] at hlm
      simp only [Bool.and_eq_true] at hlm
      simp [hl d v hv l hlm.1]

/-- What the threads of a crew are after going on. -/
theorem thread?_wentOn {k : Crew} {m : Mask} (hm : k.AllReady m) (next : Nat → Word) (stall now tA tB : Nat)
    (done : Bool) (l : Nat) :
    (k.wentOn m next stall now tA tB done).thread? l = (k.thread? l).map fun t =>
      if m.getLsbD l then (if done then t.complete k.sregs else t.age stall).goFrom (next l) tA tB else t := by
  unfold Crew.wentOn
  simp only [thread?_modLanes]
  have h1 : ∀ l, (((k.modLanes m fun _ t => if done then t.complete k.sregs else t.age stall).retireOne
      now).tidyCtl).thread? l = (k.thread? l).map fun t =>
        if m.getLsbD l then (if done then t.complete k.sregs else t.age stall) else t :=
    fun l => thread?_modLanes k m (fun _ t => if done then t.complete k.sregs else t.age stall) l
  rw [h1]
  cases hk : k.thread? l with
  | none => rfl
  | some t =>
    simp only [Option.map_some, Option.some.injEq, getLsbD_maskFilter, Crew.liveAt, h1, hk]
    cases hb : m.getLsbD l with
    | false => simp
    | true =>
      obtain ⟨t', ht', hst⟩ := hm l hb
      rw [hk] at ht'
      injection ht' with ht'
      subst ht'
      cases done <;> simp [Thread.live, hst]

theorem foldCtl_final (busy : Nat → Bool) (c : Ctl) (log : List (Nat × CtlOp)) :
    (foldCtl busy c log).2.foldl (fun c p => c.apply p.2) (foldCtl busy c log).1
      = log.foldl (fun c p => c.apply p.2) c := by
  induction log generalizing c with
  | nil => rfl
  | cons p log ih =>
    obtain ⟨n, op⟩ := p
    rw [foldCtl]
    split
    · rfl
    · rw [ih]; rfl

/-- Going on keeps the crew but for its threads and counts. -/
theorem same_wentOn (k : Crew) (m : Mask) (next : Nat → Word) (stall now tA tB : Nat) (done : Bool) :
    k.Same (k.wentOn m next stall now tA tB done) :=
  ⟨rfl, rfl, rfl, rfl, rfl, rfl, rfl, rfl, rfl, rfl, rfl, rfl, rfl⟩

theorem finalCtl_wentOn (k : Crew) (m : Mask) (next : Nat → Word) (stall now tA tB : Nat) (done : Bool) :
    (k.wentOn m next stall now tA tB done).finalCtl = k.finalCtl := foldCtl_final _ _ _

theorem sregs_wentOn (k : Crew) (m : Mask) (next : Nat → Word) (stall now tA tB : Nat) (done : Bool) :
    (k.wentOn m next stall now tA tB done).sregs = k.sregs := rfl

/-! ## The crew in which an effect begins -/

variable {s : State} {i : Instr} {h : Hdr} {g : Group} {k : Crew} {price : Nat}

theorem begunCrew_threads (s : State) (i : Instr) (g : Group) (k : Crew) :
    (s.begunCrew i g k).threads = k.threads := by
  unfold State.begunCrew; simp only; split <;> rfl

theorem begunCrew_thread? (s : State) (i : Instr) (g : Group) (k : Crew) (l : Nat) :
    (s.begunCrew i g k).thread? l = k.thread? l := by
  unfold Crew.thread?; rw [begunCrew_threads]

theorem begunCrew_holding (s : State) (i : Instr) (g : Group) (k : Crew) (h : Hdr) (m : Mask) :
    (s.begunCrew i g k).holding h m = k.holding h m := by
  unfold State.begunCrew; simp only; split <;> rfl

theorem begunCrew_sregs (s : State) (i : Instr) (g : Group) (k : Crew) :
    (s.begunCrew i g k).sregs = k.sregs := by
  unfold State.begunCrew; simp only; split <;> rfl

theorem begunCrew_id (s : State) (i : Instr) (g : Group) (k : Crew) : (s.begunCrew i g k).id = k.id := by
  unfold State.begunCrew; simp only; split <;> rfl

theorem Passes.allReady (hr : Passes s i h g k price) : k.AllReady g.mask := by
  intro l hl
  obtain ⟨t, ht⟩ := hr.lanes l hl
  exact ⟨t, ht, hr.thread_ready hl ht⟩

theorem Passes.allReady_begun (hr : Passes s i h g k price) : (s.begunCrew i g k).AllReady g.mask := by
  intro l hl
  rw [begunCrew_thread?]
  exact hr.allReady l hl

theorem clear_begun {x : Context} {dest : Nat → Word} (hl : k.Clear x g.mask dest) :
    (s.begunCrew i g k).Clear x g.mask dest := by
  unfold State.begunCrew; simp only; split <;> exact hl

/-! ## Register results -/

/-- A register result in a crew (R22, R108). -/
def Crew.writeRes (k : Crew) (h : Hdr) (m : Mask) (d : RegCode) (lat : Nat)
    (f : Nat → Crew → Thread → Word) : Crew :=
  let on := k.holding h m
  if d.isS then
    match k.thread? (lowLane on) with
    | some t => if on = 0 then k else k.writeS m d.toNat (f (lowLane on) k t) lat
    | none => k
  else k.modLanes on fun l t => t.write d.toNat (f l k t) lat

theorem write_one (s : State) {g : Group} (hp : g.parts = [(g.slot, g.mask)]) (h : Hdr) (d : RegCode) (lat : Nat)
    (f : Nat → Crew → Thread → Word) :
    s.write g h d lat f = s.modCrew g.core g.slot fun k => k.writeRes h g.mask d lat f := by
  unfold State.write
  rw [hp]
  rfl

theorem holding_sub {k : Crew} {h : Hdr} {m : Mask} {l : Nat} (hl : (k.holding h m).getLsbD l = true) :
    m.getLsbD l = true := by
  unfold Crew.holding at hl
  rw [getLsbD_maskFilter, BitVec.getLsbD_and] at hl
  simp at hl
  exact hl.1.1

/-- The guard decides for a READY lane. -/
theorem getLsbD_holding {k : Crew} {h : Hdr} {m : Mask} {l : Nat} {t : Thread} (hl : m.getLsbD l = true)
    (ht : k.thread? l = some t) (hs : t.st = .ready) : (k.holding h m).getLsbD l = t.guard h := by
  unfold Crew.holding
  rw [getLsbD_maskFilter, BitVec.getLsbD_and, hl, live_of_ready ht hs (getLsbD_lt hl), Crew.guardAt, ht]
  simp

theorem writeRes_allReady {m : Mask} (hm : k.AllReady m) (d : RegCode) (lat : Nat)
    (f : Nat → Crew → Thread → Word) : (k.writeRes h m d lat f).AllReady m := by
  intro l hl
  obtain ⟨t, ht, hst⟩ := hm l hl
  unfold Crew.writeRes
  simp only
  split
  · split
    · split
      · exact ⟨t, ht, hst⟩
      · refine ⟨_, by unfold Crew.writeS; rw [thread?_modLanes]; simp only [Crew.thread?]; rw [show tget? k.threads l = some t from ht]; rfl, ?_⟩
        simp only [hl, if_true]; exact hst
    · exact ⟨t, ht, hst⟩
  · refine ⟨_, by rw [thread?_modLanes, ht]; rfl, ?_⟩
    split
    · exact hst
    · exact hst

theorem writeRes_level (d : RegCode) (lat : Nat) (m : Mask) (f : Nat → Crew → Thread → Word) (l : Nat) :
    (k.writeRes h m d lat f).level? l = k.level? l := by
  unfold Crew.writeRes
  simp only
  split
  · split
    · split <;> rfl
    · rfl
  · rfl

theorem writeRes_id (d : RegCode) (lat : Nat) (m : Mask) (f : Nat → Crew → Thread → Word) :
    (k.writeRes h m d lat f).id = k.id := by
  unfold Crew.writeRes
  simp only
  split
  · split
    · split <;> rfl
    · rfl
  · rfl

/-! ## Sequential flow and branches -/

theorem finishTo_one (s : State) {g : Group} (hp : g.parts = [(g.slot, g.mask)]) (h : Hdr) (done : Bool)
    (next : Nat → Nat → Word) :
    s.finishTo g h done next
      = s.finishPart g.core g.slot g.mask g.pc (next g.slot) h.stall.toNat g.clsA done := by
  unfold State.finishTo
  rw [hp]; rfl

theorem begunCrew_level (s : State) (i : Instr) (g : Group) (k : Crew) (l : Nat) :
    (s.begunCrew i g k).level? l = k.level? l := by
  unfold State.begunCrew; simp only; split <;> rfl

theorem begun_context (hr : Passes s i h g k price) (x : Nat) : (s.begun i g).context x = s.context x := by
  unfold State.begun State.useSlot
  rw [hr.parts]
  simp only [List.foldl_cons, List.foldl_nil, State.counted, context_modCrew]
  unfold State.markSlot
  split <;> rfl

/-- The crew of a group after its effect and its going on. -/
def Crew.after (k : Crew) (x : Context) (g : Group) (h : Hdr) (now : Nat) (next : Nat → Word) (done : Bool) : Crew :=
  k.wentOn g.mask (fun l => x.start (next l)) h.stall.toNat now (nextIssue now h.stall.toNat g.clsA).1
    (nextIssue now h.stall.toNat g.clsA).2 done

/-- A change of the group's crew and the group's going on are one change of the crew. -/
theorem finishTo_clear {X : State} {g : Group} {k : Crew} (hp : g.parts = [(g.slot, g.mask)])
    (hk : X.crew? g.core g.slot = some k) (hm : k.AllReady g.mask) (h : Hdr) (done : Bool)
    (next : Nat → Nat → Word) (hl : k.Clear (X.context k.id.ctx) g.mask (next g.slot)) :
    X.finishTo g h done next = X.modCrew g.core g.slot fun _ =>
      k.after (X.context k.id.ctx) g h (X.coreCycle g.core) (next g.slot) done := by
  rw [finishTo_one _ hp, finishPart_clear hk hm _ _ hl]
  rfl

end Sys2Proof.Machine
end

