-- ==== Sys2Proof/Laws/Memory.lean ====
section
/-! SUPPORT. Memory: the canonical form is kept by every operation, equal memories are equal lists, a read after a write
gives what was written, and a write leaves every other byte as it was. -/

namespace Sys2Proof.Machine

/-- Keys of a table rise strictly. -/
abbrev Rising {α : Type} (t : Tab α) : Prop := (t.map Prod.fst).Pairwise (· < ·)

theorem Memory.wf_iff (m : Mem) : Memory.wf m = true ↔ Rising m ∧ ∀ p ∈ m, p.2 ≠ 0 := by
  induction m with
  | nil => simp [Memory.wf, Rising]
  | cons p m ih =>
    obtain ⟨a, b⟩ := p
    cases m with
    | nil => simp [Memory.wf, Rising]
    | cons q m =>
      obtain ⟨a', b'⟩ := q
      simp only [Memory.wf, Bool.and_eq_true, decide_eq_true_eq, ih]
      constructor
      · rintro ⟨⟨hb, ha⟩, hr, hz⟩
        refine ⟨?_, fun p hp => ?_⟩
        · simp only [Rising, List.map_cons, List.pairwise_cons, List.mem_cons, forall_eq_or_imp] at hr ⊢
          exact ⟨⟨ha, fun x hx => Nat.lt_trans ha (hr.1 x hx)⟩, hr⟩
        · rcases List.mem_cons.mp hp with rfl | hp
          · exact hb
          · exact hz p hp
      · rintro ⟨hr, hz⟩
        simp only [Rising, List.map_cons, List.pairwise_cons, List.mem_cons, forall_eq_or_imp] at hr hz ⊢
        exact ⟨⟨hz.1, hr.1.1⟩, hr.2, hz.2⟩

/-! ## Tables whose keys rise -/

theorem mem_tset {α : Type} {t : Tab α} {i : Nat} {v : α} {p : Nat × α} (h : p ∈ tset t i v) :
    p = (i, v) ∨ p ∈ t := by
  induction t with
  | nil => simpa [tset] using h
  | cons q t ih =>
    obtain ⟨k, w⟩ := q
    simp only [tset] at h
    split at h
    · rcases List.mem_cons.mp h with h | h
      · exact .inl h
      · exact .inr (List.mem_cons_of_mem _ h)
    · split at h
      · rcases List.mem_cons.mp h with h | h
        · exact .inl h
        · exact .inr h
      · rcases List.mem_cons.mp h with h | h
        · exact .inr (h ▸ List.mem_cons_self)
        · rcases ih h with h | h
          · exact .inl h
          · exact .inr (List.mem_cons_of_mem _ h)

theorem mem_tdel {α : Type} {t : Tab α} {i : Nat} {p : Nat × α} (h : p ∈ tdel t i) : p ∈ t := by
  induction t with
  | nil => simp [tdel] at h
  | cons q t ih =>
    obtain ⟨k, w⟩ := q
    simp only [tdel] at h
    split at h
    · exact List.mem_cons_of_mem _ h
    · split at h
      · exact h
      · rcases List.mem_cons.mp h with h | h
        · exact h ▸ List.mem_cons_self
        · exact List.mem_cons_of_mem _ (ih h)

theorem rising_cons {α : Type} {p : Nat × α} {t : Tab α} : Rising (p :: t) ↔ (∀ q ∈ t, p.1 < q.1) ∧ Rising t := by
  simp [Rising, List.pairwise_cons]

theorem rising_tset {α : Type} {t : Tab α} (i : Nat) (v : α) (h : Rising t) : Rising (tset t i v) := by
  induction t with
  | nil => simp [tset, Rising]
  | cons q t ih =>
    obtain ⟨k, w⟩ := q
    rw [rising_cons] at h
    simp only [tset]
    split
    · next he => subst he; exact rising_cons.mpr h
    · split
      · next _ hl =>
        refine rising_cons.mpr ⟨fun q hq => ?_, rising_cons.mpr h⟩
        rcases List.mem_cons.mp hq with rfl | hq
        · exact hl
        · exact Nat.lt_trans hl (h.1 q hq)
      · next he hl =>
        refine rising_cons.mpr ⟨fun q hq => ?_, ih h.2⟩
        rcases mem_tset hq with rfl | hq
        · change k < i; omega
        · exact h.1 q hq

theorem rising_tdel {α : Type} {t : Tab α} (i : Nat) (h : Rising t) : Rising (tdel t i) := by
  induction t with
  | nil => simp [tdel, Rising]
  | cons q t ih =>
    obtain ⟨k, w⟩ := q
    rw [rising_cons] at h
    simp only [tdel]
    split
    · exact h.2
    · split
      · exact rising_cons.mpr h
      · exact rising_cons.mpr ⟨fun q hq => h.1 q (mem_tdel hq), ih h.2⟩

theorem tget?_above {α : Type} {t : Tab α} {i : Nat} (h : ∀ q ∈ t, i < q.1) : tget? t i = none := by
  cases t with
  | nil => rfl
  | cons q t =>
    have := h q (by simp)
    simp only [tget?]
    rw [if_neg (by omega), if_pos this]

theorem tget?_tdel_same {α : Type} {t : Tab α} (i : Nat) (h : Rising t) : tget? (tdel t i) i = none := by
  induction t with
  | nil => rfl
  | cons q t ih =>
    obtain ⟨k, w⟩ := q
    rw [rising_cons] at h
    simp only [tdel]
    split
    · next he => subst he; exact tget?_above h.1
    · split
      · next he hl => simp [tget?, he, hl]
      · next he hl => simp [tget?, he, hl, ih h.2]

theorem tget?_tdel_ne {α : Type} {t : Tab α} {i j : Nat} (h : Rising t) (hj : j ≠ i) : tget? (tdel t i) j = tget? t j := by
  induction t with
  | nil => rfl
  | cons q t ih =>
    obtain ⟨k, w⟩ := q
    rw [rising_cons] at h
    simp only [tdel]
    split
    · next he =>
      subst he
      simp only [tget?, if_neg (Ne.symm hj)]
      split
      · next hl => exact tget?_above fun q hq => Nat.lt_trans hl (h.1 q hq)
      · rfl
    · split
      · rfl
      · simp only [tget?, ih h.2]

/-! ## Reads and writes -/

theorem Memory.wf_write {m : Mem} (a : Nat) (b : Byte) (h : Memory.wf m = true) : Memory.wf (Memory.write m a b) = true := by
  rw [Memory.wf_iff] at h ⊢
  unfold Memory.write
  split
  · exact ⟨rising_tdel a h.1, fun p hp => h.2 p (mem_tdel hp)⟩
  · next hb =>
    refine ⟨rising_tset a b h.1, fun p hp => ?_⟩
    rcases mem_tset hp with rfl | hp
    · exact hb
    · exact h.2 p hp

theorem Memory.wf_writeN {m : Mem} (a : Nat) (bs : List Byte) (h : Memory.wf m = true) :
    Memory.wf (Memory.writeN m a bs) = true := by
  induction bs generalizing m a with
  | nil => exact h
  | cons b bs ih => exact ih (a + 1) (Memory.wf_write a b h)

theorem Memory.wf_putCells {m : Mem} (bs : Mem) (h : Memory.wf m = true) : Memory.wf (putCells m bs) = true := by
  unfold putCells
  induction bs generalizing m with
  | nil => exact h
  | cons p bs ih => exact ih (Memory.wf_write p.1 p.2 h)

theorem Memory.read_write_same {m : Mem} (a : Nat) (b : Byte) (h : Memory.wf m = true) :
    Memory.read (Memory.write m a b) a = b := by
  have hr := ((Memory.wf_iff m).mp h).1
  unfold Memory.read Memory.write
  split
  · next hb => simp [tget, tget?_tdel_same a hr, hb]
  · exact tget_tset_same ..

theorem Memory.read_write_ne {m : Mem} {a a' : Nat} (b : Byte) (h : Memory.wf m = true) (hne : a' ≠ a) :
    Memory.read (Memory.write m a b) a' = Memory.read m a' := by
  have hr := ((Memory.wf_iff m).mp h).1
  unfold Memory.read Memory.write
  split
  · simp [tget, tget?_tdel_ne hr hne]
  · exact tget_tset_ne _ _ _ hne

theorem Memory.read_writeN_out {m : Mem} {a a' : Nat} (bs : List Byte) (h : Memory.wf m = true)
    (ho : a' < a ∨ a + bs.length ≤ a') : Memory.read (Memory.writeN m a bs) a' = Memory.read m a' := by
  induction bs generalizing m a with
  | nil => rfl
  | cons b bs ih =>
    simp only [List.length_cons] at ho
    rw [Memory.writeN, ih (Memory.wf_write a b h) (by omega), Memory.read_write_ne b h (by omega)]

theorem Memory.read_writeN_in {m : Mem} {a i : Nat} {bs : List Byte} {b : Byte} (h : Memory.wf m = true)
    (hi : bs[i]? = some b) : Memory.read (Memory.writeN m a bs) (a + i) = b := by
  induction bs generalizing m a i with
  | nil => simp at hi
  | cons c bs ih =>
    rw [Memory.writeN]
    cases i with
    | zero =>
      simp only [List.getElem?_cons_zero, Option.some.injEq] at hi
      rw [Nat.add_zero a, Memory.read_writeN_out bs (Memory.wf_write a c h) (.inl (Nat.lt_add_one a)),
        Memory.read_write_same a c h, hi]
    | succ i =>
      simp only [List.getElem?_cons_succ] at hi
      have := ih (a := a + 1) (Memory.wf_write a c h) hi
      rwa [Nat.add_assoc, Nat.add_comm 1 i] at this

theorem Memory.length_readN (m : Mem) (a n : Nat) : (Memory.readN m a n).length = n := by
  induction n generalizing a with
  | zero => rfl
  | succ n ih => simp [Memory.readN, ih]

theorem Memory.readN_writeN {m : Mem} (a : Nat) (bs : List Byte) (h : Memory.wf m = true) :
    Memory.readN (Memory.writeN m a bs) a bs.length = bs := by
  have key : ∀ n k, (∀ i, i < n → Memory.read (Memory.writeN m a bs) (a + (k + i)) = bs.getD (k + i) 0) →
      Memory.readN (Memory.writeN m a bs) (a + k) n = (List.range n).map fun i => bs.getD (k + i) 0 := by
    intro n
    induction n with
    | zero => intro k _; rfl
    | succ n ih =>
      intro k hk
      rw [Memory.readN, List.range_succ_eq_map, List.map_cons, List.map_map, Nat.add_assoc]
      have h0 := hk 0 (Nat.succ_pos n)
      have hs := ih (k + 1) fun i hi => by
        have := hk (i + 1) (Nat.succ_lt_succ hi)
        rwa [show k + 1 + i = k + (i + 1) by omega]
      rw [hs, show a + k = a + (k + 0) by omega, h0]
      congr 1
      exact List.map_congr_left fun i _ => by simp [Function.comp, show k + 1 + i = k + (i + 1) by omega]
  have hr := key bs.length 0 fun i hi => by
    have hb : bs[i]? = some (bs.getD i 0) := by simp [List.getD, List.getElem?_eq_getElem hi]
    simpa using Memory.read_writeN_in (a := a) h hb
  rw [Nat.add_zero] at hr
  rw [hr]
  apply List.ext_getElem
  · simp
  · intro i h1 h2
    simp [List.getD, List.getElem?_eq_getElem h2]

/-- Equal memories are equal lists. -/
theorem Memory.ext {m m' : Mem} (h : Memory.wf m = true) (h' : Memory.wf m' = true)
    (hr : ∀ a, Memory.read m a = Memory.read m' a) : m = m' := by
  rw [Memory.wf_iff] at h h'
  obtain ⟨h, hz⟩ := h
  obtain ⟨h', hz'⟩ := h'
  induction m generalizing m' with
  | nil =>
    cases m' with
    | nil => rfl
    | cons q m' =>
      have := hr q.1
      simp [Memory.read, tget, tget?] at this
      exact absurd this.symm (hz' q (by simp))
  | cons p m ih =>
    obtain ⟨a, b⟩ := p
    have hb : b ≠ 0 := hz (a, b) (by simp)
    cases m' with
    | nil =>
      have := hr a
      simp [Memory.read, tget, tget?] at this
      exact absurd this hb
    | cons q m' =>
      obtain ⟨c, d⟩ := q
      have hd : d ≠ 0 := hz' (c, d) (by simp)
      rw [rising_cons] at h h'
      have hac : a = c := by
        rcases Nat.lt_trichotomy a c with hl | he | hl
        · have := hr a
          simp [Memory.read, tget, tget?, hl, Nat.ne_of_gt hl] at this
          exact absurd this hb
        · exact he
        · have := hr c
          simp [Memory.read, tget, tget?, hl, Nat.ne_of_gt hl] at this
          exact absurd this.symm hd
      subst hac
      have hbd : b = d := by
        have := hr a
        simpa [Memory.read, tget, tget?] using this
      subst hbd
      have rest : ∀ x, Memory.read m x = Memory.read m' x := by
        intro x
        have hx := hr x
        simp only [Memory.read, tget, tget?] at hx
        by_cases hxa : a = x
        · subst hxa
          simp only [Memory.read, tget, tget?_above h.1, tget?_above h'.1]
        · rw [if_neg hxa, if_neg hxa] at hx
          by_cases hlt : x < a
          · simp only [Memory.read, tget, tget?_above fun q hq => Nat.lt_trans hlt (h.1 q hq),
              tget?_above fun q hq => Nat.lt_trans hlt (h'.1 q hq)]
          · simpa [Memory.read, tget, hlt] using hx
      rw [ih rest h.2 (fun p hp => hz p (List.mem_cons_of_mem _ hp)) h'.2 fun p hp => hz' p (List.mem_cons_of_mem _ hp)]

/-- At reset nothing is listed. -/
theorem reset_memWf : State.reset.MemWf := ⟨rfl, fun _ hp => by cases hp⟩

end Sys2Proof.Machine
end

