-- ==== Sys2Proof/Laws/PerInstr.lean ====
section
/-! SUPPORT. One lemma per instruction on the shape of its words: granule 1 reads back the header,
its LEN counts the granules that follow, and each of those carries the continuation tag (R15, R16).
Events have no words. -/

namespace Sys2Proof.Laws.Encodes

/-- The words `l` of an instruction with header `h`. -/
def Shape (h : Hdr) (l : List Granule) : Prop :=
  ∃ g gs, l = g :: gs ∧ hdrOf g = h ∧ lenOf g = gs.length ∧ 1 ≤ gs.length ∧ gs.length ≤ 3
    ∧ gs.all isCont = true

/-- Whatever header an instruction has, its words have that header's shape. -/
def Statement (i : Instr) : Prop := ∀ h, i.hdr? = some h → Shape h (encode i)

@[simp] theorem isCont_encCont (x : Nat) : isCont (encCont x) = true := by
  simp only [isCont, rng, encCont, BitVec.toNat_ofNat, decide_eq_true_eq]
  omega

@[simp] theorem isCont_encPT (p : PIdx) (t : RegCode) (rest : Nat) : isCont (encPT p t rest) = true :=
  isCont_encCont _

theorem lenOf_encHdr (len opc x0 : Nat) (h : Hdr) (hl : len < 4) :
    lenOf (encHdr len opc x0 h) = len := by
  simp only [lenOf, rng, encHdr, BitVec.toNat_ofNat]
  omega

theorem hdrOf_encHdr (len opc x0 : Nat) (h : Hdr) (hl : len < 4) :
    hdrOf (encHdr len opc x0 h) = h := by
  obtain ⟨st, y, ge, gn, gp⟩ := h
  have a := st.isLt
  have b := gp.isLt
  have fl (n i : Nat) (c : Bool) (e : n / 2 ^ i % 2 = c.toNat) : decide (n / 2 ^ i % 2 = 1) = c := by
    cases c <;> simp_all
  have hy := Bool.toNat_lt y
  have he := Bool.toNat_lt ge
  have hn := Bool.toNat_lt gn
  simp only [hdrOf, encHdr, flag, fld, Hdr.mk.injEq, BitVec.toNat_ofNat]
  refine ⟨BitVec.eq_of_toNat_eq ?_, fl _ _ _ ?_, fl _ _ _ ?_, fl _ _ _ ?_, BitVec.eq_of_toNat_eq ?_⟩
    <;> (try rw [BitVec.toNat_ofNat]) <;> omega

theorem shape_of (len opc x0 : Nat) (h : Hdr) (gs : List Granule) (hlen : gs.length = len)
    (h1 : 1 ≤ len) (h3 : len ≤ 3) (hc : gs.all isCont = true) :
    Shape h (encHdr len opc x0 h :: gs) :=
  ⟨_, _, rfl, hdrOf_encHdr _ _ _ _ (by omega), by rw [lenOf_encHdr _ _ _ _ (by omega), hlen],
    by omega, by omega, hc⟩

theorem nop (h : Hdr) : Statement (.nop h) := fun _ e => Option.some.inj e ▸
  shape_of _ _ _ _ _ rfl (by decide) (by decide) (by simp)
theorem nopG3 (h : Hdr) : Statement (.nopG3 h) := fun _ e => Option.some.inj e ▸
  shape_of _ _ _ _ _ rfl (by decide) (by decide) (by simp)
theorem nopG4 (h : Hdr) : Statement (.nopG4 h) := fun _ e => Option.some.inj e ▸
  shape_of _ _ _ _ _ rfl (by decide) (by decide) (by simp)
theorem bra (h : Hdr) (off : BitVec 24) : Statement (.bra h off) := fun _ e => Option.some.inj e ▸
  shape_of _ _ _ _ _ rfl (by decide) (by decide) (by simp)
theorem brx (h : Hdr) (a : RegCode) : Statement (.brx h a) := fun _ e => Option.some.inj e ▸
  shape_of _ _ _ _ _ rfl (by decide) (by decide) (by simp)
theorem call (h : Hdr) (d : RegCode) (off : BitVec 20) : Statement (.call h d off) := fun _ e => Option.some.inj e ▸
  shape_of _ _ _ _ _ rfl (by decide) (by decide) (by simp)
theorem callx (h : Hdr) (d a : RegCode) : Statement (.callx h d a) := fun _ e => Option.some.inj e ▸
  shape_of _ _ _ _ _ rfl (by decide) (by decide) (by simp)
theorem ret (h : Hdr) (a : RegCode) : Statement (.ret h a) := fun _ e => Option.some.inj e ▸
  shape_of _ _ _ _ _ rfl (by decide) (by decide) (by simp)
theorem exit (h : Hdr) : Statement (.exit h) := fun _ e => Option.some.inj e ▸
  shape_of _ _ _ _ _ rfl (by decide) (by decide) (by simp)
theorem lbrk (h : Hdr) : Statement (.lbrk h) := fun _ e => Option.some.inj e ▸
  shape_of _ _ _ _ _ rfl (by decide) (by decide) (by simp)
theorem yield (h : Hdr) : Statement (.yield h) := fun _ e => Option.some.inj e ▸
  shape_of _ _ _ _ _ rfl (by decide) (by decide) (by simp)
theorem bkpt (h : Hdr) (code : BitVec 16) : Statement (.bkpt h code) := fun _ e => Option.some.inj e ▸
  shape_of _ _ _ _ _ rfl (by decide) (by decide) (by simp)
theorem sleept (h : Hdr) (a : RegCode) : Statement (.sleept h a) := fun _ e => Option.some.inj e ▸
  shape_of _ _ _ _ _ rfl (by decide) (by decide) (by simp)
theorem loop (h : Hdr) (o : LoopOp) : Statement (.loop h o) := fun _ e => Option.some.inj e ▸
  shape_of _ _ _ _ _ rfl (by decide) (by decide) (by simp)
theorem iadd (h : Hdr) (o : Op3) : Statement (.iadd h o) := fun _ e => Option.some.inj e ▸
  shape_of _ _ _ _ _ rfl (by decide) (by decide) (by simp)
theorem isub (h : Hdr) (o : Op3) : Statement (.isub h o) := fun _ e => Option.some.inj e ▸
  shape_of _ _ _ _ _ rfl (by decide) (by decide) (by simp)
theorem imul (h : Hdr) (o : Op3) : Statement (.imul h o) := fun _ e => Option.some.inj e ▸
  shape_of _ _ _ _ _ rfl (by decide) (by decide) (by simp)
theorem imulh (h : Hdr) (o : Op3) : Statement (.imulh h o) := fun _ e => Option.some.inj e ▸
  shape_of _ _ _ _ _ rfl (by decide) (by decide) (by simp)
theorem imad (h : Hdr) (o : Op3) : Statement (.imad h o) := fun _ e => Option.some.inj e ▸
  shape_of _ _ _ _ _ rfl (by decide) (by decide) (by simp)
theorem imin (h : Hdr) (o : Op3) : Statement (.imin h o) := fun _ e => Option.some.inj e ▸
  shape_of _ _ _ _ _ rfl (by decide) (by decide) (by simp)
theorem imax (h : Hdr) (o : Op3) : Statement (.imax h o) := fun _ e => Option.some.inj e ▸
  shape_of _ _ _ _ _ rfl (by decide) (by decide) (by simp)
theorem iabs (h : Hdr) (o : Op3) : Statement (.iabs h o) := fun _ e => Option.some.inj e ▸
  shape_of _ _ _ _ _ rfl (by decide) (by decide) (by simp)
theorem and (h : Hdr) (o : Op3) : Statement (.and h o) := fun _ e => Option.some.inj e ▸
  shape_of _ _ _ _ _ rfl (by decide) (by decide) (by simp)
theorem or (h : Hdr) (o : Op3) : Statement (.or h o) := fun _ e => Option.some.inj e ▸
  shape_of _ _ _ _ _ rfl (by decide) (by decide) (by simp)
theorem xor (h : Hdr) (o : Op3) : Statement (.xor h o) := fun _ e => Option.some.inj e ▸
  shape_of _ _ _ _ _ rfl (by decide) (by decide) (by simp)
theorem andn (h : Hdr) (o : Op3) : Statement (.andn h o) := fun _ e => Option.some.inj e ▸
  shape_of _ _ _ _ _ rfl (by decide) (by decide) (by simp)
theorem shl (h : Hdr) (o : Op3) : Statement (.shl h o) := fun _ e => Option.some.inj e ▸
  shape_of _ _ _ _ _ rfl (by decide) (by decide) (by simp)
theorem shr (h : Hdr) (o : Op3) : Statement (.shr h o) := fun _ e => Option.some.inj e ▸
  shape_of _ _ _ _ _ rfl (by decide) (by decide) (by simp)
theorem sar (h : Hdr) (o : Op3) : Statement (.sar h o) := fun _ e => Option.some.inj e ▸
  shape_of _ _ _ _ _ rfl (by decide) (by decide) (by simp)
theorem bfx (h : Hdr) (o : Op3) : Statement (.bfx h o) := fun _ e => Option.some.inj e ▸
  shape_of _ _ _ _ _ rfl (by decide) (by decide) (by simp)
theorem bfi (h : Hdr) (o : Op3) : Statement (.bfi h o) := fun _ e => Option.some.inj e ▸
  shape_of _ _ _ _ _ rfl (by decide) (by decide) (by simp)
theorem popc (h : Hdr) (o : Op3) : Statement (.popc h o) := fun _ e => Option.some.inj e ▸
  shape_of _ _ _ _ _ rfl (by decide) (by decide) (by simp)
theorem clz (h : Hdr) (o : Op3) : Statement (.clz h o) := fun _ e => Option.some.inj e ▸
  shape_of _ _ _ _ _ rfl (by decide) (by decide) (by simp)
theorem brev (h : Hdr) (o : Op3) : Statement (.brev h o) := fun _ e => Option.some.inj e ▸
  shape_of _ _ _ _ _ rfl (by decide) (by decide) (by simp)
theorem iset (h : Hdr) (o : Op3) : Statement (.iset h o) := fun _ e => Option.some.inj e ▸
  shape_of _ _ _ _ _ rfl (by decide) (by decide) (by simp)
theorem mov (h : Hdr) (o : Op3) : Statement (.mov h o) := fun _ e => Option.some.inj e ▸
  shape_of _ _ _ _ _ rfl (by decide) (by decide) (by simp)
theorem iaddImm (h : Hdr) (o : OpI) : Statement (.iaddImm h o) := fun _ e => Option.some.inj e ▸
  shape_of _ _ _ _ _ rfl (by decide) (by decide) (by simp)
theorem isubImm (h : Hdr) (o : OpI) : Statement (.isubImm h o) := fun _ e => Option.some.inj e ▸
  shape_of _ _ _ _ _ rfl (by decide) (by decide) (by simp)
theorem imulImm (h : Hdr) (o : OpI) : Statement (.imulImm h o) := fun _ e => Option.some.inj e ▸
  shape_of _ _ _ _ _ rfl (by decide) (by decide) (by simp)
theorem imulhImm (h : Hdr) (o : OpI) : Statement (.imulhImm h o) := fun _ e => Option.some.inj e ▸
  shape_of _ _ _ _ _ rfl (by decide) (by decide) (by simp)
theorem imadImm (h : Hdr) (o : OpI) : Statement (.imadImm h o) := fun _ e => Option.some.inj e ▸
  shape_of _ _ _ _ _ rfl (by decide) (by decide) (by simp)
theorem iminImm (h : Hdr) (o : OpI) : Statement (.iminImm h o) := fun _ e => Option.some.inj e ▸
  shape_of _ _ _ _ _ rfl (by decide) (by decide) (by simp)
theorem imaxImm (h : Hdr) (o : OpI) : Statement (.imaxImm h o) := fun _ e => Option.some.inj e ▸
  shape_of _ _ _ _ _ rfl (by decide) (by decide) (by simp)
theorem iabsImm (h : Hdr) (o : OpI) : Statement (.iabsImm h o) := fun _ e => Option.some.inj e ▸
  shape_of _ _ _ _ _ rfl (by decide) (by decide) (by simp)
theorem andImm (h : Hdr) (o : OpI) : Statement (.andImm h o) := fun _ e => Option.some.inj e ▸
  shape_of _ _ _ _ _ rfl (by decide) (by decide) (by simp)
theorem orImm (h : Hdr) (o : OpI) : Statement (.orImm h o) := fun _ e => Option.some.inj e ▸
  shape_of _ _ _ _ _ rfl (by decide) (by decide) (by simp)
theorem xorImm (h : Hdr) (o : OpI) : Statement (.xorImm h o) := fun _ e => Option.some.inj e ▸
  shape_of _ _ _ _ _ rfl (by decide) (by decide) (by simp)
theorem andnImm (h : Hdr) (o : OpI) : Statement (.andnImm h o) := fun _ e => Option.some.inj e ▸
  shape_of _ _ _ _ _ rfl (by decide) (by decide) (by simp)
theorem shlImm (h : Hdr) (o : OpI) : Statement (.shlImm h o) := fun _ e => Option.some.inj e ▸
  shape_of _ _ _ _ _ rfl (by decide) (by decide) (by simp)
theorem shrImm (h : Hdr) (o : OpI) : Statement (.shrImm h o) := fun _ e => Option.some.inj e ▸
  shape_of _ _ _ _ _ rfl (by decide) (by decide) (by simp)
theorem sarImm (h : Hdr) (o : OpI) : Statement (.sarImm h o) := fun _ e => Option.some.inj e ▸
  shape_of _ _ _ _ _ rfl (by decide) (by decide) (by simp)
theorem isetImm (h : Hdr) (o : OpI) : Statement (.isetImm h o) := fun _ e => Option.some.inj e ▸
  shape_of _ _ _ _ _ rfl (by decide) (by decide) (by simp)
theorem movi (h : Hdr) (o : OpI) : Statement (.movi h o) := fun _ e => Option.some.inj e ▸
  shape_of _ _ _ _ _ rfl (by decide) (by decide) (by simp)
theorem sel (h : Hdr) (o : SelOp) : Statement (.sel h o) := fun _ e => Option.some.inj e ▸
  shape_of _ _ _ _ _ rfl (by decide) (by decide) (by simp)
theorem fadd (h : Hdr) (o : Op3) : Statement (.fadd h o) := fun _ e => Option.some.inj e ▸
  shape_of _ _ _ _ _ rfl (by decide) (by decide) (by simp)
theorem fsub (h : Hdr) (o : Op3) : Statement (.fsub h o) := fun _ e => Option.some.inj e ▸
  shape_of _ _ _ _ _ rfl (by decide) (by decide) (by simp)
theorem fmul (h : Hdr) (o : Op3) : Statement (.fmul h o) := fun _ e => Option.some.inj e ▸
  shape_of _ _ _ _ _ rfl (by decide) (by decide) (by simp)
theorem ffma (h : Hdr) (o : Op3) : Statement (.ffma h o) := fun _ e => Option.some.inj e ▸
  shape_of _ _ _ _ _ rfl (by decide) (by decide) (by simp)
theorem fmin (h : Hdr) (o : Op3) : Statement (.fmin h o) := fun _ e => Option.some.inj e ▸
  shape_of _ _ _ _ _ rfl (by decide) (by decide) (by simp)
theorem fmax (h : Hdr) (o : Op3) : Statement (.fmax h o) := fun _ e => Option.some.inj e ▸
  shape_of _ _ _ _ _ rfl (by decide) (by decide) (by simp)
theorem fneg (h : Hdr) (o : Op3) : Statement (.fneg h o) := fun _ e => Option.some.inj e ▸
  shape_of _ _ _ _ _ rfl (by decide) (by decide) (by simp)
theorem fabs (h : Hdr) (o : Op3) : Statement (.fabs h o) := fun _ e => Option.some.inj e ▸
  shape_of _ _ _ _ _ rfl (by decide) (by decide) (by simp)
theorem fset (h : Hdr) (o : Op3) : Statement (.fset h o) := fun _ e => Option.some.inj e ▸
  shape_of _ _ _ _ _ rfl (by decide) (by decide) (by simp)
theorem fclass (h : Hdr) (o : Op3) : Statement (.fclass h o) := fun _ e => Option.some.inj e ▸
  shape_of _ _ _ _ _ rfl (by decide) (by decide) (by simp)
theorem frcp (h : Hdr) (o : Op3) : Statement (.frcp h o) := fun _ e => Option.some.inj e ▸
  shape_of _ _ _ _ _ rfl (by decide) (by decide) (by simp)
theorem frsq (h : Hdr) (o : Op3) : Statement (.frsq h o) := fun _ e => Option.some.inj e ▸
  shape_of _ _ _ _ _ rfl (by decide) (by decide) (by simp)
theorem fexp2 (h : Hdr) (o : Op3) : Statement (.fexp2 h o) := fun _ e => Option.some.inj e ▸
  shape_of _ _ _ _ _ rfl (by decide) (by decide) (by simp)
theorem flog2 (h : Hdr) (o : Op3) : Statement (.flog2 h o) := fun _ e => Option.some.inj e ▸
  shape_of _ _ _ _ _ rfl (by decide) (by decide) (by simp)
theorem ftanh (h : Hdr) (o : Op3) : Statement (.ftanh h o) := fun _ e => Option.some.inj e ▸
  shape_of _ _ _ _ _ rfl (by decide) (by decide) (by simp)
theorem fscaleb (h : Hdr) (o : Op3) : Statement (.fscaleb h o) := fun _ e => Option.some.inj e ▸
  shape_of _ _ _ _ _ rfl (by decide) (by decide) (by simp)
theorem faddImm (h : Hdr) (o : OpI) : Statement (.faddImm h o) := fun _ e => Option.some.inj e ▸
  shape_of _ _ _ _ _ rfl (by decide) (by decide) (by simp)
theorem fsubImm (h : Hdr) (o : OpI) : Statement (.fsubImm h o) := fun _ e => Option.some.inj e ▸
  shape_of _ _ _ _ _ rfl (by decide) (by decide) (by simp)
theorem fmulImm (h : Hdr) (o : OpI) : Statement (.fmulImm h o) := fun _ e => Option.some.inj e ▸
  shape_of _ _ _ _ _ rfl (by decide) (by decide) (by simp)
theorem ffmaImm (h : Hdr) (o : OpI) : Statement (.ffmaImm h o) := fun _ e => Option.some.inj e ▸
  shape_of _ _ _ _ _ rfl (by decide) (by decide) (by simp)
theorem fminImm (h : Hdr) (o : OpI) : Statement (.fminImm h o) := fun _ e => Option.some.inj e ▸
  shape_of _ _ _ _ _ rfl (by decide) (by decide) (by simp)
theorem fmaxImm (h : Hdr) (o : OpI) : Statement (.fmaxImm h o) := fun _ e => Option.some.inj e ▸
  shape_of _ _ _ _ _ rfl (by decide) (by decide) (by simp)
theorem fsetImm (h : Hdr) (o : OpI) : Statement (.fsetImm h o) := fun _ e => Option.some.inj e ▸
  shape_of _ _ _ _ _ rfl (by decide) (by decide) (by simp)
theorem fscalebImm (h : Hdr) (o : OpI) : Statement (.fscalebImm h o) := fun _ e => Option.some.inj e ▸
  shape_of _ _ _ _ _ rfl (by decide) (by decide) (by simp)
theorem padd2 (h : Hdr) (o : Op3) : Statement (.padd2 h o) := fun _ e => Option.some.inj e ▸
  shape_of _ _ _ _ _ rfl (by decide) (by decide) (by simp)
theorem pmul2 (h : Hdr) (o : Op3) : Statement (.pmul2 h o) := fun _ e => Option.some.inj e ▸
  shape_of _ _ _ _ _ rfl (by decide) (by decide) (by simp)
theorem pfma2 (h : Hdr) (o : Op3) : Statement (.pfma2 h o) := fun _ e => Option.some.inj e ▸
  shape_of _ _ _ _ _ rfl (by decide) (by decide) (by simp)
theorem pmax2 (h : Hdr) (o : Op3) : Statement (.pmax2 h o) := fun _ e => Option.some.inj e ▸
  shape_of _ _ _ _ _ rfl (by decide) (by decide) (by simp)
theorem pmin2 (h : Hdr) (o : Op3) : Statement (.pmin2 h o) := fun _ e => Option.some.inj e ▸
  shape_of _ _ _ _ _ rfl (by decide) (by decide) (by simp)
theorem cvt (h : Hdr) (o : CvtOp) : Statement (.cvt h o) := fun _ e => Option.some.inj e ▸
  shape_of _ _ _ _ _ rfl (by decide) (by decide) (by simp)
theorem pack (h : Hdr) (o : Op3) : Statement (.pack h o) := fun _ e => Option.some.inj e ▸
  shape_of _ _ _ _ _ rfl (by decide) (by decide) (by simp)
theorem unpk (h : Hdr) (o : UnpkOp) : Statement (.unpk h o) := fun _ e => Option.some.inj e ▸
  shape_of _ _ _ _ _ rfl (by decide) (by decide) (by simp)
theorem qnt (h : Hdr) (o : Op3) : Statement (.qnt h o) := fun _ e => Option.some.inj e ▸
  shape_of _ _ _ _ _ rfl (by decide) (by decide) (by simp)
theorem shfl (h : Hdr) (o : LaneOp) : Statement (.shfl h o) := fun _ e => Option.some.inj e ▸
  shape_of _ _ _ _ _ rfl (by decide) (by decide) (by simp)
theorem shfr (h : Hdr) (o : LaneOp) (c : ShfrCtl) : Statement (.shfr h o c) := fun _ e => Option.some.inj e ▸
  shape_of _ _ _ _ _ rfl (by decide) (by decide) (by simp)
theorem shfx (h : Hdr) (o : LaneOp) (x : BitVec 6) : Statement (.shfx h o x) := fun _ e => Option.some.inj e ▸
  shape_of _ _ _ _ _ rfl (by decide) (by decide) (by simp)
theorem red (h : Hdr) (o : LaneOp) (op : BitVec 4) : Statement (.red h o op) := fun _ e => Option.some.inj e ▸
  shape_of _ _ _ _ _ rfl (by decide) (by decide) (by simp)
theorem scan (h : Hdr) (o : LaneOp) (op : BitVec 4) (exc rev : Bool) : Statement (.scan h o op exc rev) := fun _ e => Option.some.inj e ▸
  shape_of _ _ _ _ _ rfl (by decide) (by decide) (by simp)
theorem vote (h : Hdr) (o : LaneOp) (mode : BitVec 2) : Statement (.vote h o mode) := fun _ e => Option.some.inj e ▸
  shape_of _ _ _ _ _ rfl (by decide) (by decide) (by simp)
theorem bcast (h : Hdr) (o : LaneOp) (l : BitVec 7) : Statement (.bcast h o l) := fun _ e => Option.some.inj e ▸
  shape_of _ _ _ _ _ rfl (by decide) (by decide) (by simp)
theorem matchLanes (h : Hdr) (o : LaneOp) : Statement (.matchLanes h o) := fun _ e => Option.some.inj e ▸
  shape_of _ _ _ _ _ rfl (by decide) (by decide) (by simp)
theorem pmov (h : Hdr) (dir half : Bool) (r : RegCode) : Statement (.pmov h dir half r) := fun _ e => Option.some.inj e ▸
  shape_of _ _ _ _ _ rfl (by decide) (by decide) (by simp)
theorem srd (h : Hdr) (d : RegCode) (sc : BitVec 8) : Statement (.srd h d sc) := fun _ e => Option.some.inj e ▸
  shape_of _ _ _ _ _ rfl (by decide) (by decide) (by simp)
theorem swr (h : Hdr) (sc : BitVec 8) (a : RegCode) : Statement (.swr h sc a) := fun _ e => Option.some.inj e ▸
  shape_of _ _ _ _ _ rfl (by decide) (by decide) (by simp)
theorem plop (h : Hdr) (o : PlopOp) : Statement (.plop h o) := fun _ e => Option.some.inj e ▸
  shape_of _ _ _ _ _ rfl (by decide) (by decide) (by simp)
theorem ldt (h : Hdr) (o : AccOp) : Statement (.ldt h o) := fun _ e => Option.some.inj e ▸
  shape_of _ _ _ _ _ rfl (by decide) (by decide) (by simp)
theorem stt (h : Hdr) (o : AccOp) : Statement (.stt h o) := fun _ e => Option.some.inj e ▸
  shape_of _ _ _ _ _ rfl (by decide) (by decide) (by simp)
theorem ldv (h : Hdr) (o : AccOp) : Statement (.ldv h o) := fun _ e => Option.some.inj e ▸
  shape_of _ _ _ _ _ rfl (by decide) (by decide) (by simp)
theorem stv (h : Hdr) (o : AccOp) : Statement (.stv h o) := fun _ e => Option.some.inj e ▸
  shape_of _ _ _ _ _ rfl (by decide) (by decide) (by simp)
theorem ldx (h : Hdr) (o : AccOp) : Statement (.ldx h o) := fun _ e => Option.some.inj e ▸
  shape_of _ _ _ _ _ rfl (by decide) (by decide) (by simp)
theorem tfill (h : Hdr) (o : AccOp) : Statement (.tfill h o) := fun _ e => Option.some.inj e ▸
  shape_of _ _ _ _ _ rfl (by decide) (by decide) (by simp)
theorem mark (h : Hdr) (set : Bool) (n : BitVec 8) : Statement (.mark h set n) := fun _ e => Option.some.inj e ▸
  shape_of _ _ _ _ _ rfl (by decide) (by decide) (by simp)
theorem waitf (h : Hdr) (n : BitVec 8) : Statement (.waitf h n) := fun _ e => Option.some.inj e ▸
  shape_of _ _ _ _ _ rfl (by decide) (by decide) (by simp)
theorem alloc (h : Hdr) (o : AllocOp) : Statement (.alloc h o) := fun _ e => Option.some.inj e ▸
  shape_of _ _ _ _ _ rfl (by decide) (by decide) (by simp)
theorem free (h : Hdr) (p : PIdx) (n : BitVec 8) : Statement (.free h p n) := fun _ e => Option.some.inj e ▸
  shape_of _ _ _ _ _ rfl (by decide) (by decide) (by simp)
theorem mapg (h : Hdr) (o : AllocOp) : Statement (.mapg h o) := fun _ e => Option.some.inj e ▸
  shape_of _ _ _ _ _ rfl (by decide) (by decide) (by simp)
theorem ltq (h : Hdr) (d : RegCode) (n : BitVec 8) : Statement (.ltq h d n) := fun _ e => Option.some.inj e ▸
  shape_of _ _ _ _ _ rfl (by decide) (by decide) (by simp)
theorem revive (h : Hdr) (p : PIdx) (n : BitVec 8) : Statement (.revive h p n) := fun _ e => Option.some.inj e ▸
  shape_of _ _ _ _ _ rfl (by decide) (by decide) (by simp)
theorem waitcap (h : Hdr) (o : WaitcapOp) : Statement (.waitcap h o) := fun _ e => Option.some.inj e ▸
  shape_of _ _ _ _ _ rfl (by decide) (by decide) (by simp)
theorem rerank (h : Hdr) (o : RerankOp) : Statement (.rerank h o) := fun _ e => Option.some.inj e ▸
  shape_of _ _ _ _ _ rfl (by decide) (by decide) (by simp)
theorem capq (h : Hdr) (st : Bool) (d : RegCode) : Statement (.capq h st d) := fun _ e => Option.some.inj e ▸
  shape_of _ _ _ _ _ rfl (by decide) (by decide) (by simp)
theorem acpy (h : Hdr) (o : CpyOp) : Statement (.acpy h o) := fun _ e => Option.some.inj e ▸
  shape_of _ _ _ _ _ rfl (by decide) (by decide) (by simp)
theorem asto (h : Hdr) (o : CpyOp) : Statement (.asto h o) := fun _ e => Option.some.inj e ▸
  shape_of _ _ _ _ _ rfl (by decide) (by decide) (by simp)
theorem twait (h : Hdr) (old : Bool) (tag : BitVec 3) : Statement (.twait h old tag) := fun _ e => Option.some.inj e ▸
  shape_of _ _ _ _ _ rfl (by decide) (by decide) (by simp)
theorem tcnt (h : Hdr) (out clr : Bool) (d : RegCode) : Statement (.tcnt h out clr d) := fun _ e => Option.some.inj e ▸
  shape_of _ _ _ _ _ rfl (by decide) (by decide) (by simp)
theorem bcpy (h : Hdr) (o : BcpyOp) : Statement (.bcpy h o) := fun _ e => Option.some.inj e ▸
  shape_of _ _ _ _ _ rfl (by decide) (by decide) (by simp)
theorem bput (h : Hdr) (o : BputOp) : Statement (.bput h o) := fun _ e => Option.some.inj e ▸
  shape_of _ _ _ _ _ rfl (by decide) (by decide) (by simp)
theorem cwait (h : Hdr) (p : PIdx) (a : RegCode) : Statement (.cwait h p a) := fun _ e => Option.some.inj e ▸
  shape_of _ _ _ _ _ rfl (by decide) (by decide) (by simp)
theorem cqry (h : Hdr) (est : Bool) (d a : RegCode) : Statement (.cqry h est d a) := fun _ e => Option.some.inj e ▸
  shape_of _ _ _ _ _ rfl (by decide) (by decide) (by simp)
theorem migr (h : Hdr) (o : MigrOp) : Statement (.migr h o) := fun _ e => Option.some.inj e ▸
  shape_of _ _ _ _ _ rfl (by decide) (by decide) (by simp)
theorem mma (h : Hdr) (o : MmaOp) : Statement (.mma h o) := fun _ e => Option.some.inj e ▸
  shape_of _ _ _ _ _ rfl (by decide) (by decide) (by simp)
theorem mmas (h : Hdr) (o : MmasOp) : Statement (.mmas h o) := fun _ e => Option.some.inj e ▸
  shape_of _ _ _ _ _ rfl (by decide) (by decide) (by simp)
theorem msca (h : Hdr) (o : MscaOp) : Statement (.msca h o) := fun _ e => Option.some.inj e ▸
  shape_of _ _ _ _ _ rfl (by decide) (by decide) (by simp)
theorem mzero (h : Hdr) (o : TileOp) : Statement (.mzero h o) := fun _ e => Option.some.inj e ▸
  shape_of _ _ _ _ _ rfl (by decide) (by decide) (by simp)
theorem mlda (h : Hdr) (o : TileOp) : Statement (.mlda h o) := fun _ e => Option.some.inj e ▸
  shape_of _ _ _ _ _ rfl (by decide) (by decide) (by simp)
theorem mdrn (h : Hdr) (o : TileOp) : Statement (.mdrn h o) := fun _ e => Option.some.inj e ▸
  shape_of _ _ _ _ _ rfl (by decide) (by decide) (by simp)
theorem mdra (h : Hdr) (o : TileOp) : Statement (.mdra h o) := fun _ e => Option.some.inj e ▸
  shape_of _ _ _ _ _ rfl (by decide) (by decide) (by simp)
theorem mwait (h : Hdr) (p : PIdx) (a : RegCode) : Statement (.mwait h p a) := fun _ e => Option.some.inj e ▸
  shape_of _ _ _ _ _ rfl (by decide) (by decide) (by simp)
theorem bar (h : Hdr) (o : BarOp) : Statement (.bar h o) := fun _ e => Option.some.inj e ▸
  shape_of _ _ _ _ _ rfl (by decide) (by decide) (by simp)
theorem bara (h : Hdr) (o : BarOp) : Statement (.bara h o) := fun _ e => Option.some.inj e ▸
  shape_of _ _ _ _ _ rfl (by decide) (by decide) (by simp)
theorem barw (h : Hdr) (o : BarOp) : Statement (.barw h o) := fun _ e => Option.some.inj e ▸
  shape_of _ _ _ _ _ rfl (by decide) (by decide) (by simp)
theorem phase (h : Hdr) (o : BarOp) : Statement (.phase h o) := fun _ e => Option.some.inj e ▸
  shape_of _ _ _ _ _ rfl (by decide) (by decide) (by simp)
theorem atom (h : Hdr) (o : AtomOp) : Statement (.atom h o) := fun _ e => Option.some.inj e ▸
  shape_of _ _ _ _ _ rfl (by decide) (by decide) (by simp)
theorem atoms (h : Hdr) (o : AtomOp) : Statement (.atoms h o) := fun _ e => Option.some.inj e ▸
  shape_of _ _ _ _ _ rfl (by decide) (by decide) (by simp)
theorem atred (h : Hdr) (o : AtomOp) : Statement (.atred h o) := fun _ e => Option.some.inj e ▸
  shape_of _ _ _ _ _ rfl (by decide) (by decide) (by simp)
theorem tokq (h : Hdr) (sp : Bool) (d : RegCode) : Statement (.tokq h sp d) := fun _ e => Option.some.inj e ▸
  shape_of _ _ _ _ _ rfl (by decide) (by decide) (by simp)
theorem priceq (h : Hdr) (d a : RegCode) : Statement (.priceq h d a) := fun _ e => Option.some.inj e ▸
  shape_of _ _ _ _ _ rfl (by decide) (by decide) (by simp)
theorem tickr (h : Hdr) (d a : RegCode) : Statement (.tickr h d a) := fun _ e => Option.some.inj e ▸
  shape_of _ _ _ _ _ rfl (by decide) (by decide) (by simp)
theorem cntr (h : Hdr) (idx : BitVec 6) (d : RegCode) : Statement (.cntr h idx d) := fun _ e => Option.some.inj e ▸
  shape_of _ _ _ _ _ rfl (by decide) (by decide) (by simp)
theorem phint (h : Hdr) (kind : BitVec 3) (a : RegCode) : Statement (.phint h kind a) := fun _ e => Option.some.inj e ▸
  shape_of _ _ _ _ _ rfl (by decide) (by decide) (by simp)
theorem spawn (h : Hdr) (o : SpawnOp) : Statement (.spawn h o) := fun _ e => Option.some.inj e ▸
  shape_of _ _ _ _ _ rfl (by decide) (by decide) (by simp)
theorem join (h : Hdr) (o : JoinOp) : Statement (.join h o) := fun _ e => Option.some.inj e ▸
  shape_of _ _ _ _ _ rfl (by decide) (by decide) (by simp)
theorem park (h : Hdr) (j : Bool) (a : RegCode) : Statement (.park h j a) := fun _ e => Option.some.inj e ▸
  shape_of _ _ _ _ _ rfl (by decide) (by decide) (by simp)
theorem launch (h : Hdr) (o : LaunchOp) : Statement (.launch h o) := fun _ e => Option.some.inj e ▸
  shape_of _ _ _ _ _ rfl (by decide) (by decide) (by simp)
theorem trap (h : Hdr) (o : TrapOp) : Statement (.trap h o) := fun _ e => Option.some.inj e ▸
  shape_of _ _ _ _ _ rfl (by decide) (by decide) (by simp)
theorem rett (h : Hdr) (form : BitVec 3) : Statement (.rett h form) := fun _ e => Option.some.inj e ▸
  shape_of _ _ _ _ _ rfl (by decide) (by decide) (by simp)
theorem seth (h : Hdr) (o : SethOp) : Statement (.seth h o) := fun _ e => Option.some.inj e ▸
  shape_of _ _ _ _ _ rfl (by decide) (by decide) (by simp)
theorem tmask (h : Hdr) (o : TmaskOp) : Statement (.tmask h o) := fun _ e => Option.some.inj e ▸
  shape_of _ _ _ _ _ rfl (by decide) (by decide) (by simp)
theorem ckpt (h : Hdr) (mark : Bool) (a : RegCode) : Statement (.ckpt h mark a) := fun _ e => Option.some.inj e ▸
  shape_of _ _ _ _ _ rfl (by decide) (by decide) (by simp)
theorem symq (h : Hdr) (sel : BitVec 3) (el : BitVec 4) (d : RegCode) : Statement (.symq h sel el d) := fun _ e => Option.some.inj e ▸
  shape_of _ _ _ _ _ rfl (by decide) (by decide) (by simp)
theorem imgw (h : Hdr) (p : PIdx) : Statement (.imgw h p) := fun _ e => Option.some.inj e ▸
  shape_of _ _ _ _ _ rfl (by decide) (by decide) (by simp)

theorem loopEnd (r : SlotRef) : Statement (.loopEnd r) := nofun
theorem threadPromotion (r : SlotRef) (lane : Nat) : Statement (.threadPromotion r lane) := nofun
theorem blockPlacement (e : PlaceEv) : Statement (.blockPlacement e) := nofun
theorem prologueBinding (block : Nat) : Statement (.prologueBinding block) := nofun
theorem crewStart (block : Nat) : Statement (.crewStart block) := nofun
theorem taskCrewForm (e : TaskEv) : Statement (.taskCrewForm e) := nofun
theorem taskBinTimeout (e : TaskEv) : Statement (.taskBinTimeout e) := nofun
theorem crewRelease (r : SlotRef) : Statement (.crewRelease r) := nofun
theorem blockComplete (block : Nat) : Statement (.blockComplete block) := nofun
theorem launchComplete (launch : Nat) : Statement (.launchComplete launch) := nofun
theorem timeSliceEviction (block : Nat) : Statement (.timeSliceEviction block) := nofun
theorem watchdog (r : SlotRef) : Statement (.watchdog r) := nofun
theorem sleepWake (r : SlotRef) : Statement (.sleepWake r) := nofun
theorem tokenInjection (die : Nat) : Statement (.tokenInjection die) := nofun
theorem tokenTake (core : Nat) : Statement (.tokenTake core) := nofun
theorem ringClaim (core : Nat) : Statement (.ringClaim core) := nofun
theorem partyHungry (core : Nat) : Statement (.partyHungry core) := nofun
theorem bTileLoad (quad : Nat) : Statement (.bTileLoad quad) := nofun
theorem mmasGather (quad : Nat) : Statement (.mmasGather quad) := nofun
theorem matrixGrant (quad : Nat) : Statement (.matrixGrant quad) := nofun
theorem matrixOpComplete (quad : Nat) (port : Bool) : Statement (.matrixOpComplete quad port) := nofun
theorem bankSpill (quad bank : Nat) : Statement (.bankSpill quad bank) := nofun
theorem bankFill (quad bank : Nat) : Statement (.bankFill quad bank) := nofun
theorem copyStart (r : ReqRef) : Statement (.copyStart r) := nofun
theorem copyLanding (r : ReqRef) : Statement (.copyLanding r) := nofun
theorem copyChunk (r : ReqRef) (unit : Nat) : Statement (.copyChunk r unit) := nofun
theorem bulkCopyComplete (r : ReqRef) : Statement (.bulkCopyComplete r) := nofun
theorem pageFault (r : ReqRef) : Statement (.pageFault r) := nofun
theorem pageResume (p : PageRef) : Statement (.pageResume p) := nofun
theorem pageFail (p : PageRef) : Statement (.pageFail p) := nofun
theorem copyUnitReset (core : Nat) (ctx : Option Nat) : Statement (.copyUnitReset core ctx) := nofun
theorem engineReset (quad : Nat) (ctx : Option Nat) : Statement (.engineReset quad ctx) := nofun
theorem publishRequestLanding (core : Nat) : Statement (.publishRequestLanding core) := nofun
theorem generationOpen (key : Nat) : Statement (.generationOpen key) := nofun
theorem waveRelease (r : SlotRef) : Statement (.waveRelease r) := nofun
theorem atredUpdate (r : ReqRef) : Statement (.atredUpdate r) := nofun
theorem migrCommit (r : ReqRef) : Statement (.migrCommit r) := nofun
theorem capctlWrite (e : CapctlEv) : Statement (.capctlWrite e) := nofun
theorem kaleDoom (core : Nat) : Statement (.kaleDoom core) := nofun
theorem darkInstant (core : Nat) : Statement (.darkInstant core) := nofun
theorem engineReadCancel (r : ReqRef) : Statement (.engineReadCancel r) := nofun
theorem bankWake (core bank : Nat) : Statement (.bankWake core bank) := nofun
theorem waitcapDeadline (r : SlotRef) : Statement (.waitcapDeadline r) := nofun
theorem waitcapWake (r : SlotRef) : Statement (.waitcapWake r) := nofun
theorem claimExpiry (r : SlotRef) : Statement (.claimExpiry r) := nofun
theorem tkcapWrite (core v : Nat) : Statement (.tkcapWrite core v) := nofun
theorem ltdatWrite (core : Nat) : Statement (.ltdatWrite core) := nofun
theorem cerrClear (ctx : Nat) : Statement (.cerrClear ctx) := nofun
theorem controlBlockWrite (ctx : Nat) (f : CcbField) (v : Nat) : Statement (.controlBlockWrite ctx f v) := nofun
theorem registerWrite (r : CtrlReg) (v : Nat) : Statement (.registerWrite r v) := nofun
theorem coalescerWrite (core : Nat) : Statement (.coalescerWrite core) := nofun
theorem operatingPointChange (e : PointEv) : Statement (.operatingPointChange e) := nofun
theorem controlLoop (ws : List LoopWrite) : Statement (.controlLoop ws) := nofun
theorem stallCounterSnapshot (quad : Nat) : Statement (.stallCounterSnapshot quad) := nofun
theorem preemption (e : PreemptEv) : Statement (.preemption e) := nofun
theorem crewSave (r : SlotRef) : Statement (.crewSave r) := nofun
theorem crewRestore (e : RestoreEv) : Statement (.crewRestore e) := nofun
theorem checkpoint (ctx : Nat) : Statement (.checkpoint ctx) := nofun
theorem replay (ctx : Nat) (crew : BitVec 16) (target : Nat) : Statement (.replay ctx crew target) := nofun
theorem tailWrite (q : QueueRef) (tail : BitVec 16) : Statement (.tailWrite q tail) := nofun
theorem launchRelease (r : RecRef) : Statement (.launchRelease r) := nofun
theorem cond (r : RecRef) : Statement (.cond r) := nofun
theorem signal (r : RecRef) : Statement (.signal r) := nofun
theorem wait (r : RecRef) : Statement (.wait r) := nofun
theorem liveUpdate (step : UpdateStep) : Statement (.liveUpdate step) := nofun
theorem imageVerify (e : ImageEv) : Statement (.imageVerify e) := nofun
theorem ownershipTransfer  : Statement (.ownershipTransfer ) := nofun
theorem packageReset (stage : Stage) (testOk : Bool) : Statement (.packageReset stage testOk) := nofun
theorem linkTraining (link : Nat) (bothEttil : Bool) (testsOk : Bool) : Statement (.linkTraining link bothEttil testsOk) := nofun
theorem linkRetrain (link : Nat) : Statement (.linkRetrain link) := nofun
theorem powerStateEntry (p : Power) : Statement (.powerStateEntry p) := nofun
theorem powerStateExit (testOk : Bool) : Statement (.powerStateExit testOk) := nofun
theorem run (kernel : Option RunEv) : Statement (.run kernel) := nofun
theorem breakAt (pc : Word) : Statement (.breakAt pc) := nofun
theorem step (n : Nat) : Statement (.step n) := nofun
theorem tags  : Statement (.tags ) := nofun
theorem tokens  : Statement (.tokens ) := nofun
theorem banks  : Statement (.banks ) := nofun
theorem print (f : PrintForm) : Statement (.print f) := nofun
theorem whereCmd  : Statement (.whereCmd ) := nofun
theorem holdCopy  : Statement (.holdCopy ) := nofun
theorem releaseCopy  : Statement (.releaseCopy ) := nofun
theorem cap (n : Nat) (after : Option Nat) : Statement (.cap n after) := nofun
theorem capAuto  : Statement (.capAuto ) := nofun
theorem focus (bx bz : Nat) : Statement (.focus bx bz) := nofun
theorem atomUpdate (r : ReqRef) : Statement (.atomUpdate r) := nofun
theorem contextKill (ctx : Nat) : Statement (.contextKill ctx) := nofun
theorem rstep (ctx : Nat) : Statement (.rstep ctx) := nofun
theorem ownerKeyEnrollment (key : Nat) : Statement (.ownerKeyEnrollment key) := nofun
theorem queueStopClear (q : QueueRef) : Statement (.queueStopClear q) := nofun
theorem ettilWrite (e : EttilEv) : Statement (.ettilWrite e) := nofun

end Sys2Proof.Laws.Encodes
end

