-- ==== Sys2Proof/Laws/Ready.lean ====
section
/-! SUPPORT. The hypotheses of the statements, as checks that a concrete machine passes. -/

namespace Sys2Proof.Machine

/-- A property of every listed lane of a mask. -/
def laneAll (m : Mask) (p : Nat → Bool) : Bool := (List.range 64).all fun l => !m.getLsbD l || p l

theorem laneAll_sound {m : Mask} {p : Nat → Bool} (h : laneAll m p = true) :
    ∀ l, m.getLsbD l = true → p l = true := by
  intro l hl
  have h64 : l < 64 := by
    by_contra hc
    rw [BitVec.getLsbD_of_ge m l (by omega)] at hl
    cases hl
  have := List.all_eq_true.mp h l (List.mem_range.mpr h64)
  simpa [hl] using this

/-- `Gathered` as a check. -/
def gatheredB (i : Instr) (h : Hdr) (g : Group) (k : Crew) : Bool :=
  match i.maskPair with
  | some mr => laneAll g.mask fun l => match k.thread? l with
    | some t => decide (t.member mr = g.mask)
    | none => true
  | none =>
    let hand := k.handles g.mask
    let rett := i.isRett && hand
    if i.collective || rett then
      let scope := if hand then k.live &&& k.trap.hact else k.live
      (!hand || decide (g.mask &&& k.trap.hact = g.mask)) && decide (scope &&& ~~~g.mask = 0)
        && (rett || k.threads.all fun p => p.2.live || (hand && !k.trap.frame.act.getLsbD p.1))
        && (k.splitAt g.mask scope g.pc false).isNone && decide (k.holding h g.mask = g.mask)
    else true

theorem gatheredB_sound {i : Instr} {h : Hdr} {g : Group} {k : Crew} (hb : gatheredB i h g k = true) :
    Gathered i h g k := by
  unfold gatheredB at hb
  unfold Gathered
  cases hm : i.maskPair with
  | some mr =>
    simp only [hm] at hb ⊢
    intro l t hl ht
    have := laneAll_sound hb l hl
    simpa [ht] using this
  | none =>
    simp only [hm] at hb ⊢
    split at hb
    · next hc =>
      rw [if_pos hc]
      simp only [Bool.and_eq_true, decide_eq_true_eq, Option.isNone_iff_eq_none, Bool.or_eq_true,
        Bool.not_eq_true', List.all_eq_true] at hb
      obtain ⟨⟨⟨⟨h1, h2⟩, h3⟩, h4⟩, h5⟩ := hb
      refine ⟨fun hh => ?_, h2, fun hr p hp => ?_, h4, h5⟩
      · rcases h1 with h1 | h1
        · rw [hh] at h1; cases h1
        · exact h1
      · rcases h3 with h3 | h3
        · simp [h3.1, h3.2] at hr
        · exact h3 p hp
    · next hc => rw [if_neg hc]; trivial

/-- `Stands` as a check. -/
def standsB (s : State) (i : Instr) (h : Hdr) (g : Group) (k : Crew) (price : Nat) : Bool :=
  !g.paid && g.chunk.isNone && decide (g.parts = [(g.slot, g.mask)]) && decide (g.mask ≠ 0) && decide (s.crew? g.core g.slot = some k)
    && decide ((s.core g.core).slotOf? k.id.ctx k.id.crewId = some g.slot)
    && laneAll g.mask (fun l => (k.thread? l).isSome)
    && k.threads.all (fun p => !g.mask.getLsbD p.1 || decide (p.2.st = .ready))
    && gatheredB i h g k && decide (k.buffered g.pc = some k) && (s.convCode i h g).isNone
    && decide (price ≤ (s.core g.core).tok.tkcap)

theorem standsB_sound {s : State} {i : Instr} {h : Hdr} {g : Group} {k : Crew} {price : Nat}
    (hb : standsB s i h g k price = true) : Stands s i h g k price := by
  simp only [standsB, Bool.and_eq_true, Bool.not_eq_true', decide_eq_true_eq, Option.isNone_iff_eq_none,
    List.all_eq_true, Bool.or_eq_true] at hb
  obtain ⟨⟨⟨⟨⟨⟨⟨⟨⟨⟨⟨h1, h0⟩, h2⟩, h3⟩, h4⟩, h5⟩, h6⟩, h7⟩, h8⟩, h9⟩, h10⟩, h11⟩ := hb
  refine ⟨h1, h0, h2, h3, h4, h5, fun l hl => ?_, fun p hp hl => ?_, gatheredB_sound h8, h9, h10, h11⟩
  · exact Option.isSome_iff_exists.mp (laneAll_sound h6 l hl)
  · rcases h7 p hp with h | h
    · rw [hl] at h; cases h
    · exact h

/-- `Passes` as a check. -/
def passesB (s : State) (i : Instr) (h : Hdr) (g : Group) (k : Crew) (price : Nat) : Bool :=
  standsB s i h g k price
    && ((s.earlySource i h g g.slot g.mask).isNone || !k.stalls g.mask (k.holding h g.mask))
    && (!g.clsA || decide (s.priceAt g.core (gatePrice i) = 0)
      || (s.core g.core).canPay g.slot (s.priceAt g.core (gatePrice i)))

theorem passesB_sound {s : State} {i : Instr} {h : Hdr} {g : Group} {k : Crew} {price : Nat}
    (hb : passesB s i h g k price = true) : Passes s i h g k price := by
  simp only [passesB, Bool.and_eq_true, Bool.not_eq_true', decide_eq_true_eq, Option.isNone_iff_eq_none,
    Bool.or_eq_true] at hb
  obtain ⟨⟨h1, h2⟩, h3⟩ := hb
  refine ⟨standsB_sound h1, h2, fun ha => ?_⟩
  rcases h3 with (h | h) | h
  · rw [ha] at h; cases h
  · exact .inl h
  · exact .inr h

/-- `Ready` as a check. -/
def readyB (s : State) (i : Instr) (h : Hdr) (g : Group) (k : Crew) : Bool :=
  decide (s.cur = some g) && passesB s i h g k (s.priceAt g.core (gatePrice i))

theorem readyB_sound {s : State} {i : Instr} {h : Hdr} {g : Group} {k : Crew} (hb : readyB s i h g k = true) :
    Ready s i h g k := by
  simp only [readyB, Bool.and_eq_true, decide_eq_true_eq] at hb
  exact ⟨hb.1, passesB_sound hb.2⟩

/-- A crew without an open loop level meets no end of one. -/
theorem clear_of_noLevel {k : Crew} (h : k.loops.levels = []) (x : Context) (m : Mask) (dest : Nat → Word) :
    k.Clear x m dest := by
  intro d v hv
  simp [Crew.level?, h, lastWhere] at hv

end Sys2Proof.Machine
end

