-- ==== Sys2Proof/Laws/State.lean ====
section
/-! SUPPORT. What each update of the machine leaves as it was: one lemma per field and update, and for the readers of
cores, quads, dies and contexts. -/

namespace Sys2Proof.Machine

/-! ## setCore -/

@[simp] theorem State.cycle_setCore (s : State) (c : Nat) (x : Core) : (s.setCore c x).cycle = s.cycle := rfl
@[simp] theorem State.quads_setCore (s : State) (c : Nat) (x : Core) : (s.setCore c x).quads = s.quads := rfl
@[simp] theorem State.dies_setCore (s : State) (c : Nat) (x : Core) : (s.setCore c x).dies = s.dies := rfl
@[simp] theorem State.contexts_setCore (s : State) (c : Nat) (x : Core) : (s.setCore c x).contexts = s.contexts := rfl
@[simp] theorem State.launches_setCore (s : State) (c : Nat) (x : Core) : (s.setCore c x).launches = s.launches := rfl
@[simp] theorem State.blocks_setCore (s : State) (c : Nat) (x : Core) : (s.setCore c x).blocks = s.blocks := rfl
@[simp] theorem State.globalMem_setCore (s : State) (c : Nat) (x : Core) : (s.setCore c x).globalMem = s.globalMem := rfl
@[simp] theorem State.device_setCore (s : State) (c : Nat) (x : Core) : (s.setCore c x).device = s.device := rfl
@[simp] theorem State.agenda_setCore (s : State) (c : Nat) (x : Core) : (s.setCore c x).agenda = s.agenda := rfl
@[simp] theorem State.cur_setCore (s : State) (c : Nat) (x : Core) : (s.setCore c x).cur = s.cur := rfl
@[simp] theorem State.moved_setCore (s : State) (c : Nat) (x : Core) : (s.setCore c x).moved = s.moved := rfl
@[simp] theorem State.serial_setCore (s : State) (c : Nat) (x : Core) : (s.setCore c x).serial = s.serial := rfl
@[simp] theorem State.freeCtr_setCore (s : State) (c : Nat) (x : Core) : (s.setCore c x).freeCtr = s.freeCtr := rfl
@[simp] theorem State.quad_setCore (s : State) (c : Nat) (x : Core) (j : Nat) : (s.setCore c x).quad j = s.quad j := rfl
@[simp] theorem State.die_setCore (s : State) (c : Nat) (x : Core) (j : Nat) : (s.setCore c x).die j = s.die j := rfl
@[simp] theorem State.context_setCore (s : State) (c : Nat) (x : Core) (j : Nat) : (s.setCore c x).context j = s.context j := rfl
@[simp] theorem State.quadCycle_setCore (s : State) (c : Nat) (x : Core) (j : Nat) : (s.setCore c x).quadCycle j = s.quadCycle j := rfl
@[simp] theorem State.coreCycle_setCore (s : State) (c : Nat) (x : Core) (j : Nat) : (s.setCore c x).coreCycle j = s.coreCycle j := rfl
@[simp] theorem State.tick_setCore (s : State) (c : Nat) (x : Core) : (s.setCore c x).tick = s.tick := rfl

/-! ## modCore -/

@[simp] theorem State.cycle_modCore (s : State) (c : Nat) (f : Core → Core) : (s.modCore c f).cycle = s.cycle := rfl
@[simp] theorem State.quads_modCore (s : State) (c : Nat) (f : Core → Core) : (s.modCore c f).quads = s.quads := rfl
@[simp] theorem State.dies_modCore (s : State) (c : Nat) (f : Core → Core) : (s.modCore c f).dies = s.dies := rfl
@[simp] theorem State.contexts_modCore (s : State) (c : Nat) (f : Core → Core) : (s.modCore c f).contexts = s.contexts := rfl
@[simp] theorem State.launches_modCore (s : State) (c : Nat) (f : Core → Core) : (s.modCore c f).launches = s.launches := rfl
@[simp] theorem State.blocks_modCore (s : State) (c : Nat) (f : Core → Core) : (s.modCore c f).blocks = s.blocks := rfl
@[simp] theorem State.globalMem_modCore (s : State) (c : Nat) (f : Core → Core) : (s.modCore c f).globalMem = s.globalMem := rfl
@[simp] theorem State.device_modCore (s : State) (c : Nat) (f : Core → Core) : (s.modCore c f).device = s.device := rfl
@[simp] theorem State.agenda_modCore (s : State) (c : Nat) (f : Core → Core) : (s.modCore c f).agenda = s.agenda := rfl
@[simp] theorem State.cur_modCore (s : State) (c : Nat) (f : Core → Core) : (s.modCore c f).cur = s.cur := rfl
@[simp] theorem State.moved_modCore (s : State) (c : Nat) (f : Core → Core) : (s.modCore c f).moved = s.moved := rfl
@[simp] theorem State.serial_modCore (s : State) (c : Nat) (f : Core → Core) : (s.modCore c f).serial = s.serial := rfl
@[simp] theorem State.freeCtr_modCore (s : State) (c : Nat) (f : Core → Core) : (s.modCore c f).freeCtr = s.freeCtr := rfl
@[simp] theorem State.quad_modCore (s : State) (c : Nat) (f : Core → Core) (j : Nat) : (s.modCore c f).quad j = s.quad j := rfl
@[simp] theorem State.die_modCore (s : State) (c : Nat) (f : Core → Core) (j : Nat) : (s.modCore c f).die j = s.die j := rfl
@[simp] theorem State.context_modCore (s : State) (c : Nat) (f : Core → Core) (j : Nat) : (s.modCore c f).context j = s.context j := rfl
@[simp] theorem State.quadCycle_modCore (s : State) (c : Nat) (f : Core → Core) (j : Nat) : (s.modCore c f).quadCycle j = s.quadCycle j := rfl
@[simp] theorem State.coreCycle_modCore (s : State) (c : Nat) (f : Core → Core) (j : Nat) : (s.modCore c f).coreCycle j = s.coreCycle j := rfl
@[simp] theorem State.tick_modCore (s : State) (c : Nat) (f : Core → Core) : (s.modCore c f).tick = s.tick := rfl

/-! ## modCrew -/

@[simp] theorem State.cycle_modCrew (s : State) (c slot : Nat) (f : Crew → Crew) : (s.modCrew c slot f).cycle = s.cycle := rfl
@[simp] theorem State.quads_modCrew (s : State) (c slot : Nat) (f : Crew → Crew) : (s.modCrew c slot f).quads = s.quads := rfl
@[simp] theorem State.dies_modCrew (s : State) (c slot : Nat) (f : Crew → Crew) : (s.modCrew c slot f).dies = s.dies := rfl
@[simp] theorem State.contexts_modCrew (s : State) (c slot : Nat) (f : Crew → Crew) : (s.modCrew c slot f).contexts = s.contexts := rfl
@[simp] theorem State.launches_modCrew (s : State) (c slot : Nat) (f : Crew → Crew) : (s.modCrew c slot f).launches = s.launches := rfl
@[simp] theorem State.blocks_modCrew (s : State) (c slot : Nat) (f : Crew → Crew) : (s.modCrew c slot f).blocks = s.blocks := rfl
@[simp] theorem State.globalMem_modCrew (s : State) (c slot : Nat) (f : Crew → Crew) : (s.modCrew c slot f).globalMem = s.globalMem := rfl
@[simp] theorem State.device_modCrew (s : State) (c slot : Nat) (f : Crew → Crew) : (s.modCrew c slot f).device = s.device := rfl
@[simp] theorem State.agenda_modCrew (s : State) (c slot : Nat) (f : Crew → Crew) : (s.modCrew c slot f).agenda = s.agenda := rfl
@[simp] theorem State.cur_modCrew (s : State) (c slot : Nat) (f : Crew → Crew) : (s.modCrew c slot f).cur = s.cur := rfl
@[simp] theorem State.moved_modCrew (s : State) (c slot : Nat) (f : Crew → Crew) : (s.modCrew c slot f).moved = s.moved := rfl
@[simp] theorem State.serial_modCrew (s : State) (c slot : Nat) (f : Crew → Crew) : (s.modCrew c slot f).serial = s.serial := rfl
@[simp] theorem State.freeCtr_modCrew (s : State) (c slot : Nat) (f : Crew → Crew) : (s.modCrew c slot f).freeCtr = s.freeCtr := rfl
@[simp] theorem State.quad_modCrew (s : State) (c slot : Nat) (f : Crew → Crew) (j : Nat) : (s.modCrew c slot f).quad j = s.quad j := rfl
@[simp] theorem State.die_modCrew (s : State) (c slot : Nat) (f : Crew → Crew) (j : Nat) : (s.modCrew c slot f).die j = s.die j := rfl
@[simp] theorem State.context_modCrew (s : State) (c slot : Nat) (f : Crew → Crew) (j : Nat) : (s.modCrew c slot f).context j = s.context j := rfl
@[simp] theorem State.quadCycle_modCrew (s : State) (c slot : Nat) (f : Crew → Crew) (j : Nat) : (s.modCrew c slot f).quadCycle j = s.quadCycle j := rfl
@[simp] theorem State.coreCycle_modCrew (s : State) (c slot : Nat) (f : Crew → Crew) (j : Nat) : (s.modCrew c slot f).coreCycle j = s.coreCycle j := rfl
@[simp] theorem State.tick_modCrew (s : State) (c slot : Nat) (f : Crew → Crew) : (s.modCrew c slot f).tick = s.tick := rfl

/-! ## modQuad -/

@[simp] theorem State.cycle_modQuad (s : State) (q : Nat) (f : Quad → Quad) : (s.modQuad q f).cycle = s.cycle := rfl
@[simp] theorem State.cores_modQuad (s : State) (q : Nat) (f : Quad → Quad) : (s.modQuad q f).cores = s.cores := rfl
@[simp] theorem State.dies_modQuad (s : State) (q : Nat) (f : Quad → Quad) : (s.modQuad q f).dies = s.dies := rfl
@[simp] theorem State.contexts_modQuad (s : State) (q : Nat) (f : Quad → Quad) : (s.modQuad q f).contexts = s.contexts := rfl
@[simp] theorem State.launches_modQuad (s : State) (q : Nat) (f : Quad → Quad) : (s.modQuad q f).launches = s.launches := rfl
@[simp] theorem State.blocks_modQuad (s : State) (q : Nat) (f : Quad → Quad) : (s.modQuad q f).blocks = s.blocks := rfl
@[simp] theorem State.globalMem_modQuad (s : State) (q : Nat) (f : Quad → Quad) : (s.modQuad q f).globalMem = s.globalMem := rfl
@[simp] theorem State.device_modQuad (s : State) (q : Nat) (f : Quad → Quad) : (s.modQuad q f).device = s.device := rfl
@[simp] theorem State.agenda_modQuad (s : State) (q : Nat) (f : Quad → Quad) : (s.modQuad q f).agenda = s.agenda := rfl
@[simp] theorem State.cur_modQuad (s : State) (q : Nat) (f : Quad → Quad) : (s.modQuad q f).cur = s.cur := rfl
@[simp] theorem State.moved_modQuad (s : State) (q : Nat) (f : Quad → Quad) : (s.modQuad q f).moved = s.moved := rfl
@[simp] theorem State.serial_modQuad (s : State) (q : Nat) (f : Quad → Quad) : (s.modQuad q f).serial = s.serial := rfl
@[simp] theorem State.freeCtr_modQuad (s : State) (q : Nat) (f : Quad → Quad) : (s.modQuad q f).freeCtr = s.freeCtr := rfl
@[simp] theorem State.core_modQuad (s : State) (q : Nat) (f : Quad → Quad) (j : Nat) : (s.modQuad q f).core j = s.core j := rfl
@[simp] theorem State.die_modQuad (s : State) (q : Nat) (f : Quad → Quad) (j : Nat) : (s.modQuad q f).die j = s.die j := rfl
@[simp] theorem State.context_modQuad (s : State) (q : Nat) (f : Quad → Quad) (j : Nat) : (s.modQuad q f).context j = s.context j := rfl
@[simp] theorem State.crew?_modQuad (s : State) (q : Nat) (f : Quad → Quad) (j slot : Nat) : (s.modQuad q f).crew? j slot = s.crew? j slot := rfl
@[simp] theorem State.tick_modQuad (s : State) (q : Nat) (f : Quad → Quad) : (s.modQuad q f).tick = s.tick := rfl

/-! ## modDie -/

@[simp] theorem State.cycle_modDie (s : State) (d : Nat) (f : Die → Die) : (s.modDie d f).cycle = s.cycle := rfl
@[simp] theorem State.cores_modDie (s : State) (d : Nat) (f : Die → Die) : (s.modDie d f).cores = s.cores := rfl
@[simp] theorem State.quads_modDie (s : State) (d : Nat) (f : Die → Die) : (s.modDie d f).quads = s.quads := rfl
@[simp] theorem State.contexts_modDie (s : State) (d : Nat) (f : Die → Die) : (s.modDie d f).contexts = s.contexts := rfl
@[simp] theorem State.launches_modDie (s : State) (d : Nat) (f : Die → Die) : (s.modDie d f).launches = s.launches := rfl
@[simp] theorem State.blocks_modDie (s : State) (d : Nat) (f : Die → Die) : (s.modDie d f).blocks = s.blocks := rfl
@[simp] theorem State.globalMem_modDie (s : State) (d : Nat) (f : Die → Die) : (s.modDie d f).globalMem = s.globalMem := rfl
@[simp] theorem State.device_modDie (s : State) (d : Nat) (f : Die → Die) : (s.modDie d f).device = s.device := rfl
@[simp] theorem State.agenda_modDie (s : State) (d : Nat) (f : Die → Die) : (s.modDie d f).agenda = s.agenda := rfl
@[simp] theorem State.cur_modDie (s : State) (d : Nat) (f : Die → Die) : (s.modDie d f).cur = s.cur := rfl
@[simp] theorem State.moved_modDie (s : State) (d : Nat) (f : Die → Die) : (s.modDie d f).moved = s.moved := rfl
@[simp] theorem State.serial_modDie (s : State) (d : Nat) (f : Die → Die) : (s.modDie d f).serial = s.serial := rfl
@[simp] theorem State.freeCtr_modDie (s : State) (d : Nat) (f : Die → Die) : (s.modDie d f).freeCtr = s.freeCtr := rfl
@[simp] theorem State.core_modDie (s : State) (d : Nat) (f : Die → Die) (j : Nat) : (s.modDie d f).core j = s.core j := rfl
@[simp] theorem State.quad_modDie (s : State) (d : Nat) (f : Die → Die) (j : Nat) : (s.modDie d f).quad j = s.quad j := rfl
@[simp] theorem State.context_modDie (s : State) (d : Nat) (f : Die → Die) (j : Nat) : (s.modDie d f).context j = s.context j := rfl
@[simp] theorem State.crew?_modDie (s : State) (d : Nat) (f : Die → Die) (j slot : Nat) : (s.modDie d f).crew? j slot = s.crew? j slot := rfl
@[simp] theorem State.quadCycle_modDie (s : State) (d : Nat) (f : Die → Die) (j : Nat) : (s.modDie d f).quadCycle j = s.quadCycle j := rfl
@[simp] theorem State.coreCycle_modDie (s : State) (d : Nat) (f : Die → Die) (j : Nat) : (s.modDie d f).coreCycle j = s.coreCycle j := rfl
@[simp] theorem State.tick_modDie (s : State) (d : Nat) (f : Die → Die) : (s.modDie d f).tick = s.tick := rfl

/-! ## modContext -/

@[simp] theorem State.cycle_modContext (s : State) (i : Nat) (f : Context → Context) : (s.modContext i f).cycle = s.cycle := rfl
@[simp] theorem State.cores_modContext (s : State) (i : Nat) (f : Context → Context) : (s.modContext i f).cores = s.cores := rfl
@[simp] theorem State.quads_modContext (s : State) (i : Nat) (f : Context → Context) : (s.modContext i f).quads = s.quads := rfl
@[simp] theorem State.dies_modContext (s : State) (i : Nat) (f : Context → Context) : (s.modContext i f).dies = s.dies := rfl
@[simp] theorem State.launches_modContext (s : State) (i : Nat) (f : Context → Context) : (s.modContext i f).launches = s.launches := rfl
@[simp] theorem State.blocks_modContext (s : State) (i : Nat) (f : Context → Context) : (s.modContext i f).blocks = s.blocks := rfl
@[simp] theorem State.globalMem_modContext (s : State) (i : Nat) (f : Context → Context) : (s.modContext i f).globalMem = s.globalMem := rfl
@[simp] theorem State.device_modContext (s : State) (i : Nat) (f : Context → Context) : (s.modContext i f).device = s.device := rfl
@[simp] theorem State.agenda_modContext (s : State) (i : Nat) (f : Context → Context) : (s.modContext i f).agenda = s.agenda := rfl
@[simp] theorem State.cur_modContext (s : State) (i : Nat) (f : Context → Context) : (s.modContext i f).cur = s.cur := rfl
@[simp] theorem State.moved_modContext (s : State) (i : Nat) (f : Context → Context) : (s.modContext i f).moved = s.moved := rfl
@[simp] theorem State.serial_modContext (s : State) (i : Nat) (f : Context → Context) : (s.modContext i f).serial = s.serial := rfl
@[simp] theorem State.freeCtr_modContext (s : State) (i : Nat) (f : Context → Context) : (s.modContext i f).freeCtr = s.freeCtr := rfl
@[simp] theorem State.core_modContext (s : State) (i : Nat) (f : Context → Context) (j : Nat) : (s.modContext i f).core j = s.core j := rfl
@[simp] theorem State.quad_modContext (s : State) (i : Nat) (f : Context → Context) (j : Nat) : (s.modContext i f).quad j = s.quad j := rfl
@[simp] theorem State.die_modContext (s : State) (i : Nat) (f : Context → Context) (j : Nat) : (s.modContext i f).die j = s.die j := rfl
@[simp] theorem State.crew?_modContext (s : State) (i : Nat) (f : Context → Context) (j slot : Nat) : (s.modContext i f).crew? j slot = s.crew? j slot := rfl
@[simp] theorem State.quadCycle_modContext (s : State) (i : Nat) (f : Context → Context) (j : Nat) : (s.modContext i f).quadCycle j = s.quadCycle j := rfl
@[simp] theorem State.coreCycle_modContext (s : State) (i : Nat) (f : Context → Context) (j : Nat) : (s.modContext i f).coreCycle j = s.coreCycle j := rfl
@[simp] theorem State.tick_modContext (s : State) (i : Nat) (f : Context → Context) : (s.modContext i f).tick = s.tick := rfl

/-! ## modLaunch -/

@[simp] theorem State.cycle_modLaunch (s : State) (l : Nat) (f : Launch → Launch) : (s.modLaunch l f).cycle = s.cycle := rfl
@[simp] theorem State.cores_modLaunch (s : State) (l : Nat) (f : Launch → Launch) : (s.modLaunch l f).cores = s.cores := rfl
@[simp] theorem State.quads_modLaunch (s : State) (l : Nat) (f : Launch → Launch) : (s.modLaunch l f).quads = s.quads := rfl
@[simp] theorem State.dies_modLaunch (s : State) (l : Nat) (f : Launch → Launch) : (s.modLaunch l f).dies = s.dies := rfl
@[simp] theorem State.contexts_modLaunch (s : State) (l : Nat) (f : Launch → Launch) : (s.modLaunch l f).contexts = s.contexts := rfl
@[simp] theorem State.blocks_modLaunch (s : State) (l : Nat) (f : Launch → Launch) : (s.modLaunch l f).blocks = s.blocks := rfl
@[simp] theorem State.globalMem_modLaunch (s : State) (l : Nat) (f : Launch → Launch) : (s.modLaunch l f).globalMem = s.globalMem := rfl
@[simp] theorem State.device_modLaunch (s : State) (l : Nat) (f : Launch → Launch) : (s.modLaunch l f).device = s.device := rfl
@[simp] theorem State.agenda_modLaunch (s : State) (l : Nat) (f : Launch → Launch) : (s.modLaunch l f).agenda = s.agenda := rfl
@[simp] theorem State.cur_modLaunch (s : State) (l : Nat) (f : Launch → Launch) : (s.modLaunch l f).cur = s.cur := rfl
@[simp] theorem State.moved_modLaunch (s : State) (l : Nat) (f : Launch → Launch) : (s.modLaunch l f).moved = s.moved := rfl
@[simp] theorem State.serial_modLaunch (s : State) (l : Nat) (f : Launch → Launch) : (s.modLaunch l f).serial = s.serial := rfl
@[simp] theorem State.freeCtr_modLaunch (s : State) (l : Nat) (f : Launch → Launch) : (s.modLaunch l f).freeCtr = s.freeCtr := rfl
@[simp] theorem State.core_modLaunch (s : State) (l : Nat) (f : Launch → Launch) (j : Nat) : (s.modLaunch l f).core j = s.core j := rfl
@[simp] theorem State.quad_modLaunch (s : State) (l : Nat) (f : Launch → Launch) (j : Nat) : (s.modLaunch l f).quad j = s.quad j := rfl
@[simp] theorem State.die_modLaunch (s : State) (l : Nat) (f : Launch → Launch) (j : Nat) : (s.modLaunch l f).die j = s.die j := rfl
@[simp] theorem State.context_modLaunch (s : State) (l : Nat) (f : Launch → Launch) (j : Nat) : (s.modLaunch l f).context j = s.context j := rfl
@[simp] theorem State.crew?_modLaunch (s : State) (l : Nat) (f : Launch → Launch) (j slot : Nat) : (s.modLaunch l f).crew? j slot = s.crew? j slot := rfl
@[simp] theorem State.quadCycle_modLaunch (s : State) (l : Nat) (f : Launch → Launch) (j : Nat) : (s.modLaunch l f).quadCycle j = s.quadCycle j := rfl
@[simp] theorem State.coreCycle_modLaunch (s : State) (l : Nat) (f : Launch → Launch) (j : Nat) : (s.modLaunch l f).coreCycle j = s.coreCycle j := rfl
@[simp] theorem State.tick_modLaunch (s : State) (l : Nat) (f : Launch → Launch) : (s.modLaunch l f).tick = s.tick := rfl

/-! ## modBlock -/

@[simp] theorem State.cycle_modBlock (s : State) (b : Nat) (f : Block → Block) : (s.modBlock b f).cycle = s.cycle := rfl
@[simp] theorem State.cores_modBlock (s : State) (b : Nat) (f : Block → Block) : (s.modBlock b f).cores = s.cores := rfl
@[simp] theorem State.quads_modBlock (s : State) (b : Nat) (f : Block → Block) : (s.modBlock b f).quads = s.quads := rfl
@[simp] theorem State.dies_modBlock (s : State) (b : Nat) (f : Block → Block) : (s.modBlock b f).dies = s.dies := rfl
@[simp] theorem State.contexts_modBlock (s : State) (b : Nat) (f : Block → Block) : (s.modBlock b f).contexts = s.contexts := rfl
@[simp] theorem State.launches_modBlock (s : State) (b : Nat) (f : Block → Block) : (s.modBlock b f).launches = s.launches := rfl
@[simp] theorem State.globalMem_modBlock (s : State) (b : Nat) (f : Block → Block) : (s.modBlock b f).globalMem = s.globalMem := rfl
@[simp] theorem State.device_modBlock (s : State) (b : Nat) (f : Block → Block) : (s.modBlock b f).device = s.device := rfl
@[simp] theorem State.agenda_modBlock (s : State) (b : Nat) (f : Block → Block) : (s.modBlock b f).agenda = s.agenda := rfl
@[simp] theorem State.cur_modBlock (s : State) (b : Nat) (f : Block → Block) : (s.modBlock b f).cur = s.cur := rfl
@[simp] theorem State.moved_modBlock (s : State) (b : Nat) (f : Block → Block) : (s.modBlock b f).moved = s.moved := rfl
@[simp] theorem State.serial_modBlock (s : State) (b : Nat) (f : Block → Block) : (s.modBlock b f).serial = s.serial := rfl
@[simp] theorem State.freeCtr_modBlock (s : State) (b : Nat) (f : Block → Block) : (s.modBlock b f).freeCtr = s.freeCtr := rfl
@[simp] theorem State.core_modBlock (s : State) (b : Nat) (f : Block → Block) (j : Nat) : (s.modBlock b f).core j = s.core j := rfl
@[simp] theorem State.quad_modBlock (s : State) (b : Nat) (f : Block → Block) (j : Nat) : (s.modBlock b f).quad j = s.quad j := rfl
@[simp] theorem State.die_modBlock (s : State) (b : Nat) (f : Block → Block) (j : Nat) : (s.modBlock b f).die j = s.die j := rfl
@[simp] theorem State.context_modBlock (s : State) (b : Nat) (f : Block → Block) (j : Nat) : (s.modBlock b f).context j = s.context j := rfl
@[simp] theorem State.crew?_modBlock (s : State) (b : Nat) (f : Block → Block) (j slot : Nat) : (s.modBlock b f).crew? j slot = s.crew? j slot := rfl
@[simp] theorem State.quadCycle_modBlock (s : State) (b : Nat) (f : Block → Block) (j : Nat) : (s.modBlock b f).quadCycle j = s.quadCycle j := rfl
@[simp] theorem State.coreCycle_modBlock (s : State) (b : Nat) (f : Block → Block) (j : Nat) : (s.modBlock b f).coreCycle j = s.coreCycle j := rfl
@[simp] theorem State.tick_modBlock (s : State) (b : Nat) (f : Block → Block) : (s.modBlock b f).tick = s.tick := rfl

/-! ## bump -/

@[simp] theorem State.cycle_bump (s : State) : s.bump.cycle = s.cycle := rfl
@[simp] theorem State.cores_bump (s : State) : s.bump.cores = s.cores := rfl
@[simp] theorem State.quads_bump (s : State) : s.bump.quads = s.quads := rfl
@[simp] theorem State.dies_bump (s : State) : s.bump.dies = s.dies := rfl
@[simp] theorem State.contexts_bump (s : State) : s.bump.contexts = s.contexts := rfl
@[simp] theorem State.launches_bump (s : State) : s.bump.launches = s.launches := rfl
@[simp] theorem State.blocks_bump (s : State) : s.bump.blocks = s.blocks := rfl
@[simp] theorem State.globalMem_bump (s : State) : s.bump.globalMem = s.globalMem := rfl
@[simp] theorem State.device_bump (s : State) : s.bump.device = s.device := rfl
@[simp] theorem State.agenda_bump (s : State) : s.bump.agenda = s.agenda := rfl
@[simp] theorem State.cur_bump (s : State) : s.bump.cur = s.cur := rfl
@[simp] theorem State.moved_bump (s : State) : s.bump.moved = s.moved := rfl
@[simp] theorem State.freeCtr_bump (s : State) : s.bump.freeCtr = s.freeCtr := rfl
@[simp] theorem State.serial_bump (s : State) : s.bump.serial = s.serial + 1 := rfl

/-! ## What the update itself writes -/

theorem State.quad_modQuad (s : State) (q : Nat) (f : Quad → Quad) : (s.modQuad q f).quad q = f (s.quad q) :=
  tget_tset_same ..
theorem State.quad_modQuad_ne (s : State) {q j : Nat} (f : Quad → Quad) (h : j ≠ q) : (s.modQuad q f).quad j = s.quad j :=
  tget_tset_ne _ _ _ h
theorem State.die_modDie (s : State) (d : Nat) (f : Die → Die) : (s.modDie d f).die d = f (s.die d) :=
  tget_tset_same ..
theorem State.die_modDie_ne (s : State) {d j : Nat} (f : Die → Die) (h : j ≠ d) : (s.modDie d f).die j = s.die j :=
  tget_tset_ne _ _ _ h
theorem State.context_modContext_ne (s : State) {i j : Nat} (f : Context → Context) (h : j ≠ i) :
    (s.modContext i f).context j = s.context j := by
  simp only [State.context, State.modContext, tget, tget?_tmod_ne _ _ h]
theorem State.context_modContext (s : State) (i : Nat) (f : Context → Context) (h : (tget? s.contexts i).isSome = true) :
    (s.modContext i f).context i = f (s.context i) := by
  obtain ⟨x, hx⟩ := Option.isSome_iff_exists.mp h
  simp only [State.context, State.modContext, tget, tget?_tmod_same, hx, Option.map_some, Option.getD_some]
theorem State.launch_modLaunch (s : State) (l : Nat) (f : Launch → Launch) :
    tget? (s.modLaunch l f).launches l = (tget? s.launches l).map f := tget?_tmod_same ..
theorem State.launch_modLaunch_ne (s : State) {l j : Nat} (f : Launch → Launch) (h : j ≠ l) :
    tget? (s.modLaunch l f).launches j = tget? s.launches j := tget?_tmod_ne _ _ h
theorem State.block_modBlock (s : State) (b : Nat) (f : Block → Block) :
    tget? (s.modBlock b f).blocks b = (tget? s.blocks b).map f := tget?_tmod_same ..
theorem State.block_modBlock_ne (s : State) {b j : Nat} (f : Block → Block) (h : j ≠ b) :
    tget? (s.modBlock b f).blocks j = tget? s.blocks j := tget?_tmod_ne _ _ h

end Sys2Proof.Machine
end

