-- ==== Sys2Proof/Tests/Slice0.lean ====
section
/-! SUPPORT. Tests: ill-formed terms that WellFormed refuses, words written out from the encodings of the spec, single
steps, and for every statement concrete machines that meet its hypotheses. -/

namespace Sys2Proof.Tests

open Sys2Proof.Machine Sys2Proof.Claims

set_option Elab.async false

/-! ## A small machine -/

/-- Registers of lanes 0 and 1: small numbers, F32 values, p1 in lane 0; and the mask of both lanes in s0 : s1. -/
def lane0 : Tab Word :=
  [(0, 8), (1, 5), (2, 7), (3, 3), (4, 0x3F800000), (5, 0x40000000), (7, 0), (513, 1)]
def lane1 : Tab Word := [(0, 4), (1, 6), (2, 0xFFFFFFFF), (3, 2), (4, 0xBF800000), (5, 0x3F000000), (7, 8)]
def uniform : Tab Word := [(256, 3)]

/-- A crew with threads in lanes 0 and 1, at 0x4000. -/
def crewOf (a b u : Tab Word) : Crew :=
  { standCrew 0x4000 0 with
    sregs := u, threads := [(0, .start 0x4000 a u 0xFFFF 0), (1, .start 0x4000 b u 0xFFFF 0)] }
def crew0 : Crew := crewOf lane0 lane1 uniform

/-- The machine: that crew alone in slot 0 of core 0, over a code of NOPs. -/
def world (k : Crew) (f : Core → Core) : State :=
  let s := State.reset.standAt ((List.range 12).flatMap fun _ => (encode (.nop (hdr 0))).flatMap fun g => leBytes g.toNat 4)
  { s with cores := [(0, f { s.core 0 with slots := [(0, k)] })], agenda := [] }
def w0 : State := world crew0 id

/-- Its group at an instruction, and the machine in which it issues. -/
def grp (i : Instr) : Group :=
  { core := 0, parts := [(0, 3)], pc := 0x4000, len := 4 * (encode i).length,
    clsA := opcClassA (opcOf ((encode i).headD 0)), paid := false, chunk := none }
def issue (i : Instr) (s : State) : State := { s with cur := some (grp i) }

/-- No lane of the group is at the end of a loop body. -/
theorem lands (r : Result) (s : State) (g : Group) (k : Crew) (h : k.loops.levels = []) : r.Lands s g k :=
  clear_of_noLevel h _ _ _
theorem pointLands (p : Point) (s : State) (g : Group) (k : Crew) (h : k.loops.levels = []) : p.Lands s g k :=
  clear_of_noLevel h _ _ _

/-- The hypotheses of a statement about results, for one instruction. -/
def resultB (f : Group → Instr → Option Result) (s : State) (k : Crew) (i : Instr) : Bool :=
  match f (grp i) i with
  | some r => i.wellFormed && readyB (issue i s) i r.h (grp i) k
  | none => false

theorem resultB_sound {f : Group → Instr → Option Result} {s : State} {k : Crew} {l : List Instr}
    (hl : k.loops.levels = []) (h : l.all (resultB f s k) = true) :
    ∀ i ∈ l, ∃ r, f (grp i) i = some r ∧ i.wellFormed = true ∧ Ready (issue i s) i r.h (grp i) k
      ∧ r.Lands (issue i s) (grp i) k := by
  intro i hi
  have := List.all_eq_true.mp h i hi
  unfold resultB at this
  cases hf : f (grp i) i with
  | none => simp [hf] at this
  | some r =>
    simp only [hf, Bool.and_eq_true] at this
    exact ⟨r, rfl, this.1, readyB_sound this.2, lands _ _ _ _ hl⟩

/-- Operands v3, v1, v2. -/
def o3 : Op3 := ⟨3, 1, 2, 0, 0⟩
def u3 : Op3 := ⟨3, 0, 2, 0, 0⟩
def oI : OpI := ⟨3, 1, 9, 0, 0⟩
def f3 : Op3 := ⟨3, 4, 5, 0, 0⟩
def uI : OpI := ⟨3, 0, 9, 0, 0⟩
def fI : OpI := ⟨3, 4, 0x3F800000, 0, 0⟩
def h0 : Hdr := hdr 0
/-- Guarded by p1, which holds in lane 0; by p2, which holds nowhere. -/
def hp1 : Hdr := guardBy false 1
def hp2 : Hdr := guardBy false 2

def integerForms : List Instr :=
  [.iadd h0 o3, .isub h0 o3, .imul h0 o3, .imulh h0 o3, .imad h0 o3, .imin h0 o3, .imax h0 o3, .iabs h0 u3,
   .and h0 o3, .or h0 o3, .xor h0 o3, .andn h0 o3, .shl h0 o3, .shr h0 o3, .sar h0 o3, .bfx h0 o3, .bfi h0 o3,
   .popc h0 u3, .clz h0 u3, .brev h0 u3, .iset h0 o3, .mov h0 u3]
def immForms : List Instr :=
  [.iaddImm h0 oI, .isubImm h0 oI, .imulImm h0 oI, .imulhImm h0 oI, .imadImm h0 oI, .iminImm h0 oI, .imaxImm h0 oI,
   .iabsImm h0 uI, .andImm h0 oI, .orImm h0 oI, .xorImm h0 oI, .andnImm h0 oI, .shlImm h0 oI, .shrImm h0 oI,
   .sarImm h0 oI, .movi h0 uI, .isetImm h0 oI, .iadd hp1 o3, .iadd h0 ⟨0x108, 0x101, 0x102, 3, 0⟩]

theorem witness_IntegerAndMoves : ∀ i ∈ integerForms ++ immForms, ∃ r, intResult i = some r ∧ i.wellFormed = true
    ∧ Ready (issue i w0) i r.h (grp i) crew0 ∧ r.Lands (issue i w0) (grp i) crew0 :=
  resultB_sound (f := fun _ => intResult) rfl (by decide +kernel)

def moveForms : List Instr :=
  [.sel h0 ⟨false, false, 3, 1, 1, 2, 0⟩, .sel h0 ⟨true, true, 3, 1, 1, 0, 77⟩, .pack h0 ⟨3, 1, 2, 1, 1⟩,
   .unpk h0 ⟨3, 1, 0, true, 1⟩]
def predForms : List Instr :=
  [.plop h0 ⟨0x96, 3, 1, 2, 1, 4, 0xE8, true⟩, .plop h0 ⟨0x80, 3, 1, 2, 1, 0, 0, false⟩, .pmov h0 true true 1,
   .pmov h0 false false 7]
def laneForms : List Instr :=
  [.shfl h0 ⟨0x100, 3, 1, 2⟩, .shfr h0 ⟨0x100, 3, 1, 0⟩ ⟨false, 1, 0, false, false⟩,
   .shfr h0 ⟨0x100, 3, 1, 0⟩ ⟨true, 0, 6, true, true⟩, .shfx h0 ⟨0x100, 3, 1, 0⟩ 1, .bcast h0 ⟨0x100, 3, 1, 0⟩ 1,
   .vote h0 ⟨0x100, 3, 1, 0⟩ 0, .vote h0 ⟨0x100, 12, 1, 0⟩ 2, .matchLanes h0 ⟨0x100, 12, 1, 0⟩]
def flowForms : List Instr :=
  [.nop h0, .nopG3 h0, .nopG4 h0, .yield h0, .bra h0 4, .brx h0 0, .ret h0 0, .call h0 3 8, .callx h0 3 0, .bra hp1 (-2)]

theorem witness_IntegerAndMoves_lanes : ∀ i ∈ moveForms ++ predForms ++ laneForms, ∃ r,
    (moveResult i <|> predResult i <|> laneResult i) = some r ∧ i.wellFormed = true
    ∧ Ready (issue i w0) i r.h (grp i) crew0 ∧ r.Lands (issue i w0) (grp i) crew0 :=
  resultB_sound (f := fun _ i => moveResult i <|> predResult i <|> laneResult i) rfl (by decide +kernel)

theorem witness_ControlFlow : ∀ i ∈ flowForms, ∃ r, flowResult (grp i) i = some r ∧ i.wellFormed = true
    ∧ Ready (issue i w0) i r.h (grp i) crew0 ∧ r.Lands (issue i w0) (grp i) crew0 :=
  resultB_sound (f := flowResult) rfl (by decide +kernel)

/-! ## Floating point -/

def floatForms : List Instr :=
  [.fadd h0 f3, .fsub h0 f3, .fmul h0 f3, .ffma h0 f3, .fmin h0 f3, .fmax h0 f3, .fneg h0 ⟨3, 4, 0, 0, 0⟩,
   .fabs h0 ⟨3, 4, 0, 0, 0⟩, .fset h0 f3, .fclass h0 ⟨3, 4, 0, 0, 0⟩, .frcp h0 ⟨3, 4, 0, 0, 0⟩,
   .frsq h0 ⟨3, 5, 0, 0, 0⟩, .fexp2 h0 ⟨3, 4, 0, 0, 0⟩, .flog2 h0 ⟨3, 5, 0, 0, 0⟩, .ftanh h0 ⟨3, 4, 0, 0, 0⟩,
   .fscaleb h0 ⟨3, 4, 1, 0, 0⟩, .faddImm h0 fI, .fsubImm h0 fI, .fmulImm h0 fI, .ffmaImm h0 fI, .fminImm h0 fI,
   .fmaxImm h0 fI, .fsetImm h0 fI, .fscalebImm h0 fI]
def packedForms : List Instr :=
  [.padd2 h0 ⟨3, 4, 5, 1, 0⟩, .pmul2 h0 f3, .pfma2 h0 f3, .pmax2 h0 f3, .pmin2 h0 f3, .cvt h0 ⟨3, 4, 1, 0, false, 0⟩,
   .qnt h0 ⟨3, 4, 5, 0, 1⟩]

/-- The hypotheses of the statement about FP instructions. -/
def floatB (s : State) (k : Crew) (i : Instr) : Bool :=
  match floatOf i with
  | some (h, _, f) => i.wellFormed && readyB (issue i s) i h (grp i) k
      && decide (badLanes k (k.holding h (grp i).mask) f = 0)
  | none => false

theorem witness_FloatGroup : ∀ i ∈ floatForms ++ packedForms, ∃ h d f, floatOf i = some (h, d, f) ∧ i.wellFormed = true
    ∧ Ready (issue i w0) i h (grp i) crew0 ∧ badLanes crew0 (crew0.holding h (grp i).mask) f = 0
    ∧ (floatResult h f).Lands (issue i w0) (grp i) crew0 := by
  have hb : (floatForms ++ packedForms).all (floatB w0 crew0) = true := by decide +kernel
  intro i hi
  have := List.all_eq_true.mp hb i hi
  unfold floatB at this
  split at this
  · next h d f he =>
    simp only [Bool.and_eq_true, decide_eq_true_eq] at this
    exact ⟨h, d, f, he, this.1.1, readyB_sound this.1.2, this.2, lands _ _ _ _ rfl⟩
  · cases this

/-! ## RED and SCAN, reads of the machine, control registers, waits -/

def treeForms : List Instr :=
  [.red h0 ⟨0x100, 0x104, 1, 0⟩ 0, .red h0 ⟨0x100, 3, 1, 0⟩ 8, .scan h0 ⟨0x100, 3, 1, 0⟩ 2 true false,
   .scan h0 ⟨0x100, 3, 4, 0⟩ 5 false true]

def treeB (s : State) (k : Crew) (i : Instr) : Bool :=
  match treeOf i (grp i) with
  | some (h, _, f) => i.wellFormed && readyB (issue i s) i h (grp i) k
      && laneAll (k.holding h (grp i).mask) fun l => (k.thread? l).all fun t =>
        decide (enables k t &&& (f k (k.holding h (grp i).mask)).2 = 0)
  | none => false

theorem witness_ReduceAndScan : ∀ i ∈ treeForms, ∃ h d f, treeOf i (grp i) = some (h, d, f) ∧ i.wellFormed = true
    ∧ Ready (issue i w0) i h (grp i) crew0 ∧ (treeResult h d f).Lands (issue i w0) (grp i) crew0
    ∧ ∀ l t, (crew0.holding h (grp i).mask).getLsbD l = true → crew0.thread? l = some t →
      enables crew0 t &&& (f crew0 (crew0.holding h (grp i).mask)).2 = 0 := by
  have hb : treeForms.all (treeB w0 crew0) = true := by decide +kernel
  intro i hi
  have := List.all_eq_true.mp hb i hi
  unfold treeB at this
  split at this
  · next h d f he =>
    simp only [Bool.and_eq_true] at this
    refine ⟨h, d, f, he, this.1.1, readyB_sound this.1.2, lands _ _ _ _ rfl, fun l t hl ht => ?_⟩
    have := laneAll_sound this.2 l hl
    rw [ht] at this
    exact of_decide_eq_true this
  · cases this

/-- The hypotheses of a statement about results that depend on the machine, or about completion points. -/
def resultAtB (f : State → Group → Crew → Instr → Option Result) (s : State) (k : Crew) (i : Instr) : Bool :=
  match f ((issue i s).begun i (grp i)) (grp i) ((issue i s).begunCrew i (grp i) k) i with
  | some r => i.wellFormed && readyB (issue i s) i r.h (grp i) k
  | none => false
def pointB (f : State → Group → Crew → Instr → Option Point) (s : State) (k : Crew) (i : Instr) : Bool :=
  match f ((issue i s).begun i (grp i)) (grp i) ((issue i s).begunCrew i (grp i) k) i with
  | some p => i.wellFormed && readyB (issue i s) i p.h (grp i) k
  | none => false

theorem resultAtB_sound {f : State → Group → Crew → Instr → Option Result} {s : State} {k : Crew} {l : List Instr}
    (hl : k.loops.levels = []) (h : l.all (resultAtB f s k) = true) :
    ∀ i ∈ l, ∃ r, f ((issue i s).begun i (grp i)) (grp i) ((issue i s).begunCrew i (grp i) k) i = some r
      ∧ i.wellFormed = true ∧ Ready (issue i s) i r.h (grp i) k ∧ r.Lands (issue i s) (grp i) k := by
  intro i hi
  have := List.all_eq_true.mp h i hi
  unfold resultAtB at this
  split at this
  · next r hr =>
    simp only [Bool.and_eq_true] at this
    exact ⟨r, hr, this.1, readyB_sound this.2, lands _ _ _ _ hl⟩
  · cases this

theorem pointB_sound {f : State → Group → Crew → Instr → Option Point} {s : State} {k : Crew} {l : List Instr}
    (hl : k.loops.levels = []) (h : l.all (pointB f s k) = true) :
    ∀ i ∈ l, ∃ p, f ((issue i s).begun i (grp i)) (grp i) ((issue i s).begunCrew i (grp i) k) i = some p
      ∧ i.wellFormed = true ∧ Ready (issue i s) i p.h (grp i) k ∧ p.Lands (issue i s) (grp i) k := by
  intro i hi
  have := List.all_eq_true.mp h i hi
  unfold pointB at this
  split at this
  · next p hp =>
    simp only [Bool.and_eq_true] at this
    exact ⟨p, hp, this.1, readyB_sound this.2, pointLands _ _ _ _ hl⟩
  · cases this

def readForms : List Instr :=
  [.srd h0 3 0x01, .srd h0 4 0x20, .srd h0 0x104 0x00, .ltq h0 3 1, .capq h0 false 3, .capq h0 true 0x104,
   .tcnt h0 false true 4, .tcnt h0 true false 3, .cqry h0 false 3 1, .cqry h0 true 4 1, .tokq h0 false 3, .tokq h0 true 4,
   .priceq h0 3 1, .tickr h0 4 1, .cntr h0 7 4, .cntr h0 0 4]

theorem witness_MachineReads : (∀ i ∈ readForms, ∃ r, readResult ((issue i w0).begun i (grp i)) (grp i)
      ((issue i w0).begunCrew i (grp i) crew0) i = some r ∧ i.wellFormed = true
      ∧ Ready (issue i w0) i r.h (grp i) crew0 ∧ r.Lands (issue i w0) (grp i) crew0)
    ∧ ∀ i, Unlogged (issue i w0) crew0 ∧ (issue i w0).landedNow 0 = false :=
  ⟨resultAtB_sound rfl (by decide +kernel), fun _ => ⟨⟨rfl, rfl⟩, rfl⟩⟩

def ctlForms : List Instr :=
  [.swr h0 0x14 1, .swr h0 0x30 1, .seth h0 ⟨3, 0, 8, 0⟩, .seth h0 ⟨3, 1, 0, 1⟩, .seth h0 ⟨3, 2, 0, 0⟩, .tmask h0 ⟨0, true, 3, 0⟩,
   .tmask h0 ⟨1, false, 0, 5⟩, .tmask h0 ⟨2, true, 0x104, 5⟩, .tmask h0 ⟨3, false, 0, 0x3FF⟩]

theorem witness_ControlAndSideEffects : ∀ i ∈ ctlForms, ∃ r, ctlWrite (grp i) i = some r ∧ i.wellFormed = true
    ∧ Ready (issue i w0) i r.h (grp i) crew0 ∧ r.Lands (issue i w0) (grp i) crew0 :=
  resultB_sound (f := ctlWrite) rfl (by decide +kernel)

/-! ## Entries -/

/-- A LIVE entry of a kind, format and extents; a window onto the allocation 7 of HBM. -/
def desc (kind fmt : Nat) (ext : List Nat) : Desc :=
  let xs := ext ++ List.replicate (4 - ext.length) 0
  { Desc.free with kind := kind, fmt := fmt, ndim := ext.length - 1, rank := 3, st := .live, ext := xs, nrows := 4 }
def entry (d : Desc) : Entry := { Entry.free with desc := d }
def window (fmt : Nat) (ext stride : List Nat) : Entry :=
  entry { desc 3 fmt ext with rank := 0, nrows := 0, space := 2, stride := stride, handle := 7 }

/-- 1: S32, 16 elements; 2: a window of 16 S32; 4: F32, 128 × 128; 5 and 6: E4M3, 128 × 128, in planes and elements;
7: SCALE; 8, 9, 10: idx, val and ptr of a CSR matrix; 11: in REBUILD by slot 0, revived; 12: the same, not revived. -/
def entries : Tab Entry :=
  [(1, entry (desc 0 5 [16])), (2, window 5 [16] [0, 0, 0]), (4, entry (desc 0 0 [128, 128])),
   (5, entry (desc 1 3 [128, 128])), (6, entry (desc 0 3 [128, 128])), (7, entry (desc 2 0 [256])),
   (8, entry (desc 0 6 [4])), (9, entry (desc 0 3 [4])), (10, entry (desc 0 6 [129])),
   (11, { entry { desc 0 5 [16] with st := .rebuild } with rebuilder := some 0, revived := true }),
   (12, { entry { desc 0 5 [16] with st := .rebuild } with rebuilder := some 0 }), (13, entry (desc 0 5 [16]))]

/-- Uniform registers: the mask; s4 : s5 are 0 (coordinates and ticket ids); s8 to s15 a descriptor of 16 F32 with its
handler at 0x4000, s16 to s23 a window of 16 F32 on allocation 7. -/
def uniform1 : Tab Word :=
  [(256, 3), (264, 0x300), (265, 16), (270, 0x4000), (272, 0x20003), (273, 16), (278, 7)]
def crew1 : Crew := crewOf lane0 lane1 uniform1
def alloc7 : Alloc := { handle := 7, space := 2, size := 65536, base := 0, unmapped := [], homes := [] }
def onEntries (s : State) : State :=
  let x : Context := { s.context 0 with allocs := [alloc7], reserved := [3] }
  { s with contexts := [(0, x)] }
def w1 : State := onEntries (world crew1 fun c => { c with layout := entries })

/-- The same, with a barrier: b0 of the block. -/
def bar0 : Bar := Bar.fresh 1 false 2
def w2 : State := w1.modBlock 0 fun b => { b with bars := [(0, bar0)] }

def waitForms : List Instr :=
  [.twait h0 true 0, .twait h0 false 3, .cwait h0 5 6, .mwait h0 5 0x104, .waitf h0 1, .sleept h0 0x104, .barw h0 ⟨0, 1, false⟩,
   .imgw h0 5, .symq h0 0 0 3, .symq h0 5 0 4]

theorem witness_WaitsAndCompletions : ∀ i ∈ waitForms, ∃ p, waitPoint ((issue i w2).begun i (grp i)) (grp i)
    ((issue i w2).begunCrew i (grp i) crew1) i = some p ∧ i.wellFormed = true
    ∧ Ready (issue i w2) i p.h (grp i) crew1 ∧ p.Lands (issue i w2) (grp i) crew1 :=
  pointB_sound rfl (by decide +kernel)

/-- The point of a layout instruction. -/
def layoutB (s : State) (k : Crew) (i : Instr) : Bool :=
  pointB (fun s g k i => (layoutPoint s g k i).map (·.2)) s k i

def layoutForms : List Instr :=
  [.alloc h0 ⟨false, 5, 20, 0x108⟩, .mapg h0 ⟨true, 5, 20, 0x110⟩, .free h0 5 13, .free h0 5 20, .revive h0 5 11,
   .revive h0 5 12, .waitcap h0 ⟨true, 3, 5, 4, 0⟩, .waitcap h0 ⟨false, 3, 5, 64, 0x104⟩]

theorem witness_LayoutAndCapacity : ∀ i ∈ layoutForms, ∃ X p, layoutPoint ((issue i w2).begun i (grp i)) (grp i)
    ((issue i w2).begunCrew i (grp i) crew1) i = some (X, p) ∧ i.wellFormed = true
    ∧ Ready (issue i w2) i p.h (grp i) crew1 ∧ p.Lands (issue i w2) (grp i) crew1 := by
  intro i hi
  obtain ⟨p, hp, hw, hr, hl⟩ := pointB_sound (f := fun s g k i => (layoutPoint s g k i).map (·.2)) (s := w2)
    (k := crew1) (l := layoutForms) rfl (by decide +kernel) i hi
  obtain ⟨⟨X, q⟩, hq, rfl⟩ := Option.map_eq_some_iff.mp hp
  exact ⟨X, q, hq, hw, hr, hl⟩

/-! ## Control with effects of its own -/

theorem nobodyWaits {k : Crew} (h : (decide (k.st = .run) && !k.trap.handling
    && k.threads.all fun p => decide (p.2.st = .ready)) = true) : NobodyWaits k := by
  simp only [Bool.and_eq_true, decide_eq_true_eq, Bool.not_eq_true', List.all_eq_true] at h
  refine ⟨h.1.1, h.1.2, fun p hp => ?_⟩
  rw [h.2 p hp]
  exact ⟨by simp, by simp⟩

theorem witness_ExitRetires : ∀ h ∈ [h0, hp1], Ready (issue (.exit h) w1) (.exit h) h (grp (.exit h)) crew1
    ∧ crew1.st = .run ∧ crew1.holding h (grp (.exit h)).mask ≠ 0 ∧ NobodyWaits crew1
    ∧ crew1.Clear ((issue (.exit h) w1).context crew1.id.ctx) ((grp (.exit h)).mask &&& ~~~crew1.holding h 3)
      (fun _ => (grp (.exit h)).next) := by
  have hb : [h0, hp1].all (fun h => readyB (issue (.exit h) w1) (.exit h) h (grp (.exit h)) crew1
      && decide (crew1.holding h (grp (.exit h)).mask ≠ 0)) = true := by decide +kernel
  intro h hh
  have := List.all_eq_true.mp hb h hh
  simp only [Bool.and_eq_true, decide_eq_true_eq] at this
  exact ⟨readyB_sound this.1, rfl, this.2, nobodyWaits (by decide +kernel), clear_of_noLevel rfl _ _ _⟩

/-- The crew in the body of a loop that ends at 0x4020. -/
def level0 : LoopLevel := ⟨0x4000, 0x4020, false⟩
def crewL : Crew := { crew1 with loops := ⟨[3, 0, 0], [level0], [0x4000]⟩ }
def wL : State := onEntries (world crewL fun c => { c with layout := entries })

theorem witness_LbrkWaits : ∀ h ∈ [h0, hp1], let i := Instr.lbrk h; let s := issue i wL; let g := grp i
    Ready s i h g crewL ∧ crewL.holding h g.mask ≠ 0
    ∧ crewL.level? (lowLane (crewL.holding h g.mask)) = some (0, level0) ∧ crewL.level? (lowLane g.mask) = some (0, level0)
    ∧ (s.context crewL.id.ctx).start level0.stop = level0.stop ∧ (s.context crewL.id.ctx).start g.next ≠ level0.stop
    ∧ crewL.splitAt (crewL.holding h g.mask) (crewL.scope (lowLane (crewL.holding h g.mask))) level0.stop true = none := by
  have hb : [h0, hp1].all (fun h => let i := Instr.lbrk h; let s := issue i wL; let g := grp i
      readyB s i h g crewL && decide (crewL.holding h g.mask ≠ 0)
      && decide (crewL.level? (lowLane (crewL.holding h g.mask)) = some (0, level0))
      && decide (crewL.level? (lowLane g.mask) = some (0, level0))
      && decide ((s.context crewL.id.ctx).start level0.stop = level0.stop)
      && decide ((s.context crewL.id.ctx).start g.next ≠ level0.stop)
      && decide (crewL.splitAt (crewL.holding h g.mask) (crewL.scope (lowLane (crewL.holding h g.mask))) level0.stop true
        = none)) = true := by decide +kernel
  intro h hh
  have := List.all_eq_true.mp hb h hh
  simp only [Bool.and_eq_true, decide_eq_true_eq] at this
  exact ⟨readyB_sound this.1.1.1.1.1.1, this.1.1.1.1.1.2, this.1.1.1.1.2, this.1.1.1.2, this.1.1.2, this.1.2, this.2⟩

/-- A loop of 3 rounds, and one of none. -/
def loopOp (n : BitVec 24) : LoopOp := { lc := 0, cs := false, endOff := 8, count := n, c := 0 }

theorem witness_LoopOpens : ∀ n ∈ [(3 : BitVec 24), 0], let i := Instr.loop h0 (loopOp n); let g := grp i
    ∃ t, Ready (issue i w1) i h0 g crew1 ∧ leader crew1 h0 g = some t
      ∧ (let x := (issue i w1).context crew1.id.ctx
         let v := loopOpened x g crew1 (loopOp n)
         (loopCount (loopOp n) t ≠ 0 → x.start v.start ≠ v.stop)
           ∧ (loopCount (loopOp n) t = 0 → crew1.Clear x g.mask fun _ => v.stop)) := by
  have hb : [(3 : BitVec 24), 0].all (fun n => let i := Instr.loop h0 (loopOp n); let g := grp i
      readyB (issue i w1) i h0 g crew1 && (leader crew1 h0 g).isSome
        && (let x := (issue i w1).context crew1.id.ctx
            let v := loopOpened x g crew1 (loopOp n)
            decide (x.start v.start ≠ v.stop))) = true := by decide +kernel
  intro n hn
  have := List.all_eq_true.mp hb n hn
  simp only [Bool.and_eq_true, decide_eq_true_eq] at this
  obtain ⟨t, ht⟩ := Option.isSome_iff_exists.mp this.1.2
  exact ⟨t, readyB_sound this.1.1, ht, fun _ => this.2, fun _ => clear_of_noLevel rfl _ _ _⟩

/-- A debugger is attached to the context. -/
def watching (s : State) : State :=
  { s with device := { s.device with session := { s.device.session with attached := some 0 } } }

theorem witness_BkptStops : ∀ b ∈ [false, true], let s := issue (.bkpt h0 7) (if b then watching w1 else w1)
    Ready s (.bkpt h0 7) h0 (grp (.bkpt h0 7)) crew1 ∧ (Result.none h0).Lands s (grp (.bkpt h0 7)) crew1
      ∧ crew1.holding h0 3 ≠ 0 ∧ s.watched crew1 = b := by
  have hb : [false, true].all (fun b => let s := issue (.bkpt h0 7) (if b then watching w1 else w1)
      readyB s (.bkpt h0 7) h0 (grp (.bkpt h0 7)) crew1 && decide (crew1.holding h0 3 ≠ 0)
        && decide (s.watched crew1 = b)) = true := by decide +kernel
  intro b hh
  have := List.all_eq_true.mp hb b hh
  simp only [Bool.and_eq_true, decide_eq_true_eq] at this
  exact ⟨readyB_sound this.1.1, lands _ _ _ _ rfl, this.1.2, this.2⟩

def sideForms : List Instr :=
  [.phint h0 1 3, .ckpt h0 false 0, .ckpt h0 true 1, .mark h0 true 1, .mark h0 false 13, .rerank h0 ⟨false, 2, 5, 1, 0⟩,
   .rerank h0 ⟨true, 0, 5, 1, 3⟩, .swr h0 0x31 1]

theorem witness_ControlAndSideEffects_side : ∀ i ∈ sideForms, ∃ X r, sideResult ((issue i w2).begun i (grp i)) (grp i)
    ((issue i w2).begunCrew i (grp i) crew1) i = some (X, r) ∧ i.wellFormed = true
    ∧ Ready (issue i w2) i r.h (grp i) crew1 ∧ ((issue i w2).context crew1.id.ctx).replaying = none
    ∧ r.Lands (issue i w2) (grp i) crew1 := by
  intro i hi
  obtain ⟨r, hr, hw, hd, hl⟩ := resultAtB_sound (f := fun s g k i => (sideResult s g k i).map (·.2)) (s := w2)
    (k := crew1) (l := sideForms) rfl (by decide +kernel) i hi
  obtain ⟨⟨X, q⟩, hq, rfl⟩ := Option.map_eq_some_iff.mp hr
  exact ⟨X, q, hq, hw, hd, rfl, hl⟩

def offForms : List Instr :=
  [.trap hp2 ⟨5, 0, false⟩, .seth hp2 ⟨3, 2, 0, 0⟩, .ckpt hp2 false 0, .phint hp2 1 3, .rerank hp2 ⟨false, 2, 5, 1, 0⟩,
   .swr hp2 0x30 1, .bkpt hp2 7, .exit hp2, .tcnt hp2 false true 4]

theorem witness_GuardsOff : ∀ i ∈ offForms, guarded i = some hp2 ∧ i.wellFormed = true
    ∧ Ready (issue i w1) i hp2 (grp i) crew1 ∧ crew1.holding hp2 (grp i).mask = 0
    ∧ (Result.none hp2).Lands (issue i w1) (grp i) crew1 := by
  have hb : offForms.all (fun i => decide (guarded i = some hp2) && i.wellFormed
      && readyB (issue i w1) i hp2 (grp i) crew1 && decide (crew1.holding hp2 (grp i).mask = 0)) = true := by
    decide +kernel
  intro i hi
  have := List.all_eq_true.mp hb i hi
  simp only [Bool.and_eq_true, decide_eq_true_eq] at this
  exact ⟨this.1.1.1, this.1.1.2, readyB_sound this.1.2, this.2, lands _ _ _ _ rfl⟩

/-! ## Traps -/

/-- The crew with a handler of every class at 0x4010, with a trap mask, and while it handles a trap. -/
def handled (k : Crew) (mask : BitVec 10) : Crew :=
  { k with ctl := { k.ctl with tmask := mask, handlers := List.replicate 10 0x4010 } }
def frame0 (code : Word) (lt : BitVec 8) (act : Mask) : Frame :=
  { pc := 0x4008, code := code, arg := 0, lt := lt, lm := 1, act := act }
def handling (k : Crew) (hact : Mask) (f : Frame) : Crew :=
  { k with trap := { k.trap with handling := true, hact := hact, frame := f } }
def worldOf (k : Crew) : State := onEntries (world k fun c => { c with layout := entries })
def trapI : Instr := .trap h0 ⟨5, 1, true⟩

theorem enterableB {g : Group} {k : Crew} {cls : Nat} (h : (!k.trap.handling && !(k.ctlAt g.mask).tmask.getLsbD cls
    && decide ((k.ctlAt g.mask).handlers.getD cls 0 ≠ 0)) = true) : Enterable g k cls := by
  simp only [Bool.and_eq_true, Bool.not_eq_true', decide_eq_true_eq] at h
  exact ⟨h.1.1, h.1.2, h.2⟩

theorem witness_TrapEnters : ∃ k t, Ready (issue trapI (worldOf k)) trapI h0 (grp trapI) k
    ∧ leader k h0 (grp trapI) = some t ∧ Enterable (grp trapI) k 7 :=
  ⟨handled crew1 0, (handled crew1 0).threads[0].2, readyB_sound (by decide +kernel), by decide +kernel,
    enterableB (by decide +kernel)⟩

theorem witness_TrapMasked : ∃ k t, Ready (issue trapI (worldOf k)) trapI h0 (grp trapI) k
    ∧ leader k h0 (grp trapI) = some t ∧ k.trap.handling = false ∧ (k.ctlAt (grp trapI).mask).tmask.getLsbD 7 = true
    ∧ (Result.none h0).Lands (issue trapI (worldOf k)) (grp trapI) k :=
  ⟨handled crew1 0x80, (handled crew1 0x80).threads[0].2, readyB_sound (by decide +kernel), by decide +kernel, rfl,
    by decide +kernel, lands _ _ _ _ rfl⟩

/-- The handler's threads are those of the group, and others. -/
theorem witness_TrapWhileHandling : ∀ m ∈ [(3 : Mask), 4], let k := handling crew1 m (frame0 0x70000 0 m)
    ∃ t, Ready (issue trapI (worldOf k)) trapI h0 (grp trapI) k ∧ k.st ≠ .held ∧ leader k h0 (grp trapI) = some t
      ∧ k.trap.handling = true ∧ ((grp trapI).mask &&& k.trap.hact = 0 ↔ m = 4) := by
  have hb : [(3 : Mask), 4].all (fun m => let k := handling crew1 m (frame0 0x70000 0 m)
      readyB (issue trapI (worldOf k)) trapI h0 (grp trapI) k && decide (leader k h0 (grp trapI) = k.threads.head?.map (·.2))
        && decide ((grp trapI).mask &&& k.trap.hact = 0 ↔ m = 4)) = true := by decide +kernel
  intro m hm
  have := List.all_eq_true.mp hb m hm
  simp only [Bool.and_eq_true, decide_eq_true_eq] at this
  exact ⟨_, readyB_sound this.1.1, fun hc => CrewSt.noConfusion hc, this.1.2, rfl, this.2⟩

/-- RETT in a form, after a trap of a class. -/
def rettI (form : BitVec 3) : Instr := .rett h0 form
def crewR (cls : Nat) (lt : BitVec 8) : Crew := handling crew1 3 (frame0 (BitVec.ofNat 32 (65536 * cls)) lt 3)

theorem witness_RettReturns : ∀ x ∈ [((0 : BitVec 3), 7, 1), (1, 7, 1), (2, 1, 13)], let k := crewR x.2.1 x.2.2
    ∃ pc, Ready (issue (rettI x.1) (worldOf k)) (rettI x.1) h0 (grp (rettI x.1)) k ∧ k.trap.handling = true
      ∧ k.holding h0 3 ≠ 0 ∧ (grp (rettI x.1)).mask &&& ~~~k.trap.hact = 0 ∧ k.trap.pending = []
      ∧ returnTo ((issue (rettI x.1) (worldOf k)).context k.id.ctx) k x.1.toNat = some pc
      ∧ (((issue (rettI x.1) (worldOf k)).core 0).entry k.id.ctx k.trap.frame.lt.toNat).rebuilder ≠ some 0 := by
  have hb : [((0 : BitVec 3), 7, 1), (1, 7, 1), (2, 1, 13)].all (fun x => let k := crewR x.2.1 x.2.2
      readyB (issue (rettI x.1) (worldOf k)) (rettI x.1) h0 (grp (rettI x.1)) k && decide (k.holding h0 3 ≠ 0)
      && decide ((grp (rettI x.1)).mask &&& ~~~k.trap.hact = 0)
      && (returnTo ((issue (rettI x.1) (worldOf k)).context k.id.ctx) k x.1.toNat).isSome
      && decide ((((issue (rettI x.1) (worldOf k)).core 0).entry k.id.ctx k.trap.frame.lt.toNat).rebuilder ≠ some 0))
      = true := by decide +kernel
  intro x hx
  have := List.all_eq_true.mp hb x hx
  simp only [Bool.and_eq_true, decide_eq_true_eq] at this
  obtain ⟨pc, hpc⟩ := Option.isSome_iff_exists.mp this.1.2
  exact ⟨pc, readyB_sound this.1.1.1.1, rfl, this.1.1.1.2, this.1.1.2, rfl, hpc, this.2⟩

/-- The handler of LOSS rebuilds entry 11, revived, or 12. -/
theorem witness_RettRebuilds : ∀ x ∈ [((0 : BitVec 3), (11 : BitVec 8)), (1, 12), (2, 11)], let k := crewR 1 x.2
    ∃ pc, Ready (issue (rettI x.1) (worldOf k)) (rettI x.1) h0 (grp (rettI x.1)) k ∧ k.trap.handling = true
      ∧ returnTo ((issue (rettI x.1) (worldOf k)).context k.id.ctx) k x.1.toNat = some pc ∧ k.trap.frame.cls = 1
      ∧ (let e := ((issue (rettI x.1) (worldOf k)).core 0).entry k.id.ctx k.trap.frame.lt.toNat
         e.rebuilder = some (grp (rettI x.1)).slot ∧ e.desc.st = .rebuild) := by
  have hb : [((0 : BitVec 3), (11 : BitVec 8)), (1, 12), (2, 11)].all (fun x => let k := crewR 1 x.2
      readyB (issue (rettI x.1) (worldOf k)) (rettI x.1) h0 (grp (rettI x.1)) k
      && (returnTo ((issue (rettI x.1) (worldOf k)).context k.id.ctx) k x.1.toNat).isSome && decide (k.trap.frame.cls = 1)
      && (let e := ((issue (rettI x.1) (worldOf k)).core 0).entry k.id.ctx k.trap.frame.lt.toNat
          decide (e.rebuilder = some (grp (rettI x.1)).slot) && decide (e.desc.st = .rebuild))) = true := by decide +kernel
  intro x hx
  have := List.all_eq_true.mp hb x hx
  simp only [Bool.and_eq_true, decide_eq_true_eq] at this
  obtain ⟨pc, hpc⟩ := Option.isSome_iff_exists.mp this.1.1.2
  exact ⟨pc, readyB_sound this.1.1.1, rfl, hpc, this.1.2, this.2⟩

/-- RETT where no trap is handled, GIVEUP after USER, KILL. -/
theorem witness_RettKills : ∀ x ∈ [((0 : BitVec 3), crew1), (2, crewR 7 1), (3, crewR 7 1)],
    Ready (issue (rettI x.1) (worldOf x.2)) (rettI x.1) h0 (grp (rettI x.1)) x.2 ∧ x.2.st ≠ .held
      ∧ x.2.holding h0 3 ≠ 0 ∧ (x.2.trap.handling = false
        ∨ returnTo ((issue (rettI x.1) (worldOf x.2)).context x.2.id.ctx) x.2 x.1.toNat = none) := by
  have hb : [((0 : BitVec 3), crew1), (2, crewR 7 1), (3, crewR 7 1)].all (fun x =>
      readyB (issue (rettI x.1) (worldOf x.2)) (rettI x.1) h0 (grp (rettI x.1)) x.2 && decide (x.2.st ≠ .held)
      && decide (x.2.holding h0 3 ≠ 0) && (!x.2.trap.handling
        || (returnTo ((issue (rettI x.1) (worldOf x.2)).context x.2.id.ctx) x.2 x.1.toNat).isNone)) = true := by
    decide +kernel
  intro x hx
  have := List.all_eq_true.mp hb x hx
  simp only [Bool.and_eq_true, decide_eq_true_eq, Bool.or_eq_true, Bool.not_eq_true', Option.isNone_iff_eq_none] at this
  exact ⟨readyB_sound this.1.1.1, this.1.1.2, this.1.2, this.2⟩

/-! ## Accesses -/

def openB (a : Access) (s : State) (g : Group) (k : Crew) : Bool :=
  let e := entryOf s g k (BitVec.ofNat 8 a.n)
  decide ((s.core g.core).nextAccess ≤ s.coreCycle g.core) && decide (e.desc.st = .live) && !e.freeing && a.kinds e.desc
    && (a.runs e.desc).all (fun r => regRunOk k.id.vallot r.1 r.2)
    && laneAll g.mask fun l => (k.thread? l).all fun t => t.released.all fun r => decide (r.entry ≠ a.n)

theorem noneReleasedB {g : Group} {k : Crew} {n : Nat} (h : (laneAll g.mask fun l => (k.thread? l).all fun t =>
    t.released.all fun r => decide (r.entry ≠ n)) = true) : NoneReleased g k n := by
  intro l t hl ht r hr
  have := laneAll_sound h l hl
  rw [ht] at this
  simp only [Option.all_some, hr] at this
  exact of_decide_eq_true this

theorem openB_sound {a : Access} {s : State} {g : Group} {k : Crew} (h : openB a s g k = true) : a.Open s g k := by
  simp only [openB, Bool.and_eq_true, decide_eq_true_eq, Bool.not_eq_true', List.all_eq_true] at h
  exact ⟨h.1.1.1.1.1, h.1.1.1.1.2, h.1.1.1.2, h.1.1.2, h.1.2, noneReleasedB h.2⟩

def accessB (s : State) (k : Crew) (i : Instr) : Bool :=
  match accessOf i with
  | none => false
  | some a =>
    let s := issue i s
    let g := grp i
    let d := (entryOf s g k (BitVec.ofNat 8 a.n)).desc
    i.wellFormed && readyB s i a.h g k && openB a s g k
      && (a.touched d k (k.holding a.h g.mask)).all fun x => fits d x.2.2

def accessForms : List Instr :=
  [.ldt h0 ⟨1, 0, 3, 0, false, 0⟩, .stt h0 ⟨1, 0, 2, 0, false, 0⟩, .ldv h0 ⟨1, 0, 12, 2, false, 0⟩,
   .stv h0 ⟨1, 0, 12, 1, false, 0⟩, .ldx h0 ⟨6, 0x104, 12, 0, false, 0⟩, .tfill h0 ⟨1, 0, 2, 0, false, 3⟩,
   .tfill h0 ⟨1, 0, 2, 0, true, 0⟩, .atoms h0 ⟨0, 0, 3, 1, 0, 1, 0, false⟩, .atoms h0 ⟨7, 0, 3, 1, 2, 1, 0, false⟩]

theorem witness_ThreadAccesses : ∀ i ∈ accessForms, ∃ a, accessOf i = some a ∧ i.wellFormed = true
    ∧ Ready (issue i w1) i a.h (grp i) crew1 ∧ a.Open (issue i w1) (grp i) crew1
    ∧ (let d := (entryOf (issue i w1) (grp i) crew1 (BitVec.ofNat 8 a.n)).desc
       (∀ x ∈ a.touched d crew1 (crew1.holding a.h (grp i).mask), fits d x.2.2 = true)
         ∧ (Result.none a.h).Lands (issue i w1) (grp i) crew1) := by
  have hb : accessForms.all (accessB w1 crew1) = true := by decide +kernel
  intro i hi
  have := List.all_eq_true.mp hb i hi
  unfold accessB at this
  split at this
  · cases this
  · next a ha =>
    simp only [Bool.and_eq_true, List.all_eq_true] at this
    exact ⟨a, ha, this.1.1.1, readyB_sound this.1.1.2, openB_sound this.1.2, this.2, lands _ _ _ _ rfl⟩

def crewH : Crew := handled crew1 0

/-- A FREE entry, a kind that LDX does not accept, a run that ends behind v255. -/
theorem witness_AccessTraps : ∀ x ∈ [(Instr.ldt h0 ⟨20, 0, 3, 0, false, 0⟩, 0), (.ldx h0 ⟨1, 0, 12, 0, false, 0⟩, 1),
    (.ldv h0 ⟨1, 0, 254, 2, false, 0⟩, 2)], ∃ a, accessOf x.1 = some a ∧ x.1.wellFormed = true
    ∧ Ready (issue x.1 (worldOf crewH)) x.1 a.h (grp x.1) crewH ∧ Enterable (grp x.1) crewH 3
    ∧ ((issue x.1 (worldOf crewH)).core 0).nextAccess ≤ (issue x.1 (worldOf crewH)).coreCycle 0
    ∧ crewH.holding a.h (grp x.1).mask ≠ 0 ∧ NoneReleased (grp x.1) crewH a.n
    ∧ (let e := entryOf (issue x.1 (worldOf crewH)) (grp x.1) crewH (BitVec.ofNat 8 a.n)
       if x.2 = 0 then e.desc.st = .free else e.desc.st ≠ .free ∧ e.freeing = false
         ∧ (if x.2 = 1 then a.kinds e.desc = false else a.kinds e.desc = true
            ∧ ∃ r ∈ a.runs e.desc, regRunOk crewH.id.vallot r.1 r.2 = false)) := by
  intro x hx
  simp only [List.mem_cons, List.not_mem_nil, or_false] at hx
  rcases hx with rfl | rfl | rfl
  · exact ⟨_, rfl, by decide +kernel, readyB_sound (by decide +kernel), enterableB (by decide +kernel),
      by decide +kernel, by decide +kernel, noneReleasedB (by decide +kernel), by decide +kernel⟩
  · exact ⟨_, rfl, by decide +kernel, readyB_sound (by decide +kernel), enterableB (by decide +kernel),
      by decide +kernel, by decide +kernel, noneReleasedB (by decide +kernel), by decide +kernel⟩
  · exact ⟨_, rfl, by decide +kernel, readyB_sound (by decide +kernel), enterableB (by decide +kernel),
      by decide +kernel, by decide +kernel, noneReleasedB (by decide +kernel), by decide +kernel⟩

/-- A store of which lane 1 is out of bounds. -/
def outI : Instr := .stt h0 ⟨1, 2, 1, 0, false, 0⟩
theorem witness_StoreOutOfBounds : ∃ a l t es c, accessOf outI = some a ∧ outI.wellFormed = true
    ∧ Ready (issue outI (worldOf crewH)) outI a.h (grp outI) crewH ∧ Enterable (grp outI) crewH 3
    ∧ (∀ d es key, a.waits d es key = false) ∧ a.Open (issue outI (worldOf crewH)) (grp outI) crewH
    ∧ (let d := (entryOf (issue outI (worldOf crewH)) (grp outI) crewH (BitVec.ofNat 8 a.n)).desc
       ((a.touched d crewH (crewH.holding a.h (grp outI).mask)).filter fun x => !fits d x.2.2).head? = some (l, t, es)
         ∧ es.find? (fun c => !d.inBounds c) = some c) :=
  ⟨_, 1, crewH.threads[1].2, [[0xFFFFFFFF]], [0xFFFFFFFF], rfl, by decide +kernel, readyB_sound (by decide +kernel),
    enterableB (by decide +kernel), fun _ _ _ => rfl, openB_sound (by decide +kernel), by decide +kernel,
    by decide +kernel⟩

/-! ## FPX, LATE, PRICE -/

/-- Every flag enabled; 1 + 2^-25 is inexact in both lanes. -/
def crewF : Crew := { crewH with ctl := { crewH.ctl with fpctl := 0x1F00 } }
def inexactI : Instr := .faddImm h0 ⟨3, 4, 0x33000000, 0, 0⟩

theorem witness_FpxEnters : ∃ h d f, floatOf inexactI = some (h, d, f) ∧ inexactI.wellFormed = true
    ∧ Ready (issue inexactI (worldOf crewF)) inexactI h (grp inexactI) crewF ∧ Enterable (grp inexactI) crewF 0
    ∧ badLanes crewF (crewF.holding h (grp inexactI).mask) f ≠ 0
    ∧ ∀ p ∈ crewF.ctlLog, p.1 < (issue inexactI (worldOf crewF)).serial :=
  ⟨_, _, _, rfl, by decide +kernel, readyB_sound (by decide +kernel), enterableB (by decide +kernel),
    by decide +kernel, fun _ h => nomatch h⟩

/-- Ticket 0 of the core runs; its id is 64. -/
def running : Ticket :=
  { ctx := 0, gen := 1, st := .run, setf := false, landed := 0, doneTick := 0, doneSeq := 0, estimate := 0, slot := 0 }
def wT (k : Crew) : State :=
  onEntries (world k fun c => { c with layout := entries, tickets := [(0, running)] })
def crewT : Crew :=
  handled (crewOf (tset lane0 6 64) (tset lane1 6 0xFFFFFFFF) uniform1) 0
def cwaitI : Instr := .cwait h0 5 6

theorem witness_Late : Ready (issue cwaitI (wT crewT)) cwaitI h0 (grp cwaitI) crewT ∧ Enterable (grp cwaitI) crewT 2
    ∧ maskFilter (crewT.holding h0 (grp cwaitI).mask) (fun l =>
      ((crewT.thread? l).map fun t => ((issue cwaitI (wT crewT)).core 0).waitsFor (t.reg 6)).getD false) ≠ 0 :=
  ⟨readyB_sound (by decide +kernel), enterableB (by decide +kernel), by decide +kernel⟩

/-- TKCAP is 0. -/
def wP : State :=
  onEntries (world crewH fun c => { c with layout := entries, tok := { c.tok with tkcap := 0, level := 0 } })
def pricedForms : List Instr :=
  [.mma h0 ⟨3, 3, false, 5, 0x1B0, false, 3, false, 5, 0x104, 6, 0x104⟩, .msca h0 ⟨5, 0x1B0, false, 0, 7, 0x104⟩,
   .atom h0 ⟨0, 0, 3, 1, 0, 2, 0, false⟩, .atred h0 ⟨0, 0, 0, 1, 0, 2, 0, true⟩]

theorem witness_Price : ∀ i ∈ pricedForms, ∃ h, priced i = some h ∧ Passes (issue i wP) i h (grp i) crewH 0
    ∧ (grp i).clsA = false ∧ Enterable (grp i) crewH 9 ∧ crewH.holding h (grp i).mask ≠ 0
    ∧ ((issue i wP).core 0).tok.tkcap < (issue i wP).priceAt 0 (gatePrice i) := by
  have hb : pricedForms.all (fun i => decide (priced i = some h0) && passesB (issue i wP) i h0 (grp i) crewH 0
      && !(grp i).clsA && decide (crewH.holding h0 (grp i).mask ≠ 0)
      && decide (((issue i wP).core 0).tok.tkcap < (issue i wP).priceAt 0 (gatePrice i))
      && (!crewH.trap.handling && !(crewH.ctlAt (grp i).mask).tmask.getLsbD 9
        && decide ((crewH.ctlAt (grp i).mask).handlers.getD 9 0 ≠ 0))) = true := by decide +kernel
  intro i hi
  have := List.all_eq_true.mp hb i hi
  rw [Bool.and_eq_true] at this
  obtain ⟨this, he⟩ := this
  simp only [Bool.and_eq_true, decide_eq_true_eq, Bool.not_eq_true'] at this
  exact ⟨h0, this.1.1.1.1, passesB_sound this.1.1.1.2, this.1.1.2, enterableB he, this.1.2, this.2⟩

/-! ## Copies -/

def affordsB (s : State) (g : Group) (party n : Nat) : Bool :=
  decide (s.priceAt g.core n = 0) || (s.core g.core).canPay party (s.priceAt g.core n)
theorem affordsB_sound {s : State} {g : Group} {party n : Nat} (h : affordsB s g party n = true) : Affords s g party n := by
  simpa [affordsB, Affords] using h

def cpyB (s : State) (g : Group) (o : CpyOp) (ls : List CpyLane) (dOk sOk : Desc → Bool) (unitDst : Bool) : Bool :=
  let e := cpyEnds s g o
  (s.entryFault g [(o.dn.toNat, dOk e.1, [(o.dc, e.1.dims)]), (o.sn.toNat, sOk e.2, [(o.sc, e.2.dims)])]).isNone
    && ls.all (fun x => decide (x.n ≤ 32))
    && ls.all (fun x => if unitDst then decide (e.1.bitPos x.dst % 256 = 0 ∧ e.2.bitPos x.src % 8 = 0)
      else decide (e.2.bitPos x.src % 256 = 0 ∧ e.1.bitPos x.dst % 8 = 0))
    && ls.all (fun x => x.bad.isNone)
    && decide (((s.core g.core).entry (s.ctxOf g) (if unitDst then o.dn.toNat else o.sn.toNat)).desc.st = .live)
    && s.reachable g.core (s.ctxOf g) (if unitDst then e.2 else e.1)

theorem cpyB_sound {s : State} {g : Group} {o : CpyOp} {ls : List CpyLane} {dOk sOk : Desc → Bool} {unitDst : Bool}
    (h : cpyB s g o ls dOk sOk unitDst = true) : CpyOk s g o ls dOk sOk unitDst := by
  simp only [cpyB, Bool.and_eq_true, Option.isNone_iff_eq_none, List.all_eq_true, decide_eq_true_eq] at h
  obtain ⟨⟨⟨⟨⟨h1, h2⟩, h3⟩, h4⟩, h5⟩, h6⟩ := h
  refine ⟨h1, h2, fun x hx => ?_, h4, h5, h6⟩
  have := h3 x hx
  cases unitDst <;> simpa using this

def acpyO : CpyOp := ⟨false, 2, 1, 7, 0, 2, 7, 32, 0⟩
def acpyI : Instr := .acpy h0 acpyO
def astoO : CpyOp := ⟨false, 0, 2, 7, 5, 1, 7, 32, 0⟩
def astoI : Instr := .asto h0 astoO

theorem witness_AcpyQueues : let s := issue acpyI w1; let g := grp acpyI; let b := s.begun acpyI g
    let ls := b.acpyLanes g h0 acpyO; let act := ls.filter fun x => (cpyEnds b g acpyO).1.inBounds x.dst
    Passes s acpyI h0 g crew1 (s.acpyCost h0 acpyO g) ∧ (Result.none h0).Lands s g crew1
      ∧ CpyOk b g acpyO ls (fun d => decide (d.kind = 0 ∨ d.kind = 2)) (fun d => d.isGlobal && !d.gpl) true
      ∧ b.noRoom g 2 act = false
      ∧ Affords b g g.slot (copyPrice (cpyEnds b g acpyO).2.spaceOf (cpyEnds b g acpyO).1.spaceOf
        ((act.map (·.n)).foldl (· + ·) 0) 0) ∧ act.length = 2 :=
  ⟨passesB_sound (by decide +kernel), lands _ _ _ _ rfl, cpyB_sound (by decide +kernel), by decide +kernel,
    affordsB_sound (by decide +kernel), by decide +kernel⟩

theorem witness_AstoQueues : let s := issue astoI w1; let g := grp astoI; let b := s.begun astoI g
    let ls := b.astoLanes g h0 astoO; let act := ls.filter fun x => x.n ≠ 0
    Passes s astoI h0 g crew1 (s.astoCost h0 astoO g) ∧ (Result.none h0).Lands s g crew1
      ∧ CpyOk b g astoO ls (fun d => d.isGlobal && !d.gpl) (fun d => decide (d.kind = 0 ∨ d.kind = 2)) false
      ∧ (cpyEnds b g astoO).1.space ≠ 1 ∧ b.groupImaged g 2 = false
      ∧ Affords b g g.slot (copyPrice (cpyEnds b g astoO).2.spaceOf (cpyEnds b g astoO).1.spaceOf
        (((act.take (1024 - (b.core 0).deferredCount)).map (·.n)).foldl (· + ·) 0) (b.groupImages g 2))
      ∧ act.length = 2 :=
  ⟨passesB_sound (by decide +kernel), lands _ _ _ _ rfl, cpyB_sound (by decide +kernel), by decide +kernel,
    by decide +kernel, affordsB_sound (by decide +kernel), by decide +kernel⟩

def bcpyO : BcpyOp := ⟨true, 1, 0x120, 2, 0x104⟩
def bcpyI : Instr := .bcpy h0 bcpyO
theorem witness_BcpyQueues : let s := issue bcpyI w1; let g := grp bcpyI; let b := s.begun bcpyI g
    let dd := b.descOf g 1; let sd := b.descOf g 2
    ∃ t i n price, Passes s bcpyI h0 g crew1 (s.chunkCost 0 (s.descOf g 2).spaceOf 0 0)
      ∧ (Result.none h0).Lands s g crew1 ∧ leader crew1 h0 g = some t
      ∧ b.entryFault g [(1, !dd.isGlobal && decide (dd.ndim = sd.ndim) && decide (dd.fmt = sd.fmt)
          && decide (bcpyO.dn ≠ bcpyO.sn), []), (2, true, [(bcpyO.c, sd.dims)])] = none
      ∧ (sd.clampz = true ∨ ∀ j < dd.dims, (t.coords bcpyO.c sd.dims).getD j 0 + dd.exts.getD j 0 ≤ sd.exts.getD j 0)
      ∧ (b.core 0).freeTicket? = some i ∧ b.endOpen g 1 dd = true ∧ b.endOpen g 2 sd = true
      ∧ b.nextChunk 0 (mkReq s.serial (.bulk true) crew1 0 g.pc ⟨0, 2, sd, t.coords bcpyO.c sd.dims⟩
          ⟨0, 1, dd, List.replicate dd.dims 0⟩ (some i) (lowLane (crew1.holding h0 g.mask)) (s.coreCycle 0)) = some (n, price)
      ∧ Affords b g unit price :=
  ⟨crew1.threads[0].2, 0, 64, 1, passesB_sound (by decide +kernel), lands _ _ _ _ rfl, by decide +kernel,
    by decide +kernel, .inr (by decide +kernel), by decide +kernel, by decide +kernel, by decide +kernel,
    by decide +kernel, affordsB_sound (by decide +kernel)⟩

def bputO : BputOp := ⟨2, 0x104, 5, 1, 0x120⟩
def bputI : Instr := .bput h0 bputO
/-- A deferred queue of 1,024 requests. -/
def fullQueue : List Req :=
  List.replicate 1024 (mkReq 0 .deferBulk crew1 0 0x4000 ⟨0, 1, desc 0 5 [16], [0]⟩ ⟨0, 2, desc 0 5 [16], [0]⟩ none 0 0)
def wQ : State := onEntries (world crew1 fun c => { c with layout := entries, reqs := fullQueue })

theorem witness_BputQueues : let s := issue bputI w1; let g := grp bputI; let b := s.begun bputI g
    let dd := b.descOf g 2; let sd := b.descOf g 1
    ∃ t i n price, Passes s bputI h0 g crew1 (s.chunkCost 0 0 (s.descOf g 2).spaceOf (s.groupImages g 2))
      ∧ (Result.none h0).Lands s g crew1 ∧ leader crew1 h0 g = some t ∧ b.groupImaged g 2 = false ∧ dd.space ≠ 1
      ∧ b.entryFault g [(2, !sd.isGlobal && decide (sd.ndim = dd.ndim) && decide (sd.fmt = dd.fmt) && dd.isGlobal,
          [(bputO.c, dd.dims)]), (1, true, [])] = none
      ∧ (dd.clampz = true ∨ ∀ j < sd.dims, (t.coords bputO.c dd.dims).getD j 0 + sd.exts.getD j 0 ≤ dd.exts.getD j 0)
      ∧ (b.core 0).deferredCount < 1024 ∧ (b.core 0).freeTicket? = some i ∧ b.endOpen g 1 sd = true
      ∧ b.endOpen g 2 dd = true
      ∧ b.chunk 0 0 dd.spaceOf (mkReq s.serial .deferBulk crew1 0 g.pc ⟨0, 1, sd, List.replicate sd.dims 0⟩
          ⟨0, 2, dd, t.coords bputO.c dd.dims⟩ (some i) (lowLane (crew1.holding h0 g.mask)) (s.coreCycle 0)).bytes
          (b.groupImages g 2) = some (n, price)
      ∧ Affords b g unit price :=
  ⟨crew1.threads[0].2, 0, 64, 1, passesB_sound (by decide +kernel), lands _ _ _ _ rfl, by decide +kernel,
    by decide +kernel, by decide +kernel, by decide +kernel, .inr (by decide +kernel), by decide +kernel,
    by decide +kernel, by decide +kernel, by decide +kernel, by decide +kernel, affordsB_sound (by decide +kernel)⟩

theorem witness_BputRefused : let s := issue bputI wQ; let g := grp bputI; let b := s.begun bputI g
    let dd := b.descOf g 2; let sd := b.descOf g 1
    ∃ t, Passes s bputI h0 g crew1 (s.chunkCost 0 0 (s.descOf g 2).spaceOf (s.groupImages g 2))
      ∧ leader crew1 h0 g = some t ∧ b.groupImaged g 2 = false ∧ dd.space ≠ 1
      ∧ b.entryFault g [(2, !sd.isGlobal && decide (sd.ndim = dd.ndim) && decide (sd.fmt = dd.fmt) && dd.isGlobal,
          [(bputO.c, dd.dims)]), (1, true, [])] = none
      ∧ (dd.clampz = true ∨ ∀ j < sd.dims, (t.coords bputO.c dd.dims).getD j 0 + sd.exts.getD j 0 ≤ dd.exts.getD j 0)
      ∧ 1024 ≤ (b.core 0).deferredCount :=
  ⟨crew1.threads[0].2, passesB_sound (by decide +kernel), by decide +kernel, by decide +kernel, by decide +kernel,
    by decide +kernel, .inr (by decide +kernel), by decide +kernel⟩

def migrO : MigrOp := ⟨3, 5, 0x120, 2, 0x104⟩
def migrI : Instr := .migr h0 migrO
/-- Tile 0 of the allocation is migrating. -/
def migrating (s : State) : State := s.modHome 0 7 0 fun q => { q with mig := true }

theorem witness_MigrQueues : let s := issue migrI w1; let g := grp migrI; let b := s.begun migrI g
    let d := b.descOf g 2
    ∃ t i n price, Passes s migrI h0 g crew1 (s.chunkCost 0 (s.migrHome h0 migrO g).space 3 0)
      ∧ (Result.none h0).Lands s g crew1 ∧ leader crew1 h0 g = some t
      ∧ b.entryFault g [(2, d.isGlobal && decide (2 ≤ d.space ∧ d.space ≤ 4), [(migrO.c, d.dims)])] = none
      ∧ d.inBounds (t.coords migrO.c d.dims) = true
      ∧ (b.homeOf 0 d (d.tileAt (t.coords migrO.c d.dims))).mig = false
      ∧ (b.homeOf 0 d (d.tileAt (t.coords migrO.c d.dims))).space ≠ 3 ∧ b.backed 0 3 = true
      ∧ (b.core 0).freeTicket? = some i
      ∧ (let e : CopyEnd := ⟨0, 2, d, t.coords migrO.c d.dims⟩
         b.nextChunk 0 (mkReq s.serial (.migr d.handle (d.tileAt (t.coords migrO.c d.dims)) 3 0) crew1 0 g.pc e e (some i)
           (lowLane (crew1.holding h0 g.mask)) (s.coreCycle 0)) = some (n, price)) ∧ Affords b g unit price :=
  ⟨crew1.threads[0].2, 0, 4096, 192, passesB_sound (by decide +kernel), lands _ _ _ _ rfl, by decide +kernel,
    by decide +kernel, by decide +kernel, by decide +kernel, by decide +kernel, by decide +kernel, by decide +kernel,
    by decide +kernel, affordsB_sound (by decide +kernel)⟩

theorem witness_MigrBusy : let s := issue migrI (migrating w1); let g := grp migrI; let b := s.begun migrI g
    let d := b.descOf g 2
    ∃ t, Passes s migrI h0 g crew1 (s.chunkCost 0 (s.migrHome h0 migrO g).space 3 0) ∧ leader crew1 h0 g = some t
      ∧ b.entryFault g [(2, d.isGlobal && decide (2 ≤ d.space ∧ d.space ≤ 4), [(migrO.c, d.dims)])] = none
      ∧ d.inBounds (t.coords migrO.c d.dims) = true
      ∧ (b.homeOf 0 d (d.tileAt (t.coords migrO.c d.dims))).mig = true
      ∧ b.migrBehind 0 crew1 d.handle (d.tileAt (t.coords migrO.c d.dims)) = false :=
  ⟨crew1.threads[0].2, passesB_sound (by decide +kernel), by decide +kernel, by decide +kernel, by decide +kernel,
    by decide +kernel, by decide +kernel⟩

/-! ## Matrix -/

def matB (taken : Bool) (s : State) (k : Crew) (i : Instr) : Bool :=
  let s := issue i s
  let g := grp i
  let b := s.begun i g
  match leader k h0 g with
  | none => false
  | some t => match matrixOf b g (s.begunCrew i g k) t i with
    | none => false
    | some (h, m) => decide (h = h0) && i.wellFormed
      && passesB s i h g k (s.priceAt g.core (m.op.price (s.groupImages g (m.ends.getD 0 ⟨0, true, none, (0, 0)⟩).n)))
      && (!m.op.port || !b.isImaged k (m.ends.getD 0 ⟨0, true, none, (0, 0)⟩).n)
      && (b.entryFault g (m.ends.map fun e => (e.n, e.ok, match e.c with
        | some c => [(c, (b.descOf g e.n).dims)]
        | none => []))).isNone
      && (match i with
        | .msca _ o =>
          let d := b.descOf g o.sn.toNat
          decide (d.kind = 2 ∧ d.exts.getD 0 0 % 256 = 0 ∧ (t.reg o.sc).toNat % 256 = 0
            ∧ (t.reg o.sc).toNat + 256 ≤ d.exts.getD 0 0)
        | _ => true)
      && (b.matCoordFault g t m.ends).isNone
      && !b.tilesAhead (quadOf g.core) k g.core m.op
      && (if taken then b.tilesTaken (quadOf g.core) k g.core m.op || m.noTile
        else !b.tilesTaken (quadOf g.core) k g.core m.op && !m.noTile && (b.core g.core).freeTicket?.isSome
          && decide (b.tableUse (quadOf g.core) < 16) && m.ends.all fun e => b.endOpen g e.n (b.descOf g e.n))

theorem scaleOk_of {s : State} {g : Group} {t : Thread} {i : Instr} (h : (match i with
    | .msca _ o =>
      let d := s.descOf g o.sn.toNat
      decide (d.kind = 2 ∧ d.exts.getD 0 0 % 256 = 0 ∧ (t.reg o.sc).toNat % 256 = 0
        ∧ (t.reg o.sc).toNat + 256 ≤ d.exts.getD 0 0)
    | _ => true) = true) : scaleOk s g t i := by
  unfold scaleOk
  split
  · simpa using h
  · trivial

def matForms : List Instr :=
  [.mma h0 ⟨3, 3, false, 5, 0x120, false, 3, false, 5, 0x104, 6, 0x104⟩,
   .mma h0 ⟨3, 3, true, 5, 0x120, true, 7, false, 5, 0x104, 6, 0x104⟩,
   .mmas h0 ⟨3, 3, 5, 0x120, false, 3, 5, 0x104, 0x104, 9, 8, 10⟩, .msca h0 ⟨5, 0x120, false, 0, 7, 0x104⟩,
   .mzero h0 ⟨1, 0, false, 5, 0x120, 0, 0⟩, .mlda h0 ⟨1, 0, false, 5, 0x120, 4, 0x104⟩,
   .mdrn h0 ⟨1, 0, false, 5, 0x120, 4, 0x104⟩, .mdra h0 ⟨1, 0, false, 5, 0x120, 4, 0x104⟩]

theorem witness_MatrixEnters : ∀ i ∈ matForms, let s := issue i w1; let g := grp i; let b := s.begun i g
    ∃ t h m j, leader crew1 h g = some t ∧ i.wellFormed = true
      ∧ matrixOf b g (s.begunCrew i g crew1) t i = some (h, m)
      ∧ Passes s i h g crew1
          (s.priceAt g.core (m.op.price (s.groupImages g (m.ends.getD 0 ⟨0, true, none, (0, 0)⟩).n)))
      ∧ (Result.none h).Lands s g crew1 ∧ MatOk b g crew1 t i m ∧ (tget? s.contexts crew1.id.ctx).isSome = true
      ∧ b.tilesAhead (quadOf g.core) crew1 g.core m.op = false
      ∧ b.tilesTaken (quadOf g.core) crew1 g.core m.op = false ∧ m.noTile = false
      ∧ (b.core g.core).freeTicket? = some j ∧ b.tableUse (quadOf g.core) < 16
      ∧ ∀ e ∈ m.ends, b.endOpen g e.n (b.descOf g e.n) = true := by
  have hb : matForms.all (matB false w1 crew1) = true := by decide +kernel
  intro i hi
  have := List.all_eq_true.mp hb i hi
  unfold matB at this
  dsimp only at this ⊢
  split at this
  · cases this
  · next t ht =>
    split at this
    · cases this
    · next h m hm =>
      rw [Bool.and_eq_true, Bool.and_eq_true, Bool.and_eq_true, Bool.and_eq_true, Bool.and_eq_true, Bool.and_eq_true,
        Bool.and_eq_true, Bool.and_eq_true] at this
      obtain ⟨⟨⟨⟨⟨⟨⟨⟨hh, hw⟩, hp⟩, hi⟩, he⟩, hs⟩, hc⟩, ha⟩, ho⟩ := this
      obtain rfl : h = h0 := by simpa using hh
      simp only [Bool.false_eq_true, if_false, Bool.and_eq_true, Bool.not_eq_true', decide_eq_true_eq,
        List.all_eq_true] at ho
      obtain ⟨j, hj⟩ := Option.isSome_iff_exists.mp ho.1.1.2
      exact ⟨t, h0, m, j, ht, hw, hm, passesB_sound hp, lands _ _ _ _ rfl,
        ⟨fun hpo => by simpa [hpo] using hi, Option.isNone_iff_eq_none.mp he, scaleOk_of hs, by simpa using hc⟩, rfl, by simpa using ha,
        ho.1.1.1.1, ho.1.1.1.2, hj, ho.1.2, ho.2⟩

/-- Tile 0 is another crew's; a `.kb` pass before any MMA. -/
def wM : State :=
  let tile : Tile := { vals := [], isInt := false, owner := some (1, 9), since := 0 }
  { w1 with cycle := 2 ^ 20, quads := [(0, { w1.quad 0 with
    banks := [{ TileBank.reset with use := .bound 0, tiles := [(0, tile)] }, TileBank.reset] })] }
def refusedForms : List Instr :=
  [.mzero h0 ⟨0, 0, false, 5, 0x120, 0, 0⟩, .mma h0 ⟨3, 3, false, 5, 0x120, false, 3, true, 5, 0x104, 6, 0x104⟩]

theorem witness_MatrixRefusals : refusedForms.all (matB true wM crew1) = true := by decide +kernel

/-! ## Barriers, atomics, tasks -/

/-- The machine with a barrier, a launch that may spawn and queue 1 fed by the device at 0x9000; 15 is a window of 4,096
bytes (F32, 1,024 elements) on the allocation 7. -/
def queue1 : Queue := { Queue.reset with base := 0x9000, slog := 4, devfed := true }
def wS : State :=
  let s := w2.modCore 0 fun c => { c with layout := tset c.layout 15 (window 5 [1024] [0, 0, 0]) }
  let s := s.modLaunch 0 fun l => { l with record := { l.record with spawnmax := 10 } }
  s.modContext 0 fun x => { x with queues := [(1, queue1)], ccb := { x.ccb with nq := 2 } }

/-- b1 counts crews. -/
def bar1 : Bar := Bar.fresh 1 true 1
def w3 : State := w1.modBlock 0 fun b => { b with bars := [(0, bar0), (1, bar1)] }

def barForms : List (Instr × BarOp × Bool) :=
  [(.bar h0 ⟨0, 1, false⟩, ⟨0, 1, false⟩, false), (.bar h0 ⟨1, 1, true⟩, ⟨1, 1, true⟩, false),
   (.bara h0 ⟨0, 1, false⟩, ⟨0, 1, false⟩, false), (.phase h0 ⟨0, 1, false⟩, ⟨0, 1, false⟩, true)]

theorem witness_BarriersArrive : ∀ x ∈ barForms, barrierOf x.1 = some (h0, x.2.1, x.2.2) ∧ x.1.wellFormed = true
    ∧ Ready (issue x.1 w3) x.1 h0 (grp x.1) crew1
    ∧ (issue x.1 w3).bar? crew1.id.block x.2.1.bid.toNat = some (false, if x.2.1.cm then bar1 else bar0)
    ∧ (Result.none h0).Lands (issue x.1 w3) (grp x.1) crew1
    ∧ (∀ p : Point, p.Lands (issue x.1 w3) (grp x.1) crew1) := by
  have hb : barForms.all (fun x => decide (barrierOf x.1 = some (h0, x.2.1, x.2.2)) && x.1.wellFormed
      && readyB (issue x.1 w3) x.1 h0 (grp x.1) crew1
      && decide ((issue x.1 w3).bar? crew1.id.block x.2.1.bid.toNat = some (false, if x.2.1.cm then bar1 else bar0))) = true := by decide +kernel
  intro x hx
  have := List.all_eq_true.mp hb x hx
  simp only [Bool.and_eq_true, decide_eq_true_eq] at this
  exact ⟨this.1.1.1, this.1.1.2, readyB_sound this.1.2, this.2, lands _ _ _ _ rfl, fun p => pointLands p _ _ _ rfl⟩

theorem witness_Arrivals : w3.bar? 0 1 = some (false, bar1) ∧ (grp (.bar h0 ⟨1, 1, true⟩)).mask ≠ 0 := by decide +kernel

def atomO : AtomOp := ⟨0, 0, 3, 1, 0, 2, 7, false⟩
def atomForms : List (Instr × Bool × AtomOp) :=
  [(.atom h0 atomO, true, atomO), (.atred h0 { atomO with d := 0 }, false, { atomO with d := 0 })]

theorem witness_AtomicsQueue : ∀ x ∈ atomForms, let s := issue x.1 w1; let g := grp x.1; let b := s.begun x.1 g
    let d := b.descOf g 2
    atomicOf x.1 = some (h0, x.2.2, x.2.1) ∧ x.1.wellFormed = true ∧ Ready s x.1 h0 g crew1
      ∧ crew1.holding h0 g.mask ≠ 0
      ∧ (tget? s.launches crew1.id.launch).all (fun l => !l.record.images.contains 2) = true
      ∧ b.entryFault g [(2, d.isGlobal && !d.gpl && decide (d.fmt = 0 ∨ d.fmt = 5 ∨ d.fmt = 6), [(x.2.2.c, d.dims)])] = none
      ∧ (∀ y ∈ acting crew1 (crew1.holding h0 g.mask), d.inBounds (y.2.coords x.2.2.c d.dims) = true
        ∧ d.bitPos (y.2.coords x.2.2.c d.dims) % 32 = 0)
      ∧ Affords b g g.slot 1 ∧ (Result.none h0).Lands s g crew1 ∧ ∀ p : Point, p.Lands s g crew1 := by
  have hb : atomForms.all (fun x => let s := issue x.1 w1; let g := grp x.1; let b := s.begun x.1 g
      let d := b.descOf g 2
      decide (atomicOf x.1 = some (h0, x.2.2, x.2.1)) && x.1.wellFormed && readyB s x.1 h0 g crew1
      && decide (crew1.holding h0 g.mask ≠ 0)
      && (tget? s.launches crew1.id.launch).all (fun l => !l.record.images.contains 2)
      && decide (b.entryFault g [(2, d.isGlobal && !d.gpl && decide (d.fmt = 0 ∨ d.fmt = 5 ∨ d.fmt = 6), [(x.2.2.c, d.dims)])]
        = none)
      && decide (∀ y ∈ acting crew1 (crew1.holding h0 g.mask), d.inBounds (y.2.coords x.2.2.c d.dims) = true
        ∧ d.bitPos (y.2.coords x.2.2.c d.dims) % 32 = 0) && affordsB b g g.slot 1) = true := by decide +kernel
  intro x hx
  have := List.all_eq_true.mp hb x hx
  simp only [Bool.and_eq_true, decide_eq_true_eq] at this
  obtain ⟨⟨⟨⟨⟨⟨⟨h1, h2⟩, h3⟩, h4⟩, h5⟩, h6⟩, h7⟩, h8⟩ := this
  exact ⟨h1, h2, readyB_sound h3, h4, h5, h6, h7, affordsB_sound h8, lands _ _ _ _ rfl, fun p => pointLands p _ _ _ rfl⟩

/-- A record for each thread; one for the crew. -/
def spawnO (cf : Bool) : SpawnOp := ⟨cf, false, 3, if cf then 0x100 else 0, if cf then 0x104 else 7, 4, 0, 0xFF, 0xFF, 0xFF, 0⟩
theorem witness_SpawnRecords : ∀ cf ∈ [false, true], let i := Instr.spawn h0 (spawnO cf); let g := grp i
    Ready (issue i wS) i h0 g crew1 ∧ (spawnO cf).cf = cf ∧ spawnRoom ((issue i wS).begun i g) crew1 = 10
      ∧ (∃ t, leader crew1 h0 g = some t) ∧ (∀ r : Result, r.Lands (issue i wS) g crew1)
      ∧ ∀ p : Point, p.Lands (issue i wS) g crew1 := by
  have hb : [false, true].all (fun cf => let i := Instr.spawn h0 (spawnO cf); let g := grp i
      readyB (issue i wS) i h0 g crew1 && decide (spawnRoom ((issue i wS).begun i g) crew1 = 10)
      && (leader crew1 h0 g).isSome) = true := by decide +kernel
  intro cf hc
  have := List.all_eq_true.mp hb cf hc
  simp only [Bool.and_eq_true, decide_eq_true_eq] at this
  exact ⟨readyB_sound this.1.1, rfl, this.1.2, Option.isSome_iff_exists.mp this.2, fun r => lands r _ _ _ rfl,
    fun p => pointLands p _ _ _ rfl⟩

def launchO : LaunchOp := ⟨false, 0x12A, 15, 0x12B⟩
def crewS : Crew := { crew1 with id := { crew1.id with spawned := true } }
def wSp : State := worldOf crewS
def taskForms : List Instr :=
  [.join h0 ⟨true, false, 1, 2⟩, .join h0 ⟨false, true, 0, 0⟩, .join h0 ⟨false, false, 1, 0⟩, .launch h0 launchO]
theorem witness_JoinAndLaunch : ∀ i ∈ taskForms, Ready (issue i wS) i h0 (grp i) crew1
    ∧ (Result.none h0).Lands (issue i wS) (grp i) crew1 := by
  have hb : taskForms.all (fun i => readyB (issue i wS) i h0 (grp i) crew1) = true := by decide +kernel
  exact fun i hi => ⟨readyB_sound (List.all_eq_true.mp hb i hi), lands _ _ _ _ rfl⟩

theorem witness_JoinAndPark : ∀ x ∈ [(h0, false, 0), (h0, true, 1), (hp1, false, 0)],
    let i := Instr.park x.1 x.2.1 (BitVec.ofNat 9 x.2.2); let s := issue i wSp; let g := grp i
    Ready s i x.1 g crewS ∧ crewS.holding x.1 g.mask ≠ 0 ∧ NobodyWaits crewS
      ∧ crewS.Clear (s.context crewS.id.ctx) (g.mask &&& ~~~crewS.holding x.1 g.mask) (fun _ => g.next) := by
  have hb : [(h0, false, 0), (h0, true, 1), (hp1, false, 0)].all (fun x =>
      let i := Instr.park x.1 x.2.1 (BitVec.ofNat 9 x.2.2); let s := issue i wSp; let g := grp i
      readyB s i x.1 g crewS && decide (crewS.holding x.1 g.mask ≠ 0)) = true := by decide +kernel
  intro x hx
  have := List.all_eq_true.mp hb x hx
  simp only [Bool.and_eq_true, decide_eq_true_eq] at this
  exact ⟨readyB_sound this.1, this.2, nobodyWaits (by decide +kernel), clear_of_noLevel rfl _ _ _⟩

/-- A counter of 2, and of 1, each with a record that it holds. -/
def heldRec : TaskRec := spawnRec wS (grp (.park h0 false 0)) crew1 (spawnO false) crew1.threads[0].2
def armed (n : Nat) : State := w1.modDie 0 fun d => { d with joins := [(5, ⟨true, n, [heldRec]⟩)] }
theorem witness_JoinCounts : ∀ n ∈ [1, 2], (((armed n).die 0).joins.map (·.1)).Pairwise (· < ·)
    ∧ ((armed n).joinAt 0 5).armed = true ∧ ((armed n).joinAt 0 5).count = n := by decide +kernel

/-- v1 names queue 1 in a thread; the window then holds a record of class NOP. -/
def recBytes : List Byte := leBytes 1 4
def lqThread : Thread := .start 0x4000 [(1, 1)] uniform1 0xFFFF 0
def wLq : State := wS.putGlobal 7 0 recBytes
def lqO : LaunchOp := ⟨false, 1, 15, 7⟩
theorem memWfB {s : State} (h : (Memory.wf s.globalMem && s.cores.all fun p => Memory.wf p.2.cells) = true) : s.MemWf := by
  simp only [Bool.and_eq_true, List.all_eq_true] at h
  exact ⟨h.1, fun p hp => h.2 p hp⟩
theorem witness_LaunchAppends : let s := wLq; let x := s.context 0
    s.MemWf ∧ (tget? s.contexts crew1.id.ctx).isSome = true ∧ (lqThread.reg lqO.q).toNat < x.ccb.nq
      ∧ (x.queue 1).devfed = true ∧ ∃ bs, s.launchRead (grp (.launch h0 lqO)) 0 15 (lqThread.coords lqO.c
        ((s.core 0).entry 0 15).desc.dims) = some bs ∧ (parseRecord (leNat bs)).fieldsOk x = true
      ∧ (x.queue 1).passes (((x.queue 1).tail + 1) % 2 ^ 16) = false := by
  refine ⟨memWfB (by decide +kernel), by decide +kernel, by decide +kernel, by decide +kernel, ?_⟩
  have h : (match wLq.launchRead (grp (.launch h0 lqO)) 0 15 (lqThread.coords lqO.c
        ((wLq.core 0).entry 0 15).desc.dims) with
      | some bs => (parseRecord (leNat bs)).fieldsOk (wLq.context 0)
          && !((wLq.context 0).queue 1).passes ((((wLq.context 0).queue 1).tail + 1) % 2 ^ 16)
      | none => false) = true := by decide +kernel
  split at h
  · next bs hb =>
    simp only [Bool.and_eq_true, Bool.not_eq_true'] at h
    exact ⟨bs, hb, h.1, h.2⟩
  · cases h
/-- A queue that is not fed by the device. -/
theorem witness_LaunchRefused : ((wLq.context 0).queue 0).devfed = false := by
  decide +kernel

/-! ## Steps, words, memory -/

/-- The agenda names the group at 0x4000, or nothing. -/
def wStep (named : Bool) : State := { w1 with agenda := if named then [.issue 0 0 0x4000] else [] }
def nopI : Instr := .nop h0

theorem witness_StepRunsDecoded : ∀ named ∈ [false, true], let s := wStep named
    Offered s 0 0 0x4000 crew1 [] ∧ ∃ gs, (s.context crew1.id.ctx).fetch (0x4000 : Word).toNat = .ok gs
      ∧ decode (s.privAt crew1 3) gs = .ok nopI ∧ kindCheck crew1.id.vallot nopI = none
      ∧ s.breaksAt ⟨0, 0⟩ crew1 0x4000 = false ∧ (⟨0, 0⟩, 0x4000) ∉ s.device.session.pass
      ∧ portFree s 0 (opcClassA (opcOf (gs.headD 0)))
      ∧ (issuers s 0 0x4000 crew1 (opcClassA (opcOf (gs.headD 0)))).head? = some (0, 3) := by
  have hb : [false, true].all (fun named => let s := wStep named
      (named || match s.auto with
        | .issue c slot pc => decide (c = 0 ∧ slot = 0 ∧ pc = 0x4000)
        | _ => false)
      && s.mayIssue ⟨0, 0⟩ crew1 && decide (s.crew? 0 0 = some crew1) && !s.replayOver 0
      && decide ((s.core 0).paidGroup 0 0x4000 = none) && !(s.context 0).holdsBack crew1
      && ((s.core 0).tidyPc (s.coreCycle 0)).hasEntry crew1.id.block 0x4000) = true := by decide +kernel
  have hc : [false, true].all (fun named => let s := wStep named
      match (s.context crew1.id.ctx).fetch (0x4000 : Word).toNat with
      | .error _ => false
      | .ok gs => (match decode (s.privAt crew1 3) gs with
          | .ok i => decide (i = nopI)
          | .error _ => false) && decide (kindCheck crew1.id.vallot nopI = none)
        && !s.breaksAt ⟨0, 0⟩ crew1 0x4000
        && decide ((if opcClassA (opcOf (gs.headD 0)) then (s.core 0).lastA else (s.core 0).lastB) ≠ some (s.coreCycle 0))
        && decide ((issuers s 0 0x4000 crew1 (opcClassA (opcOf (gs.headD 0)))).head? = some (0, 3))) = true := by
    decide +kernel
  intro named hn
  have h1 := List.all_eq_true.mp hb named hn
  have h2 := List.all_eq_true.mp hc named hn
  dsimp only at h1 h2 ⊢
  simp only [Bool.and_eq_true, decide_eq_true_eq, Bool.not_eq_true'] at h1
  obtain ⟨⟨⟨⟨⟨⟨ha, hf⟩, hk⟩, hr⟩, hp⟩, ho⟩, he⟩ := h1
  refine ⟨⟨?_, hk, hf, hr, hp, ho, he⟩, ?_⟩
  · cases named
    · refine .inr ⟨rfl, rfl, ?_⟩
      simp only [Bool.false_or] at ha
      split at ha
      · next h => obtain ⟨rfl, rfl, rfl⟩ := of_decide_eq_true ha; exact h
      · cases ha
    · exact .inl rfl
  · split at h2
    · cases h2
    · next gs hg =>
      simp only [Bool.and_eq_true, decide_eq_true_eq, Bool.not_eq_true'] at h2
      obtain ⟨⟨⟨⟨hd, hk⟩, hbr⟩, hport⟩, hparts⟩ := h2
      refine ⟨gs, hg, ?_, hk, hbr, by simp [wStep, w1, onEntries, world, State.standAt]; decide +kernel, hport, hparts⟩
      split at hd
      · next i hi => rw [hi, of_decide_eq_true hd]
      · cases hd

theorem witness_StepEvent : ∀ e ∈ [Instr.stallCounterSnapshot 0, .kaleDoom 0],
    ({ w1 with agenda := [.event e] } : State).agenda = [.event e] ∧ e.hdr? = none := by decide +kernel

/-- Code whose bytes mean nothing; a PC outside the code; an instruction that crosses its block, and one whose d is past
VALLOT. -/
def crewAt (pc : Word) (vallot : Nat) : Crew :=
  let k := crewOf lane0 lane1 uniform1
  { k with id := { k.id with vallot := vallot }, threads := k.threads.map fun p => (p.1, { p.2 with pc := pc }) }
def badStep (k : Crew) (pc : Word) (gs : List Granule) : State :=
  let s := world k id
  { s.modContext 0 fun x => { x with code := Memory.writeN x.code 0x4000 (gs.flatMap fun g => leBytes g.toNat 4) } with
    agenda := [.issue 0 0 pc] }
def offeredB (s : State) (pc : Word) (k : Crew) : Bool :=
  s.mayIssue ⟨0, 0⟩ k && decide (s.crew? 0 0 = some k) && !s.replayOver k.id.ctx
    && decide ((s.core 0).paidGroup 0 pc = none) && !(s.context k.id.ctx).holdsBack k
    && ((s.core 0).tidyPc (s.coreCycle 0)).hasEntry k.id.block pc
theorem offeredB_sound {s : State} {pc : Word} {k : Crew} (h : offeredB s pc k = true)
    (ha : s.agenda = [.issue 0 0 pc]) : Offered s 0 0 pc k [] := by
  simp only [offeredB, Bool.and_eq_true, decide_eq_true_eq, Bool.not_eq_true'] at h
  obtain ⟨⟨⟨⟨⟨hf, hk⟩, hr⟩, hp⟩, ho⟩, he⟩ := h
  exact ⟨.inl ha, hk, hf, hr, hp, ho, he⟩

def kCode : Crew := crewAt 0x4000 256
def kOut : Crew := crewAt 0x6000 256
def kCross : Crew := crewAt 0x401C 256
def kKind : Crew := crewAt 0x4000 8
def sCode : State := badStep kCode 0x4000 [0xFFFFFFFF, 0xFFFFFFFF]
def sOut : State := badStep kOut 0x6000 []
def sCross : State := badStep kCross 0x401C (List.replicate 7 0 ++ encode nopI)
def sKind : State := badStep kKind 0x4000 (encode (.iadd h0 ⟨20, 1, 2, 0, 0⟩))

theorem witness_Unfetchable : Offered sOut 0 0 0x6000 kOut [] ∧ sOut.cur = none
    ∧ (∃ cause a, (sOut.context kOut.id.ctx).fetch (0x6000 : Word).toNat = .error (cause, a) ∧ cause ≠ .cross)
    ∧ ((sOut.core 0).crewsAt (sOut.coreCycle 0) kOut.id.block 0x6000 fun t => t.isReady (sOut.coreCycle 0)).head?
      = some (0, 3)
    ∧ (tget? sOut.contexts kOut.id.ctx).isSome = true ∧ (sOut.context kOut.id.ctx).ccb.cerr.valid = false := by
  have h : (match (sOut.context kOut.id.ctx).fetch (0x6000 : Word).toNat with
    | .error x => decide (x.1 ≠ .cross)
    | .ok _ => false) = true := by decide +kernel
  refine ⟨offeredB_sound (by decide +kernel) rfl, rfl, ?_, by decide +kernel, by decide +kernel, by decide +kernel⟩
  split at h
  · next c hc => exact ⟨c.1, c.2, hc, of_decide_eq_true h⟩
  · cases h

theorem witness_Undecodable : Offered sCode 0 0 0x4000 kCode [] ∧ sCode.cur = none
    ∧ ∃ gs cause, (sCode.context kCode.id.ctx).fetch (0x4000 : Word).toNat = .ok gs
      ∧ decode (sCode.privAt kCode 3) gs = .error cause ∧ portFree sCode 0 (opcClassA (opcOf (gs.headD 0)))
      ∧ (issuers sCode 0 0x4000 kCode (opcClassA (opcOf (gs.headD 0)))).head? = some (0, 3) := by
  have h : (match (sCode.context kCode.id.ctx).fetch (0x4000 : Word).toNat with
    | .error _ => false
    | .ok gs => (match decode (sCode.privAt kCode 3) gs with
      | .error _ => true
      | .ok _ => false)
      && decide ((if opcClassA (opcOf (gs.headD 0)) then (sCode.core 0).lastA else (sCode.core 0).lastB)
        ≠ some (sCode.coreCycle 0))
      && decide ((issuers sCode 0 0x4000 kCode (opcClassA (opcOf (gs.headD 0)))).head? = some (0, 3))) = true := by
    decide +kernel
  refine ⟨offeredB_sound (by decide +kernel) rfl, rfl, ?_⟩
  split at h
  · cases h
  · next gs hg =>
    simp only [Bool.and_eq_true, decide_eq_true_eq] at h
    obtain ⟨⟨h, hp⟩, hi⟩ := h
    split at h
    · next c hc => exact ⟨gs, c, hg, hc, hp, hi⟩
    · cases h

theorem witness_Crosses : Offered sCross 0 0 0x401C kCross [] ∧ sCross.cur = none
    ∧ (∃ a, (sCross.context kCross.id.ctx).fetch (0x401C : Word).toNat = .error (.cross, a))
    ∧ (let clsA := opcClassA (opcOf (((sCross.context kCross.id.ctx).wordsAt 0x401C).headD 0))
       portFree sCross 0 clsA ∧ (issuers sCross 0 0x401C kCross clsA).head? = some (0, 3)) := by
  have h : (match (sCross.context kCross.id.ctx).fetch (0x401C : Word).toNat with
    | .error x => decide (x.1 = .cross)
    | .ok _ => false) = true := by decide +kernel
  have hp : (let clsA := opcClassA (opcOf (((sCross.context kCross.id.ctx).wordsAt 0x401C).headD 0))
    decide ((if clsA then (sCross.core 0).lastA else (sCross.core 0).lastB) ≠ some (sCross.coreCycle 0))
      && decide ((issuers sCross 0 0x401C kCross clsA).head? = some (0, 3))) = true := by decide +kernel
  simp only [Bool.and_eq_true, decide_eq_true_eq] at hp
  refine ⟨offeredB_sound (by decide +kernel) rfl, rfl, ?_, hp⟩
  split at h
  · next c hc => exact ⟨c.2, by rw [hc, ← of_decide_eq_true h]⟩
  · cases h

theorem witness_WrongKind : Offered sKind 0 0 0x4000 kKind [] ∧ sKind.cur = none
    ∧ ∃ gs i cause, (sKind.context kKind.id.ctx).fetch (0x4000 : Word).toNat = .ok gs ∧ decode (sKind.privAt kKind 3) gs = .ok i
      ∧ kindCheck kKind.id.vallot i = some cause ∧ portFree sKind 0 (opcClassA (opcOf (gs.headD 0)))
      ∧ (issuers sKind 0 0x4000 kKind (opcClassA (opcOf (gs.headD 0)))).head? = some (0, 3) := by
  have h : (match (sKind.context kKind.id.ctx).fetch (0x4000 : Word).toNat with
    | .error _ => false
    | .ok gs => match decode (sKind.privAt kKind 3) gs with
      | .error _ => false
      | .ok i => (kindCheck kKind.id.vallot i).isSome
        && decide ((if opcClassA (opcOf (gs.headD 0)) then (sKind.core 0).lastA else (sKind.core 0).lastB)
            ≠ some (sKind.coreCycle 0))
        && decide ((issuers sKind 0 0x4000 kKind (opcClassA (opcOf (gs.headD 0)))).head? = some (0, 3))) = true := by
    decide +kernel
  refine ⟨offeredB_sound (by decide +kernel) rfl, rfl, ?_⟩
  split at h
  · cases h
  · next gs hg =>
    split at h
    · cases h
    · next i hi =>
      simp only [Bool.and_eq_true, decide_eq_true_eq] at h
      obtain ⟨c, hc⟩ := Option.isSome_iff_exists.mp h.1.1
      exact ⟨gs, i, c, hg, hi, hc, h.1.2, h.2⟩

theorem witness_Encodings : nopI.hdr?.isSome = true ∧ nopI.rsvdOk = true
    ∧ ∃ g rest, lenOf g ≠ 0 ∧ rest.length = lenOf g ∧ decode false (g :: rest) = .ok nopI := by
  have h : (match decode false [0x00008001, 0x00000004] with
    | .ok i => decide (i = nopI)
    | .error _ => false) = true := by decide +kernel
  refine ⟨by decide +kernel, by decide +kernel, 0x00008001, [0x00000004], by decide +kernel, by decide +kernel, ?_⟩
  split at h
  · next i hi => rw [hi, of_decide_eq_true h]
  · cases h

/-- A step from a machine whose memory is well formed; an instruction that stores nothing. -/
theorem witness_MemoryKept : wLq.MemWf ∧ (match step (wStep true) with
    | .next _ => true
    | _ => false) = true ∧ nopI.hdr?.isSome = true ∧ storing nopI = false
    ∧ (match exec nopI (issue nopI w1) with
    | .next _ => true
    | _ => false) = true :=
  ⟨memWfB (by decide +kernel), by decide +kernel, by decide +kernel, by decide +kernel, by decide +kernel⟩

/-! ## Events of crews, blocks and launches -/

theorem sortedB {α : Type} {t : Tab α} (h : decide ((t.map (·.1)).Pairwise (· < ·)) = true) : Sorted t := by
  simpa [Sorted] using h
def lanesB (k : Crew) : Bool :=
  decide ((k.threads.map (·.1)).Pairwise (· < ·)) && k.threads.all fun p => decide (p.1 < 64)
theorem lanesB_sound {k : Crew} (h : lanesB k = true) : Lanes k := by
  simp only [lanesB, Bool.and_eq_true, List.all_eq_true, decide_eq_true_eq] at h
  exact h
theorem noLoopEnd {k : Crew} (h : k.loops.levels = []) (x : Context) (m : Mask) : NoLoopEnd x m k := by
  intro v hv
  rw [h] at hv
  cases hv

/-- Both threads wait at the end of the level with a counter of n; a thread has broken out, or all have. -/
def crewE (n : Word) (b0 b1 : Bool) : Crew :=
  let at' := fun (b : Bool) (r : Tab Word) => { Thread.start 0x4020 r uniform1 0xFFFF 0 with st := .loopEnd, broken := b }
  { crewL with loops := ⟨[n, 0, 0], [level0], []⟩, threads := [(0, at' b0 lane0), (1, at' b1 lane1)] }

theorem witness_LoopEnds : ∀ x ∈ [((3 : Word), false, false), (3, false, true), (1, false, true), (3, true, true)],
    let k := crewE x.1 x.2.1 x.2.2
    (worldOf k).crew? 0 0 = some k ∧ Lanes k ∧ AtEnd k [] level0
      ∧ ((k.loops.lc.getD 0 0 - 1 ≠ 0 ∧ ∃ l t, (k.levelSet level0).getLsbD l = true ∧ k.thread? l = some t
          ∧ t.broken = false) ↔ x.1 = 3 ∧ x.2.1 = false) := by
  have hb : [((3 : Word), false, false), (3, false, true), (1, false, true), (3, true, true)].all (fun x =>
      let k := crewE x.1 x.2.1 x.2.2
      decide ((worldOf k).crew? 0 0 = some k) && lanesB k && k.threads.all (fun p => decide (p.2.pc = level0.stop))
        && decide (k.levelSet level0 = 3)
        && decide (k.thread? 0 = k.threads.head?.map (·.2)) && decide (k.thread? 1 = (k.threads.drop 1).head?.map (·.2))
        && decide ((k.loops.lc.getD 0 0 - 1 ≠ 0 ∧ (x.2.1 = false ∨ x.2.2 = false)) ↔ (x.1 = 3 ∧ x.2.1 = false))) = true := by
    decide +kernel
  intro x hx
  have := List.all_eq_true.mp hb x hx
  simp only [Bool.and_eq_true, decide_eq_true_eq] at this
  obtain ⟨⟨⟨⟨⟨⟨h1, h2⟩, h3⟩, h4⟩, h5⟩, h6⟩, h7⟩ := this
  have lane : ∀ l, (BitVec.getLsbD (3 : Mask) l) = true → l = 0 ∨ l = 1 := by
    intro l hl
    have := laneAll_sound (m := 3) (p := fun l => decide (l = 0 ∨ l = 1)) (by decide +kernel) l hl
    exact of_decide_eq_true this
  refine ⟨h1, lanesB_sound h2, ⟨rfl, fun w hw hh => ?_, ⟨0, _, ?_, h5⟩, fun l t hl ht => ?_⟩, ?_⟩
  · simp only [List.nil_append, List.mem_singleton] at hw
    subst hw
    cases hh
  · rw [h4]; decide
  · rw [h4] at hl
    rcases lane l hl with rfl | rfl
    · rw [h5] at ht; cases ht; exact ⟨rfl, rfl⟩
    · rw [h6] at ht; cases ht; exact ⟨rfl, rfl⟩
  · rw [← h7]
    refine and_congr_right fun _ => ⟨fun ⟨l, t, hl, ht, hb⟩ => ?_, fun h => ?_⟩
    · rw [h4] at hl
      rcases lane l hl with rfl | rfl
      · rw [h5] at ht; cases ht; exact .inl hb
      · rw [h6] at ht; cases ht; exact .inr hb
    · rcases h with h | h
      · exact ⟨0, _, by rw [h4]; decide, h5, h⟩
      · exact ⟨1, _, by rw [h4]; decide, h6, h⟩

/-- Both threads of the crew in one state; a crew that claims a bank. -/
def crewIn (st : TState) : Crew :=
  let k := crewOf lane0 lane1 uniform1
  { k with threads := k.threads.map fun p => (p.1, { p.2 with st := st }), claim := some ⟨1, 0⟩ }

theorem witness_CrewTimers : ∀ st ∈ [TState.sleeping 0, .parked (.wave 0), .parked (.cap 1 3 5 (some 0))],
    let k := crewIn st; let s := worldOf k
    s.crew? 0 0 = some k ∧ Lanes k ∧ (∀ m, NoLoopEnd (s.context k.id.ctx) m k) ∧ k.claim = some ⟨1, 0⟩
      ∧ waiting k (fun x => decide (x = st)) = 3 ∧ s.coreTick 0 = 0 ∧ s.coreCycle 0 = 0 := by
  have hb : [TState.sleeping 0, .parked (.wave 0), .parked (.cap 1 3 5 (some 0))].all (fun st =>
      let k := crewIn st; let s := worldOf k
      decide (s.crew? 0 0 = some k) && lanesB k && decide (waiting k (fun x => decide (x = st)) = 3)
        && decide (s.coreTick 0 = 0) && decide (s.coreCycle 0 = 0)) = true := by decide +kernel
  intro st hs
  have := List.all_eq_true.mp hb st hs
  simp only [Bool.and_eq_true, decide_eq_true_eq] at this
  exact ⟨this.1.1.1.1, lanesB_sound this.1.1.1.2, noLoopEnd rfl _, rfl, this.1.1.2, this.1.2, this.2⟩

/-- The wait is at its deadline, and its turn has come. -/
def crewC (deadline : Option Nat) : Crew := crewIn (.parked (.cap 1 3 5 deadline))
theorem witness_Waitcap : (crewC (some 0)).capWait = some (1, 3, 5, some 0)
    ∧ ∀ d ∈ [some 1, none], (crewC d).capWait = some (1, 3, 5, d) ∧ (worldOf (crewC d)).nextCap 0 = some (0, 1, 5) := by
  decide +kernel

/-- READY since cycle 0 of a core whose cycle is now 2^26 or more. -/
def later (s : State) : State := { s with cycle := 2 ^ 30 }
theorem witness_Timers : let s := later (worldOf crew1)
    s.crew? 0 0 = some crew1 ∧ crew1.st = .run ∧ crew1.evict = none ∧ crew1.thread? 0 = some crew1.threads[0].2
      ∧ crew1.threads[0].2.isReady (s.coreCycle 0) = true ∧ crew1.threads[0].2.promoted = false
      ∧ crew1.threads[0].2.since + 256 ≤ s.coreCycle 0
      ∧ crew1.counts.wdBase + 2 ^ (s.context crew1.id.ctx).ccb.wdlog ≤ s.coreCycle 0 := by decide +kernel

/-- One block waits for placement. -/
def wPlace : State :=
  { w0 with blocks := [], cores := [(0, { w0.core 0 with slots := [] })], launches := [(0, standRecord.launch 0 none)] }
def placeE : PlaceEv := ⟨0, 0, [0], [7]⟩
theorem witness_Placement : ∃ p, wPlace.placing placeE = some p :=
  Option.isSome_iff_exists.mp (by decide +kernel)

/-- The crew is in PROLOGUE; the record has n bindings of entry 1 to entry 2. -/
def bindW : Nat := 1 + 256 * 2
def wPro (n : Nat) : State :=
  let s := worldOf { crew1 with st := .prologue }
  (s.modBlock 0 fun b => { b with started := false }).modLaunch 0 fun l =>
    { l with record := { l.record with bind := List.replicate n bindW } }
theorem witness_Prologue : (∃ b, tget? (wPro 1).blocks 0 = some b ∧ (wPro 1).bindNext 0 = true
      ∧ ((wPro 1).bindsOf b).getD b.nextBind 0 = bindW ∧ b.cores = [0] ∧ b.crews = [⟨0, 0⟩])
    ∧ ((wPro 1).core 0).entry 0 (bindDst bindW) = entry (desc 0 5 [16])
    ∧ (((wPro 1).core 0).entry 0 (bindSrc bindW)).desc.st = .live
    ∧ ∃ b, tget? (wPro 0).blocks 0 = some b ∧ (wPro 0).canStart 0 = true ∧ b.crews = [⟨0, 0⟩] := by
  have h1 : (match tget? (wPro 1).blocks 0 with
    | some b => (wPro 1).bindNext 0 && decide (((wPro 1).bindsOf b).getD b.nextBind 0 = bindW ∧ b.cores = [0] ∧ b.crews = [⟨0, 0⟩])
    | none => false) = true := by decide +kernel
  have h2 : (match tget? (wPro 0).blocks 0 with
    | some b => (wPro 0).canStart 0 && decide (b.crews = [⟨0, 0⟩])
    | none => false) = true := by decide +kernel
  refine ⟨?_, by decide +kernel, by decide +kernel, ?_⟩
  · split at h1
    · next b hb =>
      simp only [Bool.and_eq_true, decide_eq_true_eq] at h1
      exact ⟨b, hb, h1.1, h1.2⟩
    · cases h1
  · split at h2
    · next b hb =>
      simp only [Bool.and_eq_true, decide_eq_true_eq] at h2
      exact ⟨b, hb, h2⟩
    · cases h2

/-- A bin of n records, the oldest in it since 0. -/
def binRec : TaskRec := { heldRec with code := 0x4000, binned := some 0, launch := 0, hany := true }
def wBin (n : Nat) : State :=
  (later w1).modDie 0 fun d => { d with bins := [binRec.key], tasks := List.replicate n binRec }
def binE : TaskEv := ⟨0, 0, 1, 9⟩
theorem witness_TaskBins : ∀ n ∈ [1, 64], ((wBin n).inBin 0 0).head? = some binRec ∧ (wBin n).taskRoom binE binRec = true
    ∧ (tget? (wBin n).launches binRec.launch).isSome = true ∧ ((wBin n).inBin 0 0).length = n
    ∧ binRec.binned = some 0 ∧ 0 + 2000 ≤ (wBin n).tick := by
  have hb : [1, 64].all (fun n => decide (((wBin n).inBin 0 0).head? = some binRec) && (wBin n).taskRoom binE binRec
    && (tget? (wBin n).launches binRec.launch).isSome && decide (((wBin n).inBin 0 0).length = n)
    && decide (binRec.binned = some 0) && decide (0 + 2000 ≤ (wBin n).tick)) = true := by decide +kernel
  intro n hn
  have := List.all_eq_true.mp hb n hn
  simp only [Bool.and_eq_true, decide_eq_true_eq] at this
  exact ⟨this.1.1.1.1.1, this.1.1.1.1.2, this.1.1.1.2, this.1.1.2, this.1.2, this.2⟩

/-- A HELD crew; its block has two crews left, or it is the last, with a deferred request or without. -/
def wHeld (left : Nat) (reqs : List Req) : State :=
  let s := onEntries (world { crew1 with st := .held } fun c => { c with layout := entries, reqs := reqs })
  s.modBlock 0 fun b => { b with left := left }
def oneReq : Req := mkReq 0 .deferBulk crew1 0 0x4000 ⟨0, 1, desc 0 5 [16], [0]⟩ ⟨0, 2, desc 0 5 [16], [0]⟩ none 0 0
theorem witness_CrewReleased : let s := wHeld 2 []; let k : Crew := { crew1 with st := .held }
    s.crew? 0 0 = some k ∧ Sorted (s.core 0).slots ∧ k.st = .held ∧ s.engineBusy 0 0 k = false
      ∧ (tget? s.blocks 0).map (·.left) = some 2 :=
  ⟨by decide +kernel, sortedB (by decide +kernel), rfl, by decide +kernel, by decide +kernel⟩
theorem witness_BlockOver : ∀ reqs ∈ [[], [oneReq]], let s := wHeld 1 reqs
    (tget? s.blocks 0).map (·.publishing) = some false ∧ s.blockOver 0 = true
      ∧ ((∃ c, ∃ r ∈ (s.core c).reqs, Unpublished 0 r) ∨ ∀ p ∈ s.cores, ∀ r ∈ p.2.reqs, ¬ Unpublished 0 r)
      ∧ Sorted s.blocks ∧ ∀ c, Sorted (s.core c).slots := by
  have hb : [[], [oneReq]].all (fun reqs => let s := wHeld 1 reqs
    decide ((tget? s.blocks 0).map (·.publishing) = some false) && s.blockOver 0
      && decide ((s.blocks.map (·.1)).Pairwise (· < ·)) && decide (s.cores.map (·.1) = [0])) = true := by decide +kernel
  intro reqs hr
  have := List.all_eq_true.mp hb reqs hr
  simp only [Bool.and_eq_true, decide_eq_true_eq] at this
  refine ⟨this.1.1.1, this.1.1.2, ?_, this.1.2, fun c => ?_⟩
  · simp only [List.mem_cons, List.not_mem_nil, or_false] at hr
    rcases hr with rfl | rfl
    · right
      have h : (wHeld 1 []).cores.all (fun p => p.2.reqs.isEmpty) = true := by decide +kernel
      intro p hp r hm
      have := List.isEmpty_iff.mp (List.all_eq_true.mp h p hp)
      rw [this] at hm
      cases hm
    · exact .inl ⟨0, oneReq, by decide +kernel, rfl, by decide +kernel, rfl⟩
  · have h0 : (wHeld 1 reqs).cores = [(0, (wHeld 1 reqs).core 0)] := by rfl
    unfold State.core
    rw [h0]
    by_cases hc : c = 0
    · subst hc; exact sortedB (by rfl)
    · have : tget? [(0, (wHeld 1 reqs).core 0)] c = none := by simp [tget?, Ne.symm hc]
      simp only [tget, this]
      exact sortedB (by decide +kernel)

/-- The launch has nothing left to do, and names a completion record. -/
def wOver (cmpl : BitVec 64) : State := w1.modLaunch 0 fun l => { l with done := 1, record := { l.record with cmpl := cmpl } }
theorem witness_LaunchOver : ∀ cmpl ∈ [(0 : BitVec 64), 0x8000], (∃ l, tget? (wOver cmpl).launches 0 = some l
    ∧ l.isOver = true ∧ l.record.cmpl = cmpl) ∧ (wOver cmpl).MemWf := by
  have hb : [(0 : BitVec 64), 0x8000].all (fun cmpl => (match tget? (wOver cmpl).launches 0 with
    | some l => l.isOver && decide (l.record.cmpl = cmpl)
    | none => false) && (Memory.wf (wOver cmpl).globalMem && (wOver cmpl).cores.all fun p => Memory.wf p.2.cells)) = true := by
    decide +kernel
  intro c hc
  have := List.all_eq_true.mp hb c hc
  rw [Bool.and_eq_true] at this
  refine ⟨?_, memWfB this.2⟩
  have := this.1
  split at this
  · next l hl =>
    simp only [Bool.and_eq_true, decide_eq_true_eq] at this
    exact ⟨l, hl, this⟩
  · cases this

/-! ## Events of tokens, points, the control loop and the matrix engine -/

theorem anyB {α : Type} {o : Option α} {p : α → Bool} (h : o.any p = true) : ∃ x, o = some x ∧ p x = true := by
  cases o with
  | none => cases h
  | some x => exact ⟨x, rfl, h⟩

/-- The machine after an instruction that completes. -/
def after (i : Instr) (s : State) : State :=
  match exec i s with
  | .next t => t
  | _ => s
def ran (i : Instr) (s : State) : State := after i (issue i s)

/-- Flits with tokens; a demand of a group for more than there is. -/
def demandOf (hungry : Option Nat) : Demand := ⟨.group 0 [(0, 3)] 0x4000 none, 10, 10, 0, false, hungry⟩
def wRing (ds : List Demand) : State :=
  let s := (later w1).modCore 0 fun c => { c with demands := ds, tok := { c.tok with level := 0, headWait := 130 } }
  s.modDie 0 fun d => { d with flits := d.flits.map fun f => { f with tok := 9 } }

theorem witness_Tokens : ∀ ds ∈ [[], [demandOf none]], let s := wRing ds
    (s.die 0).flits ≠ [] ∧ s.device.power.state = .active ∧ (s.die 0).injAt ≠ s.cycle + 1
      ∧ (s.core 0).tok.takeAt ≠ s.cycle + 1 ∧ 0 % 64 + 1 < (s.die (dieOf 0)).flits.length ∧ (s.flitAt 0).cv = false
      ∧ (s.core 0).tok.holds = false ∧ 130 ≤ (s.core 0).tok.headWait ∧ (s.core 0).demands = ds := by decide +kernel
theorem witness_Demand : let s := wRing [demandOf none]
    (s.core 0).head? = some (demandOf none) ∧ demandOf none ∈ (s.core 0).presented ∧ (demandOf none).hungry = none
      ∧ (demandOf none).since + 64 ≤ s.coreCycle 0 ∧ s.crew? 0 (demandOf none).party = some crew1 := by decide +kernel
/-- No injection where the die is not ACTIVE, or twice in a cycle. -/
theorem witness_NoInjection : let s := w1.modDie 0 fun d => { d with injAt := w1.cycle + 1 }
    (s.die 0).injAt = s.cycle + 1 := by decide +kernel

/-- Points outside the limits, and inside them; CAPCTL under FORCE and not; a snapshot is due. -/
def badPoints : List PointEv := [⟨0, 500, 500⟩, ⟨0, 951, 500⟩, ⟨0, 700, 399⟩, ⟨0, 950, 1051⟩, ⟨0, 700, 750⟩]
def goodPoints : List PointEv := [⟨0, 700, 650⟩, ⟨0, 950, 1050⟩, ⟨0, 550, 400⟩]
theorem witness_Points : (∀ e ∈ badPoints, e.quad < 64 ∧ (e.mV < 550 ∨ 950 < e.mV ∨ e.freq < 400 ∨ 1050 < e.freq
      ∨ freqs.getD (fastest volts e.mV) 0 < e.freq))
    ∧ (∀ e ∈ goodPoints, e.quad < 64 ∧ 550 ≤ e.mV ∧ e.mV ≤ 950 ∧ 400 ≤ e.freq
      ∧ e.freq ≤ freqs.getD (fastest volts e.mV) 0)
    ∧ (w1.quad 0).op ≤ fastest freqs 650 ∧ ((later w1).quad 0).snapAt + 10000 ≤ (later w1).tick := by decide +kernel

/-- Operands of a pass: 128 rows of K elements, without specials. -/
def rowsOf (n x : Nat) : List (List Nat) := List.replicate 128 (List.replicate n x)
theorem witness_PassSums : Sorted ([] : Tab Word) ∧ (rowsOf (matK 7) 5).length = 128
    ∧ (∀ r ∈ rowsOf (matK 7) 5, r.length = matK 7) ∧ (∀ r ∈ rowsOf (matK 3) 0x38, r.length = matK 3)
    ∧ ∀ q ∈ [1, 4, 8], special (mElem 3 q (((rowsOf (matK 3) 0x38).getD 0 []).getD 0 0)).w (mElem 3 64 0).w = .none := by
  refine ⟨List.Pairwise.nil, by decide +kernel, fun r hr => ?_, fun r hr => ?_, by decide +kernel⟩
  · rw [List.eq_of_mem_replicate hr]; simp
  · rw [List.eq_of_mem_replicate hr]; simp

/-- The table after an instruction of the crew; the cycle in which its request has been granted and is over. -/
def matW (i : Instr) : State := ran i w1
def grantedW (i : Instr) : State := later (after (.matrixGrant 0) (matW i))
def passI : Instr := .mma h0 ⟨3, 3, false, 5, 0x120, false, 3, false, 5, 0x104, 6, 0x104⟩
def sparseI : Instr := .mmas h0 ⟨3, 3, 5, 0x120, false, 3, 5, 0x104, 0x104, 9, 8, 10⟩
def zeroI : Instr := .mzero h0 ⟨1, 0, false, 5, 0x120, 0, 0⟩
def drainI : Instr := .mdrn h0 ⟨1, 0, false, 5, 0x120, 4, 0x104⟩

theorem witness_TileLoad : ∃ r, (matW passI).loadable 0 = some r
    ∧ r.op = .mma 3 3 false false 0 4 := by
  obtain ⟨r, h, hp⟩ := anyB (o := (matW passI).loadable 0)
    (p := fun r => decide (r.op = .mma 3 3 false false 0 4)) (by decide +kernel)
  exact ⟨r, h, of_decide_eq_true hp⟩

/-- The first row pointer is past the second. -/
def badRows : State := (matW sparseI).modCore 0 fun c =>
  { c with cells := Memory.writeN c.cells ((entry (desc 0 6 [129])).desc.unitAddr 0) [5] }
theorem witness_Gather : ∀ s ∈ [matW sparseI, badRows], ∃ r, s.gatherable 0 = some r
    ∧ r.op = .mmas 3 3 0 4 0 0 ∧ quadOf r.core = 0 ∧ ((s.core r.core).ticket r.ticket).st.ended = false := by
  have hb : [matW sparseI, badRows].all (fun s => (s.gatherable 0).any fun r =>
      decide (r.op = .mmas 3 3 0 4 0 0) && decide (quadOf r.core = 0)
      && !((s.core r.core).ticket r.ticket).st.ended) = true := by decide +kernel
  intro s hs
  obtain ⟨r, h, hp⟩ := anyB (List.all_eq_true.mp hb s hs)
  simp only [Bool.and_eq_true, decide_eq_true_eq, Bool.not_eq_true'] at hp
  exact ⟨r, h, hp.1.1, hp.1.2, hp.2⟩
theorem witness_GatherEnds : ([matW sparseI, badRows].map fun s => ((s.gatherable 0).bind fun r =>
    gatherTile (matK 3) 0 0 (s.vecAt r (r.opEnd 3)) (s.vecAt r (r.opEnd 2)) (s.vecAt r (r.opEnd 1))).isSome)
    = [true, false] := by decide +kernel

theorem witness_Grant : ∃ r, (matW zeroI).nextGrant 0 = some r ∧ r.kbOf = none := by
  obtain ⟨r, h, hp⟩ := anyB (o := (matW zeroI).nextGrant 0) (p := fun r => decide (r.kbOf = none)) (by decide +kernel)
  exact ⟨r, h, of_decide_eq_true hp⟩

theorem witness_Finished : (∃ r, (grantedW zeroI).finished 0 false = some r ∧ r.op.writes = some (1, false)
      ∧ (((grantedW zeroI).quad 0).bankAt? r.ctx).isSome = true
      ∧ (((grantedW zeroI).core r.core).ticket r.ticket).st.ended = false)
    ∧ ∃ r, (grantedW drainI).finished 0 true = some r ∧ (grantedW drainI).reachable r.core r.ctx (r.opEnd 0).desc = true
      ∧ r.seqNo = none ∧ r.image = 0 ∧ (((grantedW drainI).core r.core).ticket r.ticket).st.ended = false := by
  obtain ⟨r, h, hp⟩ := anyB (o := (grantedW zeroI).finished 0 false) (p := fun r => decide (r.op.writes = some (1, false))
    && (((grantedW zeroI).quad 0).bankAt? r.ctx).isSome
    && !(((grantedW zeroI).core r.core).ticket r.ticket).st.ended) (by decide +kernel)
  obtain ⟨x, hx, hq⟩ := anyB (o := (grantedW drainI).finished 0 true) (p := fun r =>
    (grantedW drainI).reachable r.core r.ctx (r.opEnd 0).desc && decide (r.seqNo = none) && decide (r.image = 0)
    && !(((grantedW drainI).core r.core).ticket r.ticket).st.ended) (by decide +kernel)
  simp only [Bool.and_eq_true, decide_eq_true_eq, Bool.not_eq_true'] at hp hq
  exact ⟨⟨r, h, hp.1.1, hp.1.2, hp.2⟩, x, hx, hq.1.1.1, hq.1.1.2, hq.1.2, hq.2⟩

/-- Banks in a use, and a request of another context, or none. -/
def wBanks (a b : BankUse) (ctx : Option Nat) : State :=
  let s := matW zeroI
  { s with quads := [(0, { s.quad 0 with
    banks := [{ TileBank.reset with use := a, granted := true }, { TileBank.reset with use := b, granted := true }]
    table := match ctx with
      | some c => (s.quad 0).table.map fun r => { r with ctx := c }
      | none => [] })] }
theorem witness_Spill : ((wBanks (.bound 1) (.bound 2) (some 0)).quad 0).spilled 0 = none
    ∧ ((wBanks (.bound 1) (.bound 2) (some 0)).quad 0).mustSpill 0 = true
    ∧ (∀ c ∈ [none, some 1], (((wBanks (.spilling 0) (.bound 2) c).quad 0).spilled 0).map (·.1) = some 0
      ∧ ((wBanks (.spilling 0) (.bound 2) c).quad 0).waiter = c
      ∧ (tget? (wBanks (.spilling 0) (.bound 2) c).contexts 0).isSome = true)
    ∧ (((wBanks (.filling 0) (.bound 2) none).quad 0).banks[0]?).map (·.use) = some (.filling 0) := by decide +kernel
theorem witness_EngineReset : (((matW zeroI).quad 0).table.map (·.serial)).Nodup
    ∧ ∀ r ∈ ((matW zeroI).quad 0).table, quadOf r.core = 0 := by decide +kernel

/-! ## Events of copies, publishes, atomics and barriers -/

/-- The request that an instruction queued. -/
def queuedReq (i : Instr) : Option Req := ((ran i w1).core 0).reqs.head?
def reqNo (i : Instr) : Nat := ((queuedReq i).map (·.serial)).getD 0
/-- Its copy has started; after events. -/
def startedW (i : Instr) : State := after (.copyStart ⟨0, reqNo i⟩) (ran i w1)
/-- Its source is a window on an entry that does not exist. -/
def lostW (i : Instr) : State := (ran i w1).modCore 0 fun c =>
  { c with reqs := c.reqs.map fun r => { r with src := { r.src with desc := { r.src.desc with space := 1 } } } }

/-- A property of request n of core 0. -/
def reqB (s : State) (n : Nat) (p : Req → Bool) : Bool := (s.req? 0 n).any p
theorem reqB_sound {s : State} {n : Nat} {p : Req → Bool} (h : reqB s n p = true) : ∃ r, s.req? 0 n = some r ∧ p r = true :=
  anyB h

theorem witness_CopyStarts : ∀ x ∈ [(ran acpyI w1, acpyI, true, true), (ran bcpyI w1, bcpyI, false, true),
      (lostW bcpyI, bcpyI, false, false)],
    ∃ r, x.1.req? 0 (reqNo x.2.1) = some r ∧ x.1.mayMove r = true ∧ r.startable = true ∧ (x.1.core 0).holdCopy = false
      ∧ r.isThread = x.2.2.1 ∧ x.1.endsOpen 0 r = x.2.2.2 ∧ r.held = []
      ∧ ∀ i, r.ticket = some i → ((x.1.core 0).ticket i).st.ended = false := by
  have hb : [(ran acpyI w1, acpyI, true, true), (ran bcpyI w1, bcpyI, false, true), (lostW bcpyI, bcpyI, false, false)].all
      (fun x => reqB x.1 (reqNo x.2.1) fun r => x.1.mayMove r && r.startable && !(x.1.core 0).holdCopy
        && decide (r.isThread = x.2.2.1) && decide (x.1.endsOpen 0 r = x.2.2.2) && r.held.isEmpty
        && r.ticket.all fun i => !((x.1.core 0).ticket i).st.ended) = true := by decide +kernel
  intro x hx
  obtain ⟨r, h, hp⟩ := reqB_sound (List.all_eq_true.mp hb x hx)
  simp only [Bool.and_eq_true, decide_eq_true_eq, Bool.not_eq_true'] at hp
  obtain ⟨⟨⟨⟨⟨⟨h1, h2⟩, h3⟩, h4⟩, h5⟩, h6⟩, h7⟩ := hp
  refine ⟨r, h, h1, h2, h3, h4, h5, List.isEmpty_iff.mp h6, fun i hi => ?_⟩
  rw [hi] at h7
  simpa using h7

theorem witness_CopyLands : ∃ r, (startedW acpyI).req? 0 (reqNo acpyI) = some r ∧ r.kind = .thread 2 32 0
    ∧ r.started = true ∧ (startedW acpyI).mayMove r = true ∧ r.image = 0
    ∧ (startedW acpyI).reachable 0 r.ctx r.dst.desc = true ∧ r.ticket = none := by
  obtain ⟨r, h, hp⟩ := reqB_sound (s := startedW acpyI) (n := reqNo acpyI) (p := fun r => decide (r.kind = .thread 2 32 0)
    && r.started && (startedW acpyI).mayMove r && decide (r.image = 0) && (startedW acpyI).reachable 0 r.ctx r.dst.desc
    && decide (r.ticket = none)) (by decide +kernel)
  simp only [Bool.and_eq_true, decide_eq_true_eq] at hp
  exact ⟨r, h, hp.1.1.1.1.1, hp.1.1.1.1.2, hp.1.1.1.2, hp.1.1.2, hp.1.2, hp.2⟩

/-- Chunks: one of a migration that is not paid and one that is, and the unit of a bulk copy before it is read and
after. -/
def readW : State := after (.copyChunk ⟨0, reqNo bcpyI⟩ 0) (startedW bcpyI)
theorem witness_Chunks : ∀ x ∈ [(startedW migrI, migrI, 128, false, false), (startedW migrI, migrI, 0, true, false),
      (startedW bcpyI, bcpyI, 0, true, false), (readW, bcpyI, 0, true, true)],
    ∃ r, x.1.req? 0 (reqNo x.2.1) = some r ∧ r.bulkMoves = true ∧ x.2.2.1 < r.units ∧ x.2.2.1 ∉ r.chunks
      ∧ x.1.mayMove r = true ∧ r.image = 0 ∧ x.1.endsOpen 0 r = true ∧ r.isPaid x.2.2.1 = x.2.2.2.1
      ∧ (tget? r.held x.2.2.1).isSome = x.2.2.2.2 ∧ (x.1.core 0).demands = [] ∧ (x.1.nextChunk 0 r).isSome = true := by
  have hb : [(startedW migrI, migrI, 128, false, false), (startedW migrI, migrI, 0, true, false),
      (startedW bcpyI, bcpyI, 0, true, false), (readW, bcpyI, 0, true, true)].all (fun x =>
      reqB x.1 (reqNo x.2.1) fun r => r.bulkMoves && decide (x.2.2.1 < r.units) && decide (x.2.2.1 ∉ r.chunks)
      && x.1.mayMove r && decide (r.image = 0) && x.1.endsOpen 0 r && decide (r.isPaid x.2.2.1 = x.2.2.2.1)
      && decide ((tget? r.held x.2.2.1).isSome = x.2.2.2.2) && decide ((x.1.core 0).demands = [])
      && (x.1.nextChunk 0 r).isSome) = true := by decide +kernel
  intro x hx
  obtain ⟨r, h, hp⟩ := reqB_sound (List.all_eq_true.mp hb x hx)
  simp only [Bool.and_eq_true, decide_eq_true_eq] at hp
  obtain ⟨⟨⟨⟨⟨⟨⟨⟨⟨h1, h2⟩, h3⟩, h4⟩, h5⟩, h6⟩, h7⟩, h8⟩, h9⟩, h10⟩ := hp
  exact ⟨r, h, h1, h2, h3, h4, h5, h6, h7, h8, h9, h10⟩

/-- Every unit has landed. -/
def landedW (i : Instr) (n : Nat) : State := (startedW i).modCore 0 fun c =>
  { c with reqs := c.reqs.map fun r => { r with chunks := List.range n } }
theorem witness_BulkEnds : ∀ x ∈ [(bcpyI, 2), (migrI, 2048)], let s := landedW x.1 x.2
    ∃ r, s.req? 0 (reqNo x.1) = some r ∧ r.bulkMoves = true ∧ r.started = true ∧ r.units ≤ r.chunks.length
      ∧ (∀ i, r.ticket = some i → ((s.core 0).ticket i).st.ended = false)
      ∧ (r.kind = .bulk true ∨ r.kind = .migr 7 0 3 0) ∧ (tget? s.contexts r.ctx).isSome = true
      ∧ alloc7.handle = 7 ∧ (s.context r.ctx).allocs.map (·.handle) = [7] := by
  have hb : [(bcpyI, 2), (migrI, 2048)].all (fun x => let s := landedW x.1 x.2
      reqB s (reqNo x.1) fun r => r.bulkMoves && r.started && decide (r.units ≤ r.chunks.length)
      && r.ticket.all (fun i => !((s.core 0).ticket i).st.ended)
      && decide (r.kind = .bulk true ∨ r.kind = .migr 7 0 3 0) && (tget? s.contexts r.ctx).isSome
      && decide ((s.context r.ctx).allocs.map (·.handle) = [7])) = true := by decide +kernel
  intro x hx
  obtain ⟨r, h, hp⟩ := reqB_sound (List.all_eq_true.mp hb x hx)
  simp only [Bool.and_eq_true, decide_eq_true_eq] at hp
  obtain ⟨⟨⟨⟨⟨⟨h1, h2⟩, h3⟩, h4⟩, h5⟩, h6⟩, h7⟩ := hp
  refine ⟨r, h, h1, h2, h3, fun i hi => ?_, h5, h6, rfl, h7⟩
  rw [hi] at h4
  simpa using h4

/-- A deferred request publishes: nothing has landed, one of its units, or it images. -/
def pubW (i : Instr) (chunks : List Nat) (image : Nat) : State := (ran i w1).modCore 0 fun c =>
  { c with reqs := c.reqs.map fun r => { r with publishing := some (blockKey 0), chunks := chunks, image := image } }
theorem witness_Publishes : ∀ x ∈ [(astoI, [], 0), (bputI, [], 0), (bputI, [0], 0), (bputI, [0, 1], 1)],
    let s := pubW x.1 x.2.1 x.2.2
    ∃ r, s.turn 0 = some r ∧ (s.core 0).holdCopy = false ∧ s.mayMove r = true ∧ s.req? 0 r.serial = some r
      ∧ r.image = x.2.2 ∧ (r.image = 0 → r.isThread = true ∨ r.isPaid r.chunks.length = true)
      ∧ (tget? s.launches r.launch).isSome = true
      ∧ ∀ i, r.ticket = some i → ((s.core 0).ticket i).st.ended = false := by
  have hb : [(astoI, [], 0), (bputI, [], 0), (bputI, [0], 0), (bputI, [0, 1], 1)].all (fun x =>
      let s := pubW x.1 x.2.1 x.2.2
      (s.turn 0).any fun r => !(s.core 0).holdCopy && s.mayMove r && decide (s.req? 0 r.serial = some r)
      && decide (r.image = x.2.2) && (decide (r.image ≠ 0) || r.isThread || r.isPaid r.chunks.length)
      && (tget? s.launches r.launch).isSome && r.ticket.all fun i => !((s.core 0).ticket i).st.ended) = true := by
    decide +kernel
  intro x hx
  obtain ⟨r, h, hp⟩ := anyB (List.all_eq_true.mp hb x hx)
  simp only [Bool.and_eq_true, decide_eq_true_eq, Bool.not_eq_true', Bool.or_eq_true] at hp
  obtain ⟨⟨⟨⟨⟨⟨h1, h2⟩, h3⟩, h4⟩, h5⟩, h6⟩, h7⟩ := hp
  refine ⟨r, h, h1, h2, h3, h4, fun h0 => ?_, h6, fun i hi => ?_⟩
  · rcases h5 with (h | h) | h
    · exact absurd h0 h
    · exact .inl h
    · exact .inr h
  · rw [hi] at h7
    simpa using h7

theorem witness_Atomic : ∀ x ∈ atomForms, let s := ran x.1 w1
    ∃ r, (s.core 0).reqs.head? = some r ∧ s.req? 0 r.serial = some r ∧ s.atomReady 0 r = true
      ∧ (s.context r.ctx).replaying = none ∧ s.reachable 0 r.ctx r.dst.desc = true
      ∧ ∃ d op ty rel ls bad, r.kind = .atom x.2.1 d op ty rel ls bad := by
  have hb : atomForms.all (fun x => let s := ran x.1 w1
      (s.core 0).reqs.head?.any fun r => decide (s.req? 0 r.serial = some r) && s.atomReady 0 r
      && (s.context r.ctx).replaying.isNone && s.reachable 0 r.ctx r.dst.desc && (match r.kind with
        | .atom ret _ _ _ _ _ _ => decide (ret = x.2.1)
        | _ => false)) = true := by decide +kernel
  intro x hx
  obtain ⟨r, h, hp⟩ := anyB (List.all_eq_true.mp hb x hx)
  simp only [Bool.and_eq_true, decide_eq_true_eq, Option.isNone_iff_eq_none] at hp
  obtain ⟨⟨⟨⟨h1, h2⟩, h3⟩, h4⟩, h5⟩ := hp
  refine ⟨r, h, h1, h2, h3, h4, ?_⟩
  split at h5
  · next ret d op ty rel ls bad hk => exact ⟨d, op, ty, rel, ls, bad, by rw [hk, of_decide_eq_true h5]⟩
  · cases h5

/-- Both threads have arrived; the generation publishes, or it does not. -/
def arrivedW (ph : Bool) : State :=
  let i : Instr := if ph then .phase h0 ⟨0, 1, false⟩ else .bar h0 ⟨0, 1, false⟩
  after i (issue i w2)
def key0 : Nat := barKey crew1 false 0
theorem witness_Generations : ∀ ph ∈ [false, true], ∃ b, (arrivedW ph).barOf key0 = some b
    ∧ (arrivedW ph).genReady key0 b = true ∧ (b.opened + 1 ∈ b.pub ↔ ph = true) ∧ b.publishing = false := by
  have hb : [false, true].all (fun ph => ((arrivedW ph).barOf key0).any fun b => (arrivedW ph).genReady key0 b
      && decide (b.opened + 1 ∈ b.pub ↔ ph = true) && decide (b.publishing = false)) = true := by decide +kernel
  intro ph hp
  obtain ⟨b, h, hq⟩ := anyB (List.all_eq_true.mp hb ph hp)
  simp only [Bool.and_eq_true, decide_eq_true_eq] at hq
  exact ⟨b, h, hq.1.1, hq.1.2, hq.2⟩

/-! ## Events of pages, resets, capacity and software -/

/-- Page 0 of the allocation has no translation. -/
def noPage (s : State) : State :=
  s.modContext 0 fun x => { x with allocs := x.allocs.map fun a => { a with unmapped := [0] } }
def pageW : State := noPage (ran acpyI w1)
def page0 : PageRef := ⟨0, 7, 0⟩
/-- 14 is a window of F32, 128 x 128. -/
def farDrainI : Instr := .mdrn h0 ⟨1, 0, false, 5, 0x120, 14, 0x104⟩
def drainW : State :=
  let s := w1.modCore 0 fun c => { c with layout := tset c.layout 14 (window 0 [128, 128] [512, 0, 0]) }
  noPage (later (after (.matrixGrant 0) (ran farDrainI s)))
def drainNo : Nat := (((drainW.quad 0).table.head?).map (·.serial)).getD 0

theorem witness_PageFault : (∃ r, pageW.req? 0 (reqNo acpyI) = some r ∧ (pageW.faultPage r).map (·.2) = some 0)
    ∧ ∃ r, drainW.req? 0 drainNo = none ∧ drainW.mat? 0 drainNo = some r ∧ drainW.drainPage (quadOf 0) r = some 0 := by
  obtain ⟨r, h, hp⟩ := reqB_sound (s := pageW) (n := reqNo acpyI)
    (p := fun r => decide ((pageW.faultPage r).map (·.2) = some 0)) (by decide +kernel)
  obtain ⟨x, hx, hq⟩ := anyB (o := drainW.mat? 0 drainNo)
    (p := fun r => decide (drainW.drainPage (quadOf 0) r = some 0)) (by decide +kernel)
  exact ⟨⟨r, h, of_decide_eq_true hp⟩, x, by decide +kernel, hx, of_decide_eq_true hq⟩
theorem witness_PageMoves : pageW.isUnmapped page0 = true
    ∧ (after (.pageFault ⟨0, reqNo acpyI⟩) pageW).parkedOn page0 ≠ []
    ∧ (after (.pageFault ⟨0, drainNo⟩) drainW).drainsOn page0 ≠ [] := by decide +kernel

/-- Bank 0 alone is LIT, and Kale has a TARGET of 0 to compare; then its doom, and long after. -/
def kaleW : State := w1.modCore 0 fun c =>
  { c with cap := { c.cap with target := 0, pending := true }
           banks := (List.range 63).map fun b => (b + 1, .dark) }
def doomedW : State := later (after (.kaleDoom 0) kaleW)
theorem witness_Kale : kaleW.imposedDoom 0 = none ∧ kaleW.replayedOn 0 = false ∧ (kaleW.core 0).cap.pending = true
    ∧ Sorted (kaleW.core 0).layout ∧ (kaleW.core 0).chosen ≠ []
    ∧ ((kaleW.core 0).entry 0 4).desc.st = .live ∧ inBanks ((kaleW.core 0).entry 0 4) (kaleW.core 0).chosen :=
  ⟨by decide +kernel, by decide +kernel, by decide +kernel, sortedB (by decide +kernel), by decide +kernel,
    by decide +kernel, 0, by decide +kernel, by decide +kernel⟩
theorem witness_Dark : (∃ d, (doomedW.core 0).dooms.find? (doomedW.isDark 0) = some d ∧ d.banks ≠ [])
    ∧ Sorted (doomedW.core 0).layout ∧ doomedW.MemWf ∧ ((doomedW.core 0).entry 0 4).desc.st = .losing := by
  obtain ⟨d, h, hp⟩ := anyB (o := (doomedW.core 0).dooms.find? (doomedW.isDark 0))
    (p := fun d => decide (d.banks ≠ [])) (by decide +kernel)
  exact ⟨⟨d, h, of_decide_eq_true hp⟩, sortedB (by decide +kernel), memWfB (by decide +kernel), by decide +kernel⟩
/-- An engine reads on 2,000 of TICK after the doom; bank 5 wakes. -/
def readsOn (s : State) (n : Nat) : State :=
  (later s).modCore 0 fun c => { c with dooms := [⟨0, 0, [0], [], 0, [n]⟩], banks := tset c.banks 5 (.waking 0) }
theorem witness_LateReaders : (∃ r, (readsOn (ran acpyI w1) (reqNo acpyI)).req? 0 (reqNo acpyI) = some r
      ∧ (readsOn (ran acpyI w1) (reqNo acpyI)).lateReader (reqNo acpyI) = true ∧ r.ticket = none)
    ∧ (∃ r, (readsOn drainW drainNo).req? 0 drainNo = none ∧ (readsOn drainW drainNo).mat? 0 drainNo = some r
      ∧ (readsOn drainW drainNo).lateReader drainNo = true
      ∧ (((readsOn drainW drainNo).core 0).ticket r.ticket).st.ended = false)
    ∧ ((readsOn drainW drainNo).core 0).bank 5 = .waking 0 ∧ 0 ≤ (readsOn drainW drainNo).coreTick 0 := by
  obtain ⟨r, h, hp⟩ := reqB_sound (s := readsOn (ran acpyI w1) (reqNo acpyI)) (n := reqNo acpyI)
    (p := fun r => (readsOn (ran acpyI w1) (reqNo acpyI)).lateReader (reqNo acpyI) && decide (r.ticket = none))
    (by decide +kernel)
  obtain ⟨x, hx, hq⟩ := anyB (o := (readsOn drainW drainNo).mat? 0 drainNo)
    (p := fun r => (readsOn drainW drainNo).lateReader drainNo
      && !(((readsOn drainW drainNo).core 0).ticket r.ticket).st.ended) (by decide +kernel)
  simp only [Bool.and_eq_true, decide_eq_true_eq, Bool.not_eq_true'] at hp hq
  exact ⟨⟨r, h, hp.1, hp.2⟩, ⟨x, by decide +kernel, hx, hq.1, hq.2⟩, by decide +kernel, Nat.zero_le _⟩
/-- CAPCTL: values that fit, and one that does not. -/
theorem witness_Capctl : ((∀ v, (some 64 : Option Nat) = some v → v ≤ 64) ∧ ∀ v, (none : Option Nat) = some v → v ≤ 64)
    ∧ ¬ ((∀ v, (some 65 : Option Nat) = some v → v ≤ 64) ∧ ∀ v, (none : Option Nat) = some v → v ≤ 64) :=
  ⟨⟨fun v h => by cases h; decide, fun v h => (nomatch h)⟩, fun h => absurd (h.1 65 rfl) (by decide)⟩

/-- A write of LTDAT is due: of RANK, and of a FORMAT that is not the entry's. -/
def ltDesc : Desc := { desc 0 5 [16] with handler := 0x4000 }
def ltdatW (word : Nat) (v : Word) : State :=
  w1.modCore 0 fun c => { c with layout := tset c.layout 1 (entry ltDesc), late := [(0, .ltdat 1 word v 0 0x4000)] }
def word0 (d : Desc) : Word := BitVec.ofNat 32 (d.toNat % 2 ^ 32)
def ltWords : List (Nat × Word) := [(0, word0 ltDesc), (0, word0 { ltDesc with fmt := 0 })]
theorem witness_Ltdat : ∀ x ∈ ltWords, let s := ltdatW x.1 x.2
    (s.core 0).late.find? (fun y => y.2.isLtdat && decide (y.1 ≤ s.coreCycle 0)) = some (0, .ltdat 1 x.1 x.2 0 0x4000)
      ∧ ((s.core 0).entry 0 1).desc.st = .live ∧ s.crew? 0 0 = some crew1 := by decide +kernel
theorem witness_LtdatBoth : (ltWords.map fun x => ((ltDesc.patch 0x4000 0x1000 x.1 x.2).isSome)) = [true, false] := by
  decide +kernel

theorem witness_SoftwareContext : (tget? w1.contexts 0).isSome = true ∧ (∃ v, (ccbRange .wdlog).1 ≤ v ∧ v < (ccbRange .wdlog).2)
    ∧ ¬ ((ccbRange .wdlog).1 ≤ 33 ∧ 33 < (ccbRange .wdlog).2) :=
  ⟨by decide +kernel, ⟨26, by decide +kernel, by decide +kernel⟩, by decide +kernel⟩

/-- Records in a coalescer: one that is due; eight, and a ninth that waits. -/
def faultRec (n : Nat) : FaultRec := ⟨1, 0, 1, 1, false, BitVec.ofNat 32 (0x4000 + n), 0, 0, 0, 0, 0, 0, false⟩
def coalW (n : Nat) (waits : List FaultRec) (s : State) : State :=
  s.modCore 0 fun c => { c with openRecs := (List.range n).map faultRec, waiting := waits }
theorem witness_Coalescer : ∀ s ∈ [coalW 1 [] (later w1), coalW 8 [faultRec 9] w1],
    s.MemWf ∧ (tget? s.contexts (faultRec 0).ctx).isSome = true
      ∧ (s.core 0).openRecs.find? (fun r => !(s.context r.ctx).ccb.fqFull) = some (faultRec 0)
      ∧ ((faultRec 0).opened + 1000 ≤ s.tick ∨ (8 ≤ (s.core 0).openRecs.length ∧ (s.core 0).waiting ≠ [])) := by
  have hb : [coalW 1 [] (later w1), coalW 8 [faultRec 9] w1].all (fun s =>
      (Memory.wf s.globalMem && s.cores.all fun p => Memory.wf p.2.cells) && (tget? s.contexts (faultRec 0).ctx).isSome
      && decide ((s.core 0).openRecs.find? (fun r => !(s.context r.ctx).ccb.fqFull) = some (faultRec 0))
      && decide ((faultRec 0).opened + 1000 ≤ s.tick ∨ (8 ≤ (s.core 0).openRecs.length ∧ (s.core 0).waiting ≠ []))) = true := by
    decide +kernel
  intro s hs
  have := List.all_eq_true.mp hb s hs
  rw [Bool.and_eq_true, Bool.and_eq_true, Bool.and_eq_true] at this
  obtain ⟨⟨⟨h1, h2⟩, h3⟩, h4⟩ := this
  exact ⟨memWfB h1, h2, of_decide_eq_true h3, of_decide_eq_true h4⟩
theorem witness_CoalescerWaits : let s := coalW 8 [faultRec 9] w1
    (s.core 0).waiting = [faultRec 9] ∧ mergeInto (faultRec 9) ((s.core 0).openRecs.erase (faultRec 0)) = none
      ∧ (s.core 0).openRecs.length ≤ 8 := by decide +kernel

/-! ## Events of queues, saves, replay, the package and the debugger -/

/-- A queue of context 0 with a window. -/
def recOf (kind : Nat) (cmpl : BitVec 64) : LaunchRec := { standRecord with kind := kind, cmpl := cmpl }
def qrec (kind : Nat) (cmpl : BitVec 64) (skip : Bool) : QRec := ⟨recOf kind cmpl, .queued, skip, none, none⟩
def queueW (q : Queue) : State := w1.modContext 0 fun x => { x with queues := [(0, q)], ccb := { x.ccb with nq := 1 } }
def queue0 : Queue := { Queue.reset with base := 0x9000, slog := 2 }
def qref : QueueRef := ⟨0, 0⟩
def sleeping (s : State) : State := { s with device := { s.device with power := { s.device.power with state := .idle } } }
def updating (s : State) : State :=
  { s with device := { s.device with firmware := { s.device.firmware with quiesced := true } } }

theorem witness_TailWrites : (∀ q ∈ [queue0, { queue0 with devfed := true }, { queue0 with stop := true }],
      (queueW q).queueOpen qref = true ∧ (queueW q).device.power.state = .active
      ∧ (queueW q).device.firmware.quiesced = false ∧ ((queueW q).context 0).queue 0 = q)
    ∧ (sleeping (queueW queue0)).queueOpen qref = true ∧ (sleeping (queueW queue0)).device.power.state ≠ .active
    ∧ (updating (queueW queue0)).queueOpen qref = true ∧ (updating (queueW queue0)).device.firmware.quiesced = true
    ∧ 2 ^ queue0.slog < ((5 : BitVec 16).toNat + 2 ^ 16 - queue0.head) % 2 ^ 16
    ∧ ((4 : BitVec 16).toNat + 2 ^ 16 - queue0.head) % 2 ^ 16 ≤ 2 ^ queue0.slog := by decide +kernel

/-- The record that is released: of each kind, skipped, refused, and with a completion record. -/
def relW (q : QRec) : State := queueW { queue0 with window := [q] }
def badRec : QRec := { qrec 0 0 false with record := { standRecord with grid := [0, 1, 1] } }
theorem witness_Releases : ∀ q ∈ [qrec 0 0 false, qrec 0 0x8000 true, badRec, qrec 1 0 false, qrec 2 0 false, qrec 3 0 false],
    MayRelease (relW q) ⟨0, 0, 0⟩ q ∧ (relW q).MemWf := by
  have hb : [qrec 0 0 false, qrec 0 0x8000 true, badRec, qrec 1 0 false, qrec 2 0 false, qrec 3 0 false].all (fun q =>
      decide ((relW q).device.start.stage = .ready ∧ (relW q).device.power.state = .active)
      && !((relW q).context 0).killed && decide ((queueOf (relW q) ⟨0, 0, 0⟩).window = [q])
      && decide (q.st = .queued) && decide (q.dep = none)
      && (Memory.wf (relW q).globalMem && (relW q).cores.all fun p => Memory.wf p.2.cells)) = true := by decide +kernel
  intro q hq
  have := List.all_eq_true.mp hb q hq
  rw [Bool.and_eq_true] at this
  refine ⟨?_, memWfB this.2⟩
  have := this.1
  simp only [Bool.and_eq_true, decide_eq_true_eq, Bool.not_eq_true'] at this
  obtain ⟨⟨⟨⟨h1, h2⟩, h3⟩, h4⟩, h5⟩ := this
  exact ⟨h1, h2, by rw [h3]; rfl, h4, fun l x hl => by rw [h5] at hl; (nomatch hl), fun p hp => by simp at hp⟩
theorem witness_ReleaseEnds : ((relW badRec).refuses 0 badRec.record).isSome = true
    ∧ (relW (qrec 0 0 false)).refuses 0 (qrec 0 0 false).record = none
    ∧ (relW (qrec 0 0 false)).wideFree (qrec 0 0 false).record = true
    ∧ (relW (qrec 0 0 false)).context 0 = { (relW (qrec 0 0 false)).context 0 with killed := false } := by decide +kernel
/-- The words that COND and WAIT read: 0, and 1. -/
theorem witness_CondWait : (∀ v ∈ [(0 : Nat), 1],
    ((Memory.readWord ((relW (qrec 1 0 false)).putGlobal 0 0 (leBytes v 4)).globalMem (gaddr 0 0)).toNat = v))
    ∧ (qrec 3 0 false).record.pred.toNat % 2 ^ 32 = 0
    ∧ ({ qrec 3 0 false with record := { recOf 3 0 with pred := 1 } } : QRec).record.pred.toNat % 2 ^ 32 = 1 := by
  decide +kernel

/-- Crews that may be chosen; a block that has run its quantum while another waits. -/
def quantW : State := (later w1).modLaunch 0 fun l => { l with waiting := [1] }
theorem witness_Preemption : 0 < 256 ∧ (tget? w1.contexts 0).isSome = true ∧ Sorted (w1.core 0).slots
    ∧ Choosable w1 0 (0, crew1) :=
  ⟨by decide, by decide +kernel, sortedB (by decide +kernel), by decide +kernel, rfl, by decide +kernel⟩
theorem witness_Quantum : ∃ b l, tget? quantW.blocks 0 = some b ∧ RunItsQuantum quantW b l := by
  obtain ⟨b, hb, hp⟩ := anyB (o := tget? quantW.blocks 0) (p := fun b => decide (b.launch = 0) && !b.spawned
    && decide (b.saved = 0) && decide (b.crews = [⟨0, 0⟩])
    && decide (b.placedAt + ((quantW.context 0).ccb.quant + 1) * 500000 ≤ quantW.tick)) (by decide +kernel)
  obtain ⟨l, hl, hq⟩ := anyB (o := tget? quantW.launches 0) (p := fun l => decide (l.waiting = [1]) && decide (l.ctx = 0))
    (by decide +kernel)
  simp only [Bool.and_eq_true, decide_eq_true_eq, Bool.not_eq_true'] at hp hq
  obtain ⟨⟨⟨⟨h1, h2⟩, h3⟩, h4⟩, h5⟩ := hp
  have hk : quantW.crew? 0 0 = some crew1 := by decide +kernel
  refine ⟨b, l, hb, ⟨by rw [h1]; exact hl, ⟨h2, h3, by rw [h4]; simp⟩, by rw [hq.1]; simp, by rw [hq.2]; exact h5,
    fun r hr => ?_, ⟨0, 0⟩, by rw [h4]; simp, crew1, hk, fun h => by cases h⟩⟩
  rw [h4, List.mem_singleton] at hr
  exact ⟨crew1, by rw [hr]; exact hk, rfl⟩

/-- A crew that is to go; saved, it may come back. -/
def crewG : Crew := { crew1 with evict := some 0 }
def goingW : State := later (worldOf crewG)
def savedW : State := after (.crewSave ⟨0, 0⟩) goingW
theorem witness_Saves : goingW.crew? 0 0 = some crewG ∧ Sorted (goingW.core 0).slots
    ∧ (tget? goingW.contexts crewG.id.ctx).isSome = true ∧ (∃ at' < goingW.coreCycle 0, crewG.evict = some at')
    ∧ crewG.st ≠ .held ∧ goingW.bankBusy 0 0 crewG = false :=
  ⟨by decide +kernel, sortedB (by decide +kernel), by decide +kernel, ⟨0, by decide +kernel, rfl⟩, fun h => (nomatch h),
    by decide +kernel⟩
theorem witness_Restores : ∃ v, (savedW.context 0).saved[0]? = some v ∧ savedW.canRestore 0 v 0 = true ∧ v.mreqs = []
    ∧ v.crew.trap.pending = [] ∧ Lanes v.crew
    ∧ NoLoopEnd (savedW.context v.crew.id.ctx) (BitVec.allOnes 64) v.crew := by
  obtain ⟨v, h, hp⟩ := anyB (o := (savedW.context 0).saved[0]?) (p := fun v => savedW.canRestore 0 v 0
    && decide (v.mreqs = []) && decide (v.crew.trap.pending = []) && lanesB v.crew
    && decide (v.crew.loops.levels = [])) (by decide +kernel)
  simp only [Bool.and_eq_true, decide_eq_true_eq] at hp
  exact ⟨v, h, hp.1.1.1.1, hp.1.1.1.2, hp.1.1.2, lanesB_sound hp.1.2, noLoopEnd hp.2 _ _⟩

/-- Replay is on, and no checkpoint has been taken; one has. -/
def replayOn (s : State) : State := s.modContext 0 fun x => { x with ccb := { x.ccb with replay := true } }
def ckptW : State := after (.checkpoint 0) (replayOn w1)
theorem witness_Checkpoint : (tget? (replayOn w1).contexts 0).isSome = true ∧ (replayOn w1).ckptDue 0 = true
    ∧ Sorted ((replayOn w1).core 0).slots ∧ (((replayOn w1).quad 0).table.map (·.serial)).Nodup
    ∧ (replayOn w1).crew? 0 0 = some crew1 ∧ ((replayOn w1).context 0).saved = [] :=
  ⟨by decide +kernel, by decide +kernel, sortedB (by decide +kernel), by decide +kernel, by decide +kernel,
    by decide +kernel⟩
theorem witness_Replay : (∃ k, (ckptW.context 0).ckptFor 0 5 = some 0 ∧ (ckptW.context 0).ckpts[0]? = some k
      ∧ (ckptW.context 0).killed = false ∧ ∀ p ∈ ckptW.cores, p.2.takesCkpt k 0 p.1 = true) ∧ ckptW.MemWf
    ∧ (w1.context 0).ckptFor 0 5 = none := by
  obtain ⟨k, h, hp⟩ := anyB (o := (ckptW.context 0).ckpts[0]?) (p := fun k => !(ckptW.context 0).killed
    && ckptW.cores.all fun p => p.2.takesCkpt k 0 p.1) (by decide +kernel)
  simp only [Bool.and_eq_true, List.all_eq_true, Bool.not_eq_true'] at hp
  exact ⟨⟨k, by decide +kernel, h, hp.1, hp.2⟩, memWfB (by decide +kernel), by decide +kernel⟩

/-- A debugger is attached, a crew that has retired instructions has stopped, and `cap` waits. -/
def crewD : Crew := crewIn (.parked .debugger)
def debugW : State :=
  let k : Crew := { crewD with counts := { crewD.counts with retired := 9 } }
  let s := worldOf k
  let v : Session := { s.device.session with attached := some 0, stops := [⟨⟨0, 0⟩, none⟩], speaks := some (⟨0, 0⟩, k.id.age)
                                             caps := [⟨0, 3, 5, false⟩] }
  { s with device := { s.device with session := v } }
theorem witness_Debugger : debugW.device.session.attached = some 0
    ∧ (∃ k, Stopped debugW ⟨0, 0⟩ k ∧ Lanes k ∧ k.id.ctx = 0 ∧ k.counts.retired ≠ 0
      ∧ (∃ th, k.thread? 0 = some th ∧ th.st = .parked .debugger) ∧ (∃ t, k.thread? k.readLane = some t)
      ∧ debugW.device.session.speaks = some (⟨0, 0⟩, k.id.age))
    ∧ ∃ x ∈ debugW.device.session.caps, x.armed = false := by
  obtain ⟨k, h, hp⟩ := anyB (o := debugW.crew? 0 0) (p := fun k => lanesB k && decide (k.id.ctx = 0)
    && decide (k.counts.retired ≠ 0) && (k.thread? 0).any (fun (t : Thread) => decide (t.st = TState.parked .debugger))
    && (k.thread? k.readLane).isSome && decide (k.id.age = crewD.id.age)) (by decide +kernel)
  simp only [Bool.and_eq_true, decide_eq_true_eq] at hp
  obtain ⟨⟨⟨⟨⟨h1, h2⟩, h3⟩, h4⟩, h5⟩, h6⟩ := hp
  obtain ⟨t, ht, hs⟩ := anyB h4
  exact ⟨rfl, ⟨k, ⟨rfl, h⟩, lanesB_sound h1, h2, h3, ⟨t, ht, of_decide_eq_true hs⟩, Option.isSome_iff_exists.mp h5,
    by rw [h6]; rfl⟩, ⟨0, 3, 5, false⟩, by simp [debugW], rfl⟩
/-- What `print` finds: entries LIVE and LOST, a barrier. -/
theorem witness_Prints : ((w2.core 0).entry crew1.id.ctx 1).desc.st = .live ∧ (w2.bar? 0 0).isSome = true
    ∧ (((w2.modCore 0 fun c => { c with layout := [(1, { entry (desc 0 5 [16]) with desc := { desc 0 5 [16] with st := .lost } })] }).core
        0).entry 0 1).desc.st = .lost := by decide +kernel

/-- Firmware: an owner's key, an image in the standby complex, booted, exported; a record too old for it. -/
def firmW (f : Firmware → Firmware) (s : State) : State := { s with device := { s.device with firmware := f s.device.firmware } }
def standbyW (booted exported : Bool) (version : Nat) (s : State) : State :=
  firmW (fun f => { f with standby := some (1, version), booted := booted, exported := exported }) s
theorem witness_Firmware : (standbyW true true 1 savedW).device.firmware.standby = some (1, 1)
    ∧ (standbyW true true 1 savedW).device.firmware.exported = true ∧ (standbyW true true 1 savedW).device.firmware.booted = true
    ∧ (standbyW true true 1 savedW).device.firmware.quiesced = false
    ∧ ((standbyW true true 1 savedW).contexts.all fun p => p.2.saved.all fun v => decide (1 ≤ v.version + 1)) = true
    ∧ ((standbyW true true 9 savedW).contexts.any fun p => p.2.saved.any fun v => decide (v.version + 1 < 9)) = true
    ∧ (updating w1).device.firmware.heldTails = []
    ∧ (firmW (fun f => { f with ownerKeys := [1] }) w1).device.firmware.ownerKeys ≠ [] := by decide +kernel
theorem witness_EttilWrites : w1.MemWf ∧ (5 < 1024) ∧ 0 + ([1, 2] : List Byte).length ≤ 2 ^ 48 :=
  ⟨memWfB (by decide +kernel), by decide, by decide⟩
/-- A link that has been trained. -/
theorem witness_Links : (tget? (after (.linkTraining 3 true true) w1).device.links 3).map (·.trained) = some true := by
  decide +kernel

/-- Nothing is resident; asleep; the stages of the start. -/
def idleW : State := { State.reset with agenda := [] }
theorem idle_AllIdle : AllIdle idleW := by
  have h : (decide (idleW.device.start.stage = .ready ∧ idleW.device.power.state = .active) && idleW.contexts.isEmpty
    && idleW.cores.isEmpty && idleW.quads.isEmpty) = true := by decide +kernel
  simp only [Bool.and_eq_true, decide_eq_true_eq, List.isEmpty_iff] at h
  obtain ⟨⟨⟨h1, h2⟩, h3⟩, h4⟩ := h
  exact ⟨⟨h1.1, .inl h1.2⟩, fun p hp => (by rw [h2] at hp; cases hp), fun p hp => (by rw [h3] at hp; cases hp),
    fun p hp => (by rw [h4] at hp; cases hp)⟩
def asleep (p : Power) : State :=
  { idleW with device := { idleW.device with power := { idleW.device.power with state := p, kept := [(0, CapSt.reset)] } } }
def napW : State := asleep .nap
def dozeW : State := asleep .doze
def heldW : State :=
  { w1 with device := { w1.device with power := { w1.device.power with state := .idle, heldTails := [(qref, 4)] } } }
theorem witness_Power : napW.device.power.state = .nap ∧ napW.device.power.heldTails = []
    ∧ (tget? napW.device.power.kept 0).isSome = true
    ∧ dozeW.device.power.state = .doze ∧ dozeW.device.power.heldTails = []
    ∧ heldW.device.power.state = .idle ∧ heldW.device.power.heldTails = [(qref, 4)] := by decide +kernel
theorem witness_NapKept : Sorted napW.device.power.kept := sortedB (by decide +kernel)
theorem witness_Start : (after (.packageReset .safe true) w1).device.start.stage = .safe
    ∧ (after (.packageReset .bringup true) (after (.packageReset .safe true) w1)).device.start.stage = .bringup
    ∧ w1.device.start.stage = .ready ∧ w1.device.power.state = .active := by decide +kernel

/-! ## More hypotheses: clauses of the statements beyond their plain forms -/

/-- Two crews of a regrouped launch at one instruction: the lane 0 of one, and lane 1 of the other. -/
def crewRg (n : Nat) (t : Nat × Thread) : Crew :=
  { crew0 with id := { crew0.id with regroup := true, crewId := BitVec.ofNat 16 n, age := n }, threads := [t] }
def slotsRg : Tab Crew := [(0, crewRg 0 crew0.threads[0]), (1, crewRg 1 crew0.threads[1])]
def wRg : State := { w0 with cores := [(0, { w0.core 0 with slots := slotsRg })] }
def grpRg (i : Instr) : Group := { grp i with parts := [(0, 1), (1, 2)] }
def issueRg (i : Instr) : State := { wRg with cur := some (grpRg i) }

/-- `PartPasses` as a check. -/
def partB (s : State) (i : Instr) (r : Result) (g : Group) (p : Nat × Mask) (k : Crew) : Bool :=
  decide (s.crew? g.core p.1 = some k) && decide ((s.core g.core).slotOf? k.id.ctx k.id.crewId = some p.1)
    && decide (p.2 ≠ 0) && laneAll p.2 (fun l => (k.thread? l).any fun (t : Thread) => decide (t.st = TState.ready))
    && decide (k.buffered g.pc = some k) && (s.earlySource i r.h g p.1 p.2).isNone
theorem partB_sound {s : State} {i : Instr} {r : Result} {g : Group} {p : Nat × Mask} {k : Crew}
    (h : partB s i r g p k = true) (hr : RegroupResult i r k p.2) (hl : k.loops.levels = []) : PartPasses s i r g p k := by
  simp only [partB, Bool.and_eq_true, decide_eq_true_eq, Option.isNone_iff_eq_none] at h
  obtain ⟨⟨⟨⟨⟨h1, h2⟩, h3⟩, h4⟩, h5⟩, h6⟩ := h
  refine ⟨h1, h2, hr, h3, fun l hl => ?_, h5, h6, lands _ _ _ _ hl⟩
  have := laneAll_sound h4 l hl
  cases ht : k.thread? l with
  | none => rw [ht] at this; cases this
  | some t => exact ⟨t, rfl, of_decide_eq_true (by simpa [ht] using this)⟩

def regroupI : Instr := .iadd h0 o3
theorem witness_ControlFlow_regrouped : ∃ r, regroupI.hdr? = some r.h ∧ regroupI.wellFormed = true
    ∧ regroupI.regroups true = true ∧ (grpRg regroupI).clsA = true ∧ ((grpRg regroupI).parts.map (·.1)).Nodup
    ∧ (∀ p ∈ (grpRg regroupI).parts, ∃ k, PartPasses (issueRg regroupI) regroupI r (grpRg regroupI) p k)
    ∧ (issueRg regroupI).priceAt 0 (gatePrice regroupI) ≤ ((issueRg regroupI).core 0).tok.tkcap
    ∧ ((issueRg regroupI).dueAt regroupI (grpRg regroupI) = 0 ∨ ((issueRg regroupI).core 0).canPay
      ((issueRg regroupI).oldest (grpRg regroupI)) ((issueRg regroupI).dueAt regroupI (grpRg regroupI)) = true) := by
  refine ⟨(intResult regroupI).getD (.none h0), rfl, by decide +kernel, by decide +kernel, by decide +kernel,
    by decide +kernel, fun p hp => ?_, by decide +kernel, by decide +kernel⟩
  simp only [grpRg, List.mem_cons, List.not_mem_nil, or_false] at hp
  rcases hp with rfl | rfl
  · exact ⟨crewRg 0 crew0.threads[0], partB_sound (by decide +kernel) (.inl rfl) rfl⟩
  · exact ⟨crewRg 1 crew0.threads[1], partB_sound (by decide +kernel) (.inl rfl) rfl⟩

/-- Every kind of result has a form that is ready; no control write is outstanding. -/
theorem witness_ResultLatency : (∀ i ∈ integerForms ++ immForms ++ ctlForms ++ (moveForms ++ predForms ++ laneForms)
      ++ flowForms ++ (floatForms ++ packedForms) ++ treeForms ++ readForms, ∃ r, Gives (issue i w0) (grp i) crew0 i r
      ∧ i.wellFormed = true ∧ Ready (issue i w0) i r.h (grp i) crew0 ∧ r.Lands (issue i w0) (grp i) crew0)
    ∧ ∀ s, CtlFresh s crew0 := by
  refine ⟨fun i hi => ?_, fun s => ⟨fun p hp => (nomatch hp), fun l t ht p hp => ?_⟩⟩
  · rw [List.mem_append, List.mem_append, List.mem_append, List.mem_append, List.mem_append, List.mem_append] at hi
    rcases hi with (((((h | h) | h) | h) | h) | h) | h
    · obtain ⟨r, h1, h2, h3, h4⟩ := witness_IntegerAndMoves i h
      exact ⟨r, .inl h1, h2, h3, h4⟩
    · obtain ⟨r, h1, h2, h3, h4⟩ := witness_ControlAndSideEffects i h
      exact ⟨r, .inr (.inr (.inr (.inr (.inr (.inl h1))))), h2, h3, h4⟩
    · obtain ⟨r, h1, h2, h3, h4⟩ := witness_IntegerAndMoves_lanes i h
      refine ⟨r, ?_, h2, h3, h4⟩
      simp only [Option.orElse_eq_orElse, Option.orElse_eq_or, Option.or_eq_some_iff] at h1
      rcases h1 with h1 | ⟨-, h1 | ⟨-, h1⟩⟩
      · exact .inr (.inl h1)
      · exact .inr (.inr (.inl h1))
      · exact .inr (.inr (.inr (.inl h1)))
    · obtain ⟨r, h1, h2, h3, h4⟩ := witness_ControlFlow i h
      exact ⟨r, .inr (.inr (.inr (.inr (.inl h1)))), h2, h3, h4⟩
    · obtain ⟨h', d, f, h1, h2, h3, h4, h5⟩ := witness_FloatGroup i h
      exact ⟨_, .inr (.inr (.inr (.inr (.inr (.inr (.inl ⟨h', d, f, h1, rfl, h4⟩)))))), h2, h3, h5⟩
    · obtain ⟨h', d, f, h1, h2, h3, h4, h5⟩ := witness_ReduceAndScan i h
      exact ⟨_, .inr (.inr (.inr (.inr (.inr (.inr (.inr (.inl ⟨h', d, f, h1, rfl, h5⟩))))))), h2, h3, h4⟩
    · obtain ⟨r, h1, h2, h3, h4⟩ := witness_MachineReads.1 i h
      exact ⟨r, .inr (.inr (.inr (.inr (.inr (.inr (.inr (.inr ⟨h1, (witness_MachineReads.2 i).1,
        fun _ => (witness_MachineReads.2 i).2⟩))))))), h2, h3, h4⟩
  · have h : crew0.threads.all (fun p => p.2.ctlPend.isEmpty) = true := by decide +kernel
    rw [List.isEmpty_iff.mp (List.all_eq_true.mp h (l, t) (tget?_mem _ _ _ ht))] at hp
    cases hp

/-- A crew whose FPCTL checks distances, with results outstanding in a v register, or of its guard; a handler of every
class. -/
def crewSt (keys : List Nat) : Crew :=
  let k := handled crew0 0
  { k with ctl := { k.ctl with fpctl := 0x20000 }
           threads := k.threads.map fun p => (p.1, { p.2 with pend := keys.map fun key => ⟨key, 7, 2, none⟩ }) }
def earlyOn (k : Crew) (m : Mask) (key : Nat) : Bool :=
  (List.range 64).any fun l => m.getLsbD l && (k.thread? l).any fun t => (k.ctlOf t).fpctl.getLsbD 17 && t.early key
theorem earlyOn_iff {k : Crew} {m : Mask} {key : Nat} : earlyOn k m key = true ↔ EarlyIn k m key := by
  simp only [earlyOn, List.any_eq_true, Bool.and_eq_true, EarlyIn]
  constructor
  · rintro ⟨l, -, hl, h⟩
    obtain ⟨t, ht, h⟩ := anyB h
    simp only [Bool.and_eq_true] at h
    exact ⟨l, t, hl, ht, h.1, h.2⟩
  · rintro ⟨l, t, hl, ht, h1, h2⟩
    exact ⟨l, List.mem_range.mpr (by
      by_contra hc
      rw [BitVec.getLsbD_of_ge m l (by omega)] at hl
      cases hl), hl, by simp [ht, h1, h2]⟩
/-- The guard alone is early; the first operand; the second alone. -/
def earlyForms : List (Instr × Hdr × List Nat × Nat) :=
  [(.iadd hp1 o3, hp1, [513, 1, 2], 513), (.iadd h0 o3, h0, [1, 2], 1), (.iadd hp1 o3, hp1, [2], 2)]
theorem witness_ResultLatency_stalls : ∀ x ∈ earlyForms, let k := crewSt x.2.2.1
    let s := issue x.1 (world k id); let g := grp x.1
    operands x.1 = some [1, 2] ∧ x.1.hdr? = some x.2.1 ∧ x.1.wellFormed = true ∧ s.cur = some g
      ∧ Stands s x.1 x.2.1 g k (s.priceAt g.core (gatePrice x.1)) ∧ Enterable g k 4 ∧ k.holding x.2.1 g.mask ≠ 0
      ∧ FirstEarly k x.2.1 g [1, 2] x.2.2.2 := by
  have hb : earlyForms.all (fun x => let k := crewSt x.2.2.1; let s := issue x.1 (world k id); let g := grp x.1
      decide (operands x.1 = some [1, 2]) && decide (x.1.hdr? = some x.2.1) && x.1.wellFormed
      && standsB s x.1 x.2.1 g k (s.priceAt g.core (gatePrice x.1))
      && (!k.trap.handling && !(k.ctlAt g.mask).tmask.getLsbD 4 && decide ((k.ctlAt g.mask).handlers.getD 4 0 ≠ 0))
      && decide (k.holding x.2.1 g.mask ≠ 0)) = true := by decide +kernel
  have he : earlyForms.all (fun x => let k := crewSt x.2.2.1; let on := k.holding x.2.1 (grp x.1).mask
      let guard := x.2.1.ge && earlyOn k (grp x.1).mask (pKey x.2.1.gp)
      (guard && decide (x.2.2.2 = pKey x.2.1.gp)) || (!guard && ((decide (x.2.2.2 = 1) && earlyOn k on 1)
        || (decide (x.2.2.2 = 2) && earlyOn k on 2 && !earlyOn k on 1)))) = true := by decide +kernel
  intro x hx
  have := List.all_eq_true.mp hb x hx
  have he := List.all_eq_true.mp he x hx
  simp only [Bool.and_eq_true, decide_eq_true_eq] at this
  obtain ⟨⟨⟨⟨⟨h1, h2⟩, h3⟩, h4⟩, h5⟩, h6⟩ := this
  refine ⟨h1, h2, h3, rfl, standsB_sound h4, enterableB (by simpa using h5), h6, ?_⟩
  simp only [Bool.or_eq_true, Bool.and_eq_true, decide_eq_true_eq, Bool.not_eq_true', Bool.and_eq_false_iff] at he
  rcases he with ⟨⟨h7, h8⟩, h9⟩ | ⟨h7, h8⟩
  · exact .inl ⟨⟨h7, earlyOn_iff.mp h8⟩, h9⟩
  · have hg : ¬ (x.2.1.ge = true ∧ EarlyIn (crewSt x.2.2.1) (grp x.1).mask (pKey x.2.1.gp)) := by
      rintro ⟨ha, hc⟩
      rcases h7 with h7 | h7
      · rw [h7] at ha; cases ha
      · rw [← earlyOn_iff, h7] at hc; cases hc
    rcases h8 with ⟨h8, h9⟩ | ⟨⟨h8, h9⟩, h10⟩
    · exact .inr ⟨hg, [], 1, [2], rfl, h8, by rw [h8]; exact earlyOn_iff.mp h9, fun x hx => (nomatch hx)⟩
    · refine .inr ⟨hg, [1], 2, [], rfl, h8, by rw [h8]; exact earlyOn_iff.mp h9, fun x hx => ?_⟩
      rw [List.mem_singleton] at hx
      subst hx
      rw [← earlyOn_iff]
      exact fun hc => by rw [show (1 : RegCode).toNat = 1 from rfl, h10] at hc; cases hc

/-- A check of every listed thread. -/
theorem threadsB {k : Crew} {p : Nat → Thread → Bool} (h : k.threads.all (fun x => p x.1 x.2) = true) {l : Nat} {t : Thread}
    (ht : k.thread? l = some t) : p l t = true :=
  List.all_eq_true.mp h (l, t) (tget?_mem _ _ _ ht)

/-- The body of a loop ends behind the instruction, or at the target of a branch; a third thread waits there. -/
def crewEnd : Crew :=
  { crew1 with loops := ⟨[3, 0, 0], [⟨0x4000, 0x4008, false⟩], [0x4000]⟩
               threads := crew1.threads ++ [(5, { Thread.start 0x4008 [] uniform1 0xFFFF 0 with st := .loopEnd })] }
def wEnd : State := worldOf crewEnd
def endForms : List Instr := [.iadd h0 o3, .unpk hp1 ⟨3, 1, 0, true, 1⟩, .pmov h0 true true 1, .bra hp1 2]
theorem witness_LoopsAndBreaks_end : ∀ i ∈ endForms, let g := grp i; let s := issue i wEnd; let k := crewEnd
    ∃ r v, (intResult i = some r ∨ moveResult i = some r ∨ predResult i = some r ∨ flowResult g i = some r)
      ∧ i.wellFormed = true ∧ Ready s i r.h g k ∧ k.level? (lowLane g.mask) = some (0, v) ∧ v.body g.pc = true
      ∧ (∀ l t, g.mask.getLsbD l = false → k.thread? l = some t → t.st ≠ .collective ∧ (t.st = .loopEnd → t.pc = v.stop))
      ∧ ∃ l, g.mask.getLsbD l = true ∧ (s.context k.id.ctx).start (r.dest g k l) = v.stop := by
  let res := fun (i : Instr) => (intResult i).orElse fun _ => (moveResult i).orElse fun _ => (predResult i).orElse fun _ =>
    flowResult (grp i) i
  have hb : endForms.all (fun i => let g := grp i; let s := issue i wEnd; let k := crewEnd
      (res i).any fun r => i.wellFormed && readyB s i r.h g k
        && decide (k.level? (lowLane g.mask) = some (0, ⟨0x4000, 0x4008, false⟩))
        && LoopLevel.body ⟨0x4000, 0x4008, false⟩ g.pc && decide (g.mask = 3)
        && [0, 1].any (fun l => decide ((s.context k.id.ctx).start (r.dest g k l) = 0x4008))) = true := by decide +kernel
  have ht : crewEnd.threads.all (fun x => decide (x.2.st ≠ .collective ∧ (x.2.st = .loopEnd → x.2.pc = 0x4008))) = true := by
    decide +kernel
  intro i hi
  obtain ⟨r, hr, hp⟩ := anyB (List.all_eq_true.mp hb i hi)
  simp only [Bool.and_eq_true, decide_eq_true_eq, List.any_eq_true] at hp
  obtain ⟨⟨⟨⟨⟨h1, h2⟩, h3⟩, h4⟩, h5⟩, l, hl, h6⟩ := hp
  refine ⟨r, ⟨0x4000, 0x4008, false⟩, ?_, h1, readyB_sound h2, h3, h4,
    fun l t _ h => of_decide_eq_true (threadsB (p := fun _ t => decide (t.st ≠ .collective ∧ (t.st = .loopEnd → t.pc = 0x4008))) ht h), l, ?_, h6⟩
  · simp only [res, Option.orElse_eq_or, Option.or_eq_some_iff] at hr
    rcases hr with h | ⟨-, h | ⟨-, h | ⟨-, h⟩⟩⟩
    · exact .inl h
    · exact .inr (.inl h)
    · exact .inr (.inr (.inl h))
    · exact .inr (.inr (.inr h))
  · rw [h5]
    rcases List.mem_cons.mp hl with rfl | hl
    · decide
    · rw [List.mem_singleton.mp hl]; decide

/-- Crew-collective instructions that every thread skips. -/
def skipForms : List Instr :=
  [.loop hp2 (loopOp 3), .alloc hp2 ⟨false, 5, 20, 0x108⟩, .bar hp2 ⟨0, 1, true⟩, .bara hp2 ⟨0, 1, true⟩,
   .waitcap hp2 ⟨true, 3, 5, 4, 0⟩, .mwait hp2 5 0x120]
theorem witness_GuardsOff_collective : ∀ i ∈ skipForms, let s := issue i w2; let g := grp i
    i.collective = true ∧ i.hdr? = some hp2 ∧ i.wellFormed = true ∧ s.cur = some g ∧ g.paid = false
      ∧ g.parts = [(g.slot, g.mask)] ∧ g.mask ≠ 0 ∧ s.crew? g.core g.slot = some crew1 ∧ crew1.trap.handling = false
      ∧ (∀ l, g.mask.getLsbD l = true → ∃ t, crew1.thread? l = some t)
      ∧ (∀ p ∈ crew1.threads, p.1 < 64 ∧ g.mask.getLsbD p.1 = true ∧ p.2.st = .ready) ∧ crew1.holding hp2 g.mask = 0
      ∧ ∀ next, crew1.Clear (s.context crew1.id.ctx) g.mask (fun _ => next) := by
  have hb : skipForms.all (fun i => let s := issue i w2; let g := grp i
      i.collective && decide (i.hdr? = some hp2) && i.wellFormed && decide (g.parts = [(g.slot, g.mask)])
      && decide (g.mask ≠ 0) && decide (s.crew? g.core g.slot = some crew1)
      && laneAll g.mask (fun l => (crew1.thread? l).isSome)
      && crew1.threads.all (fun p => decide (p.1 < 64 ∧ g.mask.getLsbD p.1 = true ∧ p.2.st = .ready))
      && decide (crew1.holding hp2 g.mask = 0)) = true := by decide +kernel
  intro i hi
  have := List.all_eq_true.mp hb i hi
  simp only [Bool.and_eq_true, decide_eq_true_eq, List.all_eq_true] at this
  obtain ⟨⟨⟨⟨⟨⟨⟨⟨h1, h2⟩, h3⟩, h4⟩, h5⟩, h6⟩, h7⟩, h8⟩, h9⟩ := this
  exact ⟨h1, h2, h3, rfl, rfl, h4, h5, h6, rfl, fun l hl => Option.isSome_iff_exists.mp (laneAll_sound h7 l hl), h8, h9,
    fun _ => clear_of_noLevel rfl _ _ _⟩

/-- Counters by their ids: 5 is armed, 6 and 0x3FFF are at rest; 0x4000 and 0xFFFE name none, nor does 0xFFFF. -/
theorem witness_JoinIds : (5 < 2 ^ 14 ∧ ((armed 2).joinAt (5 / 4096) (5 % 4096)).armed = true)
    ∧ (∀ id ∈ [6, 0x3FFF], id < 2 ^ 14 ∧ ((armed 2).joinAt (id / 4096) (id % 4096)).armed = false)
    ∧ (∀ id ∈ [0x4000, 0xFFFE], 2 ^ 14 ≤ id ∧ id < 2 ^ 16 ∧ id ≠ 0xFFFF)
    ∧ ∀ d ∈ [0, 1, 2, 3], (((armed 2).die d).joins.map (·.1)).Pairwise (· < ·) := by decide +kernel

/-- LAUNCH is refused: no such queue, one that is not fed by the device, an entry that is no window, a coordinate out of
bounds. -/
def laneQ (q : Word) : Thread := .start 0x4000 [(1, q), (2, 1024)] uniform1 0xFFFF 0
theorem witness_LaunchAppends_refused : let x := wLq.context 0
    let d := fun (o : LaunchOp) => ((wLq.core 0).entry 0 o.n.toNat).desc
    x.ccb.nq ≤ ((laneQ 2).reg lqO.q).toNat ∧ (x.queue ((laneQ 0).reg lqO.q).toNat).devfed = false
      ∧ (d { lqO with n := 1 }).isGlobal = false
      ∧ (d lqO).inBounds ((laneQ 1).coords 2 (d lqO).dims) = false := by decide +kernel

/-- A record in reach of its window is malformed, or well formed and its queue is full, or has room; its page is
mapped, or it is not. -/
def wFull (tail : Nat) : State := wLq.modContext 0 fun x => { x with queues := [(1, { queue1 with tail := tail })] }
def launchesB (s : State) (t : Thread) : Bool :=
  let x := s.context 0
  let d := ((s.core 0).entry 0 15).desc
  Memory.wf s.globalMem && s.cores.all (fun p => Memory.wf p.2.cells) && decide ((t.reg lqO.q).toNat < x.ccb.nq)
    && (x.queue (t.reg lqO.q).toNat).devfed && d.isGlobal && d.inBounds (t.coords lqO.c d.dims)
    && s.reachable 0 0 d && decide (d.space = 2) && !d.gpl && decide (d.bitPos (t.coords lqO.c d.dims) / 8 < d.reach)
theorem witness_LaunchAppends_cases : launchesB wS lqThread = true ∧ launchesB (wFull 15) lqThread = true
    ∧ launchesB (wFull 16) lqThread = true ∧ launchesB (noPage wLq) lqThread = true
    ∧ (∃ a, (noPage wLq |>.context 0).allocs.find? (fun a => decide (a.handle = 7)) = some a ∧ 0 / 65536 ∈ a.unmapped)
    ∧ (∀ s ∈ [wS, wFull 15, wFull 16], ∀ a ∈ (s.context 0).allocs, a.unmapped = [])
    ∧ ([wS, wFull 15, wFull 16].map fun s => let d := ((s.core 0).entry 0 15).desc
        (parseRecord (leNat (s.recordBytes 0 0 d (lqThread.coords lqO.c d.dims)))).fieldsOk (s.context 0)) = [false, true, true]
    ∧ ([wFull 15, wFull 16].map fun s => let q := (s.context 0).queue 1
        decide (2 ^ q.slog < ((q.tail + 1) % 2 ^ 16 + 2 ^ 16 - q.head) % 2 ^ 16)) = [false, true]
    ∧ (wFull 15).inMove (gaddr queue1.base (2048 * 15)) 2048 = false
    ∧ Apart (wFull 15) 0 1 (gaddr queue1.base (2048 * 15)) 2048 := by
  refine ⟨by decide +kernel, by decide +kernel, by decide +kernel, by decide +kernel,
    ⟨{ alloc7 with unmapped := [0] }, by decide +kernel, by decide⟩, by decide +kernel, by decide +kernel, by decide +kernel,
    by decide +kernel, by unfold Apart; decide +kernel⟩

/-- Nobody has appended in this cycle; an older crew has, of the same core. -/
theorem witness_JoinAndLaunch_order : (∀ n, InOrder wS (grp (.launch h0 launchO)) crew1 ((wS.context 0).queue n))
    ∧ InOrder wS (grp (.launch h0 launchO)) crew1 { queue1 with appended := some (wS.cycle, 0, 0) } := by
  refine ⟨fun n cyc c id h => ?_, fun cyc c id h hc => ?_⟩
  · have hb : (wS.context 0).queues.all (fun p => decide (p.2.appended = none)) = true := by decide +kernel
    have hq : ((wS.context 0).queue n).appended = none := by
      unfold Context.queue tget
      cases hx : tget? (wS.context 0).queues n with
      | none => rfl
      | some q => exact of_decide_eq_true (List.all_eq_true.mp hb (n, q) (tget?_mem _ _ _ hx))
    rw [hq] at h
    cases h
  · cases h
    exact .inr ⟨rfl, Nat.zero_le _⟩

/-- The crew that waits in WAITCAP alone; one of a higher rank, and an older one of the same rank, beside it. -/
def capCrew (age rank : Nat) : Crew :=
  let k := crewIn (.parked (.cap 1 rank 5 none))
  { k with id := { k.id with age := age, crewId := BitVec.ofNat 16 age }, claim := none }
def capsW (ks : List Crew) : State := (worldOf crew1).modCore 0 fun c => { c with slots := ks.zipIdx.map fun (k, i) => (i, k) }
theorem witness_CapacityChoice_waits : ∀ ks ∈ [[capCrew 3 2], [capCrew 3 2, capCrew 4 7], [capCrew 3 2, capCrew 1 2], []],
    Sorted ((capsW ks).core 0).slots
      ∧ (∀ slot k n r p d, (capsW ks).crew? 0 slot = some k → k.capWait = some (n, r, p, d) → r ≤ 7)
      ∧ ((capsW ks).nextCap 0).isSome = !ks.isEmpty := by
  have hb : [[capCrew 3 2], [capCrew 3 2, capCrew 4 7], [capCrew 3 2, capCrew 1 2], []].all (fun ks =>
      decide ((((capsW ks).core 0).slots.map (·.1)).Pairwise (· < ·))
      && ((capsW ks).core 0).slots.all (fun x => x.2.capWait.all fun w => decide (w.2.1 ≤ 7))
      && decide (((capsW ks).nextCap 0).isSome = !ks.isEmpty)) = true := by decide +kernel
  intro ks hk
  have := List.all_eq_true.mp hb ks hk
  simp only [Bool.and_eq_true, decide_eq_true_eq, List.all_eq_true] at this
  refine ⟨this.1.1, fun slot k n r p d h hw => ?_, this.2⟩
  have := this.1.2 (slot, k) (tget?_mem _ _ _ h)
  rw [show (slot, k).2.capWait = some (n, r, p, d) from hw] at this
  exact of_decide_eq_true (by simpa using this)

/-- A placement under way: of ALLOC in LIT banks, before its end and at it, and in banks that wake, before they are LIT
and after; and of REVIVE. -/
def allocI : Instr := .alloc h0 ⟨false, 5, 20, 0x108⟩
def reviveI : Instr := .revive h0 5 12
def darkW : State := w2.modCore 0 fun c => { c with banks := (List.range 64).map fun b => (b, .dark) }
def litW : State := (ran allocI darkW).modCore 0 fun c => { c with banks := [] }
def placeForms : List (State × Nat × Bool × Bool) :=
  [(ran allocI w2, 20, false, false), (later (ran allocI w2), 20, false, true), (ran allocI darkW, 20, true, false),
   (litW, 20, true, true), (later (ran reviveI w2), 12, false, true)]
def placesB (x : State × Nat × Bool × Bool) : Bool :=
  let s := x.1
  (s.crew? 0 0).any fun k =>
    let e := (s.core 0).entry k.id.ctx x.2.1
    lanesB k && decide (k.loops.levels = []) && (e.placing.any fun b => match k.threads.head?.map fun (y : Nat × Thread) => y.2.st with
      | some (.parked (.place n p lit cyc)) =>
        decide (n = x.2.1 ∧ p = 5) && k.threads.all (fun y => decide (y.2.st = TState.parked (.place n p lit cyc)))
          && decide (waiting k (fun st => match st with
            | .parked (.place _ _ _ _) => true
            | _ => false) ≠ 0)
          && decide (lit ≠ 0 ↔ x.2.2.1 = true)
          && (if lit ≠ 0 then decide ((s.core 0).litAt b.1 e.desc.banklog = 0 ↔ x.2.2.2 = true)
            else decide (cyc ≤ s.coreCycle 0 ↔ x.2.2.2 = true))
      | _ => false) && Memory.wf s.globalMem && s.cores.all (fun p => Memory.wf p.2.cells)
      && decide (((s.core 0).layout.map (·.1)).Pairwise (· < ·))
theorem witness_CapacityChoice_places : placeForms.all placesB = true := by decide +kernel

/-- At issue + 6: FREE of a LIVE entry, for which the crew waits, and of a LOSING one; MARK, for which it waits too; RERANK. -/
def lateW (k : Crew) (op : LateOp) : State := (later (worldOf k)).modCore 0 fun c =>
  { c with layout := tset entries 20 (entry { desc 0 5 [16] with st := .losing }), late := [(0, op)] }
def lateForms : List (Crew × LateOp) :=
  [(crewIn (.parked (.freeing 13 5)), .free 13), (crewIn (.parked (.freeing 20 5)), .free 20),
   (crewIn (.parked (.full 1)), .mark 1 true), (crewIn (.parked (.full 1)), .mark 1 false), (crew1, .rerank 1 7)]
theorem witness_CapacityChoice_late : ∀ x ∈ lateForms, let s := lateW x.1 x.2
    (s.core 0).late = [(0, x.2)] ∧ 0 ≤ s.coreCycle 0 ∧ Sorted (s.core 0).slots ∧ Sorted (s.core 0).layout
      ∧ s.crew? 0 0 = some x.1 ∧ Lanes x.1 ∧ (∀ m, NoLoopEnd (s.context 0) m x.1)
      ∧ (∀ slot k l th p, s.crew? 0 slot = some k → k.thread? l = some th → th.st = .parked (.freeing 13 p) → p = 5)
      ∧ ((s.core 0).entry 0 13).desc.st = .live ∧ ((s.core 0).entry 0 20).desc.st = .losing := by
  have hb : lateForms.all (fun x => let s := lateW x.1 x.2
      decide ((s.core 0).late = [(0, x.2)]) && decide (((s.core 0).slots.map (·.1)).Pairwise (· < ·))
      && decide (((s.core 0).layout.map (·.1)).Pairwise (· < ·)) && decide (s.crew? 0 0 = some x.1) && lanesB x.1
      && decide (x.1.loops.levels = []) && decide ((s.core 0).slots = [(0, x.1)])
      && x.1.threads.all (fun y => match y.2.st with
        | .parked (.freeing 13 p) => decide (p = 5)
        | _ => true)
      && decide (((s.core 0).entry 0 13).desc.st = .live) && decide (((s.core 0).entry 0 20).desc.st = .losing)) = true := by
    decide +kernel
  intro x hx
  have := List.all_eq_true.mp hb x hx
  simp only [Bool.and_eq_true, decide_eq_true_eq] at this
  obtain ⟨⟨⟨⟨⟨⟨⟨⟨⟨h1, h2⟩, h3⟩, h4⟩, h5⟩, h6⟩, h7⟩, h8⟩, h9⟩, h10⟩ := this
  refine ⟨h1, Nat.zero_le _, h2, h3, h4, lanesB_sound h5, noLoopEnd h6 _, fun slot k l th p hk ht hs => ?_, h9, h10⟩
  have hm := tget?_mem _ _ _ hk
  rw [h7, List.mem_singleton] at hm
  cases hm
  have := List.all_eq_true.mp h8 (l, th) (tget?_mem _ _ _ ht)
  rw [hs] at this
  exact of_decide_eq_true this

/-- A migration copies tile 0 of an allocation. -/
def moved (h : BitVec 64) (s : State) : State := s.modCore 0 fun c =>
  { c with reqs := [{ mkReq 0 (.migr h 0 3 0) crew1 0 0x4000 ⟨0, 2, desc 3 5 [16], [0]⟩ ⟨0, 2, desc 3 5 [16], [0]⟩ none 0 0 with
    started := true }] }

/-- The slots of a queue keep clear of its descriptor. -/
theorem witness_TailReads : ∀ i < 4, let a := gaddr queue0.base (2048 * ((queue0.head + i) % 2 ^ 16 % 2 ^ queue0.slog))
    Quiet (queueW queue0) a 2048 ∧ Apart (queueW queue0) 0 0 a 2048 := by
  intro i hi
  refine ⟨fun x hx => ?_, ?_⟩
  · have : (queueW queue0).device.held = [] := by rfl
    rw [this] at hx
    cases hx
  · unfold Apart
    interval_cases i <;> decide +kernel

/-- A skipped record of each kind, with a completion record. -/
theorem witness_Skipped : ∀ x ∈ [(0, Instr.launchRelease ⟨0, 0, 0⟩), (1, .cond ⟨0, 0, 0⟩), (2, .signal ⟨0, 0, 0⟩), (3, .wait ⟨0, 0, 0⟩)],
    let q := qrec x.1 0x8000 true
    MayRelease (relW q) ⟨0, 0, 0⟩ q ∧ (relW q).MemWf ∧ q.skip = true ∧ q.record.kind = x.1 ∧ q.record.cmpl ≠ 0
      ∧ (relW q).inMove (gaddr q.record.cmpl 0) 32 = false ∧ Apart (relW q) 0 0 (gaddr q.record.cmpl 0) 32 := by
  have hb : [0, 1, 2, 3].all (fun n => let q := qrec n 0x8000 true
      decide ((relW q).device.start.stage = .ready ∧ (relW q).device.power.state = .active)
      && !((relW q).context 0).killed && decide ((queueOf (relW q) ⟨0, 0, 0⟩).window = [q])
      && (Memory.wf (relW q).globalMem && (relW q).cores.all fun p => Memory.wf p.2.cells)
      && !(relW q).inMove (gaddr q.record.cmpl 0) 32
      && decide (gaddr ((relW q).context 0).ccb.qtBase (32 * 0) + 32 ≤ gaddr q.record.cmpl 0)) = true := by decide +kernel
  intro x hx
  have hn : x.1 ∈ [0, 1, 2, 3] := by
    simp only [List.mem_cons, List.not_mem_nil, or_false] at hx ⊢
    rcases hx with rfl | rfl | rfl | rfl <;> simp
  have := List.all_eq_true.mp hb x.1 hn
  simp only [Bool.and_eq_true, Bool.not_eq_true'] at this
  obtain ⟨⟨⟨⟨⟨h1, h2⟩, h3⟩, h4⟩, h5⟩, h6⟩ := this
  have h3 := of_decide_eq_true h3
  have h1 := of_decide_eq_true h1
  exact ⟨⟨h1, h2, by rw [h3]; rfl, rfl, fun l x hl => (nomatch hl), fun p hp => by simp at hp⟩,
    memWfB (by rw [Bool.and_eq_true]; exact h4), rfl, rfl, (by decide : (0x8000 : BitVec 64) ≠ 0), h5, .inr (of_decide_eq_true h6)⟩

/-- The event words lie in a tile that is copied, or not; the records behind COND have all been taken in. -/
theorem witness_Signal : (relW (qrec 2 0 false)).inMove (gaddr 0 32) 4 = false
    ∧ (moved 0 (relW (qrec 2 0 false))).inMove (gaddr 0 32) 4 = true
    ∧ ((relW (qrec 2 0 false)).context 0).ccb.qtBase = 0
    ∧ (queueOf (relW (qrec 1 0 false)) ⟨0, 0, 0⟩).head = (queueOf (relW (qrec 1 0 false)) ⟨0, 0, 0⟩).tail
    ∧ ((relW (qrec 1 0 false)).context 0).killed = false := by decide +kernel

/-- A saved crew whose threads waited behind an entry that is LIVE. -/
def savedAtW : State := after (.crewSave ⟨0, 0⟩) (later (worldOf { crewIn (.parked (.entry 1 0)) with evict := some 0 }))
theorem witness_RestoresParked : ∃ v u, (savedAtW.context 0).saved[0]? = some v ∧ savedAtW.canRestore 0 v 0 = true
    ∧ v.mreqs = [] ∧ v.crew.trap.pending = [] ∧ Lanes v.crew
    ∧ NoLoopEnd (savedAtW.context v.crew.id.ctx) (BitVec.allOnes 64) v.crew
    ∧ v.crew.thread? 0 = some u ∧ u.st = .parked (.entry 1 0) ∧ ((savedAtW.core v.core).entry 0 1).desc.st ≠ .rebuild := by
  obtain ⟨v, h, hp⟩ := anyB (o := (savedAtW.context 0).saved[0]?) (p := fun v => savedAtW.canRestore 0 v 0
    && decide (v.mreqs = []) && decide (v.crew.trap.pending = []) && lanesB v.crew
    && decide (v.crew.loops.levels = []) && (v.crew.thread? 0).any (fun (u : Thread) => decide (u.st = TState.parked (.entry 1 0)))
    && decide (((savedAtW.core v.core).entry 0 1).desc.st ≠ .rebuild)) (by decide +kernel)
  simp only [Bool.and_eq_true, decide_eq_true_eq] at hp
  obtain ⟨⟨⟨⟨⟨⟨h1, h2⟩, h3⟩, h4⟩, h5⟩, h6⟩, h7⟩ := hp
  obtain ⟨u, hu, hs⟩ := anyB h6
  exact ⟨v, u, h, h1, h2, h3, lanesB_sound h4, noLoopEnd h5 _ _, hu, of_decide_eq_true hs, h7⟩
theorem witness_ReplayQuiet : ckptW.device.held = [] ∧ (ckptW.context 0).killed = false
    ∧ ((ckptW.context 0).saved = []) := by decide +kernel

/-- An Ettil write, to a tile that is copied and to another, while the module is awake and while it sleeps; the queue
table lies elsewhere, or before it. -/
def ettilE : EttilEv := ⟨1, 0, 7, 64, [1, 2]⟩
theorem witness_Ettil : (∀ s ∈ [w1, sleeping w1, moved 7 w1], s.device.start.stage = .ready ∧ ettilE.node < 1024
      ∧ ettilE.offset + ettilE.bytes.length ≤ 2 ^ 48
      ∧ ∀ p ∈ s.contexts, p.2.ccb.qtBase = ettilE.handle → 32 * p.2.ccb.nq ≤ ettilE.offset)
    ∧ ([w1, moved 7 w1].map fun s => s.inMove (gaddr 7 64) 2) = [false, true] ∧ w1.MemWf
    ∧ (sleeping w1).device.power.state ≠ .active ∧ (∀ s ∈ [w1], s.device.start.stage ≠ .safe) := by
  refine ⟨by decide +kernel, by decide +kernel, memWfB (by decide +kernel), by decide +kernel, by decide +kernel⟩

/-- An image with an owner's key enrolled, and without; verified or not; the take-over, with a record too old and without. -/
theorem witness_LiveUpdate : (firmW (fun f => { f with ownerKeys := [1] }) w1).device.firmware.quiesced = false
    ∧ (let s := firmW (fun f => { f with ownerKeys := [1], verified := true }) (standbyW false false 1 w1)
       s.device.firmware.standby = some (1, 1) ∧ s.device.firmware.verified = true)
    ∧ w1.device.firmware.verified = false
    ∧ (∀ n ∈ [1, 9], let s := firmW (fun f => { f with ownerKeys := [1] }) (standbyW true true n savedW)
       s.device.firmware.standby = some (1, n) ∧ s.device.firmware.exported = true ∧ s.device.firmware.quiesced = false
        ∧ s.device.firmware.ownerKeys ≠ [] ∧ ((∀ p ∈ s.contexts, ∀ v ∈ p.2.saved, ¬ v.version + 1 < n) ↔ n = 1))
    ∧ (∃ p ∈ savedW.contexts, p.2.saved ≠ []) ∧ (firmW (fun f => { f with ownerKeys := [] }) w1).device.firmware.ownerKeys = []
    ∧ (let s := firmW (fun f => { f with quiesced := true, heldTails := [(qref, 4)] }) w1
       s.device.firmware.quiesced = true ∧ s.device.firmware.heldTails = [(qref, 4)]) := by decide +kernel

/-- The tolerances that admit each state; a state that something wakes, and that nothing does. -/
def tolerant (n : Nat) (s : State) : State := { s with device := { s.device with power := { s.device.power with tolerance := n } } }
def wokenW (s : State) : State := { s with device := { s.device with power := { s.device.power with woken := true } } }
theorem witness_Tolerance : (∀ n ∈ [2, 49], (tolerant n idleW).device.power.tolerance < 50 ∧ 2 ≤ (tolerant n idleW).device.power.tolerance)
    ∧ (∀ n ∈ [50, 1999], AllIdle (tolerant n idleW) ∧ (tolerant n idleW).device.power.tolerance = n)
    ∧ AllIdle (tolerant 2000 idleW) ∧ ¬ AllIdle (tolerant 2 w1)
    ∧ (tolerant 2 w1).device.start.stage = .ready ∧ (tolerant 2 w1).device.power.state = .active
    ∧ napW.device.power.woken = false ∧ (wokenW napW).device.power.woken = true ∧ (wokenW dozeW).device.power.woken = true
    ∧ (wokenW heldW).device.power.woken = true ∧ heldW.device.firmware.quiesced = false := by
  have h : ∀ n, AllIdle (tolerant n idleW) := fun n =>
    ⟨idle_AllIdle.working, idle_AllIdle.queues, idle_AllIdle.cores, idle_AllIdle.quads⟩
  refine ⟨by decide +kernel, fun n _ => ⟨h n, rfl⟩, h _, fun hc => ?_, by decide +kernel⟩
  have hs : (tolerant 2 w1).cores.any (fun p => !p.2.slots.isEmpty) = true := by decide +kernel
  obtain ⟨p, hp, hq⟩ := List.any_eq_true.mp hs
  rw [(hc.cores p hp).1] at hq
  cases hq
/-- The tile bank of a context that DOZE spills. -/
def bankW : State := { idleW with
  contexts := [(0, (w1.context 0))]
  quads := [(0, { idleW.quad 0 with banks := [{ TileBank.reset with use := .bound 0 }, TileBank.reset] })] }
theorem witness_DozeSpills : ((bankW.quad 0).banks.filter fun y => decide (y.use = .bound 0)) = [{ TileBank.reset with use := .bound 0 }]
    ∧ (tget? bankW.contexts 0).isSome = true ∧ tget? bankW.quads 0 = some (bankW.quad 0)
    ∧ (∀ p ∈ bankW.quads, p.1 = 0 → p.2 = bankW.quad 0) ∧ AllIdle bankW := by
  refine ⟨by decide +kernel, by decide +kernel, by decide +kernel, fun p hp _ => ?_, ?_⟩
  · simp only [bankW, List.mem_singleton] at hp
    subst hp
    rfl
  · have h : (decide (bankW.device.start.stage = .ready ∧ bankW.device.power.state = .active)
      && bankW.contexts.all (fun p => p.2.queues.isEmpty) && bankW.cores.isEmpty
      && bankW.quads.all fun p => p.2.table.isEmpty && p.2.banks.all fun b => decide (b.use = .free ∨ b.use = .bound 0)) = true := by
      decide +kernel
    simp only [Bool.and_eq_true, decide_eq_true_eq, List.isEmpty_iff, List.all_eq_true] at h
    obtain ⟨⟨⟨h1, h2⟩, h3⟩, h4⟩ := h
    exact ⟨⟨h1.1, .inl h1.2⟩, fun p hp => (by rw [h2 p hp]; simp), fun p hp => (by rw [h3] at hp; cases hp),
      fun p hp => ⟨(h4 p hp).1, fun b hb => ((h4 p hp).2 b hb).imp_right fun h => ⟨0, h⟩⟩⟩
theorem witness_Stages : let s := after (.packageReset .safe true) w1
    s.device.start.failed = false ∧ (after (.packageReset .ready false) (after (.packageReset .bringup true) s)).device.start = ⟨.safe, true⟩ := by
  decide +kernel

/-- `run` of a kernel with a parameter and a data image. -/
def runE : RunEv :=
  ⟨0, 0, [1, 2, 3, 4], [0x4000], recBytes, [(16, 5)], 0x1000, [⟨18, 7, [9, 8], [2]⟩]⟩
def runW : State := watching (queueW queue0)
theorem witness_Run : runW.queueOpen ⟨0, 0⟩ = true ∧ runW.device.session.attached = some 0
    ∧ runW.device.power.state = .active ∧ runW.device.firmware.quiesced = false
    ∧ (runE.params ++ runE.images.flatMap fun x => [(x.sreg, BitVec.ofNat 32 x.handle.toNat),
      (x.sreg + 1, BitVec.ofNat 32 (x.handle.toNat / 2 ^ 32))]).length ≤ 32
    ∧ runW.inMove (gaddr queue0.base (2048 * (queue0.tail % 2 ^ queue0.slog))) 2048 = false ∧ runW.MemWf
    ∧ Memory.wf (runW.context 0).code = true ∧ runW.inMove (gaddr 7 0) 2 = false
    ∧ (∀ i < 2, gaddr 7 i < gaddr 0x9000 0 ∨ gaddr 0x9000 0 + 2048 ≤ gaddr 7 i) := by
  refine ⟨by decide +kernel, by decide +kernel, by decide +kernel, by decide +kernel, by decide +kernel, by decide +kernel,
    memWfB (by decide +kernel), by decide +kernel, by decide +kernel, by decide +kernel⟩

/-- The crew that stopped is watched; what is printed is: a v register inside VALLOT and outside it, predicates, s
registers inside their file and outside, special registers; labels before the PC and behind it; handling a trap. -/
theorem witness_PrintForms : (∃ k, Stopped debugW ⟨0, 0⟩ k ∧ debugW.watched k = true ∧ Sorted k.threads
      ∧ (255 : BitVec 8).toNat < k.id.vallot ∧ (∀ l, 0 ≤ l → l ≤ 1 → (k.thread? l).isSome = true)
      ∧ (k.pcNow = 0x4000) ∧ k.trap.handling = false)
    ∧ (191 : BitVec 8).toNat < 192 ∧ 192 ≤ (192 : BitVec 8).toNat
    ∧ specialAssigned 0x14 = true ∧ specialAssigned 0x0F = false := by
  obtain ⟨k, h, hp⟩ := anyB (o := debugW.crew? 0 0) (p := fun k => debugW.watched k
    && lanesB k && decide (255 < k.id.vallot) && (k.thread? 0).isSome && (k.thread? 1).isSome
    && decide (k.pcNow = 0x4000) && decide (k.trap.handling = false)) (by decide +kernel)
  simp only [Bool.and_eq_true, decide_eq_true_eq] at hp
  obtain ⟨⟨⟨⟨⟨⟨h1, h2⟩, h3⟩, h4⟩, h5⟩, h6⟩, h7⟩ := hp
  refine ⟨⟨k, ⟨rfl, h⟩, h1, (lanesB_sound h2).1, h3, fun l _ hl => ?_, h6, h7⟩, by decide +kernel⟩
  obtain rfl | rfl : l = 0 ∨ l = 1 := by omega
  · exact h4
  · exact h5
/-- Entries that `print` can name, whole and by ranges; an image in reach of its allocation; a barrier; a crew of a
context that is not watched. -/
theorem witness_PrintRanges : ((w1.core 0).entry 0 1).desc.st = .live ∧ (∀ x ∈ ((w1.core 0).entry 0 1).desc.exts, x ≠ 0)
    ∧ (0 ≤ 127 ∧ ((w1.core 0).entry 0 4).desc.inBounds ([127] ++ 127 :: []) = true ∧ ((w1.core 0).entry 0 4).desc.exts.length = 2)
    ∧ ((w1.core 0).entry 0 4).desc.inBounds ([] ++ 128 :: [0]) = false
    ∧ (∃ a ∈ (debugW.context 0).allocs, a.handle = 7 ∧ 4 * (15 + 1) ≤ a.size) ∧ (w2.bar? 0 0).isSome = true
    ∧ w1.watched crew1 = false := by decide +kernel
/-- Labels, and banks in which entries lie. -/
theorem witness_Where : (∀ a ∈ [(0x5000 : Word)], (0x4000 : Word).toNat < a.toNat)
    ∧ (([0x3000, 0x4000] : List Word)[1]? = some 0x4000 ∧ ∀ j b, ([0x3000, 0x4000] : List Word)[j]? = some b → j ≠ 1 →
      b.toNat ≤ (0x4000 : Word).toNat → b.toNat < (0x4000 : Word).toNat)
    ∧ ∃ p ∈ (debugW.core 0).layout, p.2.holdsCells = true ∧ p.2.touches 0 = true := by
  refine ⟨fun a ha => ?_, ⟨rfl, fun j b hb hj _ => ?_⟩, by decide +kernel⟩
  · rw [List.mem_singleton.mp ha]
    exact of_decide_eq_true rfl
  rcases j with - | - | j
  · cases Option.some.inj hb
    exact by decide +kernel
  · exact absurd rfl hj
  · cases hb
/-- The next steps: a command at an attached session without a stop; none attached. -/
theorem witness_Commands : (watching w1).device.session.attached.isSome = true
    ∧ debugW.device.session.speaks = some (⟨0, 0⟩, crewD.id.age) ∧ (64 ≤ 64)
    ∧ (∃ k, debugW.crew? 0 0 = some k ∧ k.id.age = crewD.id.age) := by
  refine ⟨by decide +kernel, by decide +kernel, by decide, ?_⟩
  obtain ⟨k, h, hp⟩ := anyB (o := debugW.crew? 0 0) (p := fun k => decide (k.id.age = crewD.id.age)) (by decide +kernel)
  exact ⟨k, h, of_decide_eq_true hp⟩

/-- The contexts of the matrix operations have a crew on the quad; the gathers' entries are in reach. -/
theorem witness_OnQuad : OnQuad (grantedW zeroI) 0 0 ∧ OnQuad (grantedW drainI) 0 0 := by
  refine ⟨⟨0, by decide, ?_⟩, 0, by decide, ?_⟩
  · have h : ((grantedW zeroI).core 0).slots.any (fun p => decide (p.2.id.ctx = 0)) = true := by decide +kernel
    obtain ⟨p, hp, hq⟩ := List.any_eq_true.mp h
    exact ⟨p, hp, of_decide_eq_true hq⟩
  · have h : ((grantedW drainI).core 0).slots.any (fun p => decide (p.2.id.ctx = 0)) = true := by decide +kernel
    obtain ⟨p, hp, hq⟩ := List.any_eq_true.mp h
    exact ⟨p, hp, of_decide_eq_true hq⟩
/-- A bank that fills for a context with a request in the table; one that has been spilled while none of its requests is left. -/
theorem witness_Fills : (((wBanks (.filling 0) (.bound 2) (some 0)).quad 0).banks[0]?).map (·.use) = some (.filling 0)
    ∧ (((wBanks (.filling 0) (.bound 2) (some 0)).quad 0).table.any fun r => decide (r.ctx = 0)) = true
    ∧ ((wBanks (.spilling 0) (.bound 2) none).quad 0).table = [] := by decide +kernel

/-- A request may start; it may end; it publishes, and the machine is not replayed. -/
theorem witness_Requests : ([(ran acpyI w1, acpyI), (ran bcpyI w1, bcpyI), (lostW bcpyI, bcpyI)].all fun x =>
      reqB x.1 (reqNo x.2) fun r => x.1.mayStart 0 r && (x.1.context r.ctx).replaying.isNone) = true
    ∧ ([(startedW acpyI, acpyI), (landedW bcpyI 2, bcpyI), (landedW migrI 2048, migrI)].all fun x =>
      reqB x.1 (reqNo x.2) fun r => x.1.mayEnd r && (x.1.context r.ctx).replaying.isNone) = true
    ∧ ([(astoI, [], 0), (bputI, [], 0), (bputI, [0], 0), (bputI, [0, 1], 1)].all fun x => let s := pubW x.1 x.2.1 x.2.2
      (s.turn 0).any fun r => s.mayEnd r && (s.context r.ctx).replaying.isNone) = true
    ∧ (((landedW migrI 2048).context 0).allocs.find? fun a => decide (a.handle = 7)).isSome = true
    ∧ (atomForms.all fun x => (ran x.1 w1).clocked) = true := by decide +kernel

/-- What stands at issue + 6 after a load, a store and ATOMS. -/
def lateAccess (i : Instr) : State := later (ran i w1)
theorem witness_AccessesArrive : ∀ i ∈ accessForms, ∃ due op, ((lateAccess i).core 0).late = [(due, op)]
    ∧ due ≤ (lateAccess i).coreCycle 0 ∧ match op with
      | .load _ _ _ ts => (ts.map fun x => (x.1, x.2.1)).Nodup
      | .store _ _ _ _ => True
      | .atoms _ _ d _ _ _ _ _ ls => d.isGlobal = false ∧ (ls.map fun x => (x.1, x.2.lane)).Nodup
        ∧ (ls.map fun x => x.2.lane).Nodup
      | _ => False := by
  have hb : accessForms.all (fun i => match ((lateAccess i).core 0).late with
      | [(due, op)] => decide (due ≤ (lateAccess i).coreCycle 0) && (match op with
        | .load _ _ _ ts => decide (ts.map fun x => (x.1, x.2.1)).Nodup
        | .store _ _ _ _ => true
        | .atoms _ _ d _ _ _ _ _ ls => decide (d.isGlobal = false ∧ (ls.map fun x => (x.1, x.2.lane)).Nodup
          ∧ (ls.map fun x => x.2.lane).Nodup)
        | _ => false)
      | _ => false) = true := by decide +kernel
  intro i hi
  have := List.all_eq_true.mp hb i hi
  split at this
  · next due op h =>
    rw [Bool.and_eq_true] at this
    refine ⟨due, op, h, of_decide_eq_true this.1, ?_⟩
    have := this.2
    cases op <;> first | trivial | exact of_decide_eq_true this
  · cases this

/-- No request of the block is deferred; one is. Where a queue's record names a completion record, it keeps clear of the
queue's descriptor. -/
theorem witness_BlockEnds : (∃ c, ∃ r ∈ ((wHeld 1 [oneReq]).core c).reqs, r.block = 0 ∧ r.deferred = true)
    ∧ (∀ p ∈ (wHeld 1 []).cores, ∀ r ∈ p.2.reqs, r.block = 0 → r.deferred = false)
    ∧ (wOver 0x8000).inMove (gaddr 0x8000 0) 32 = false ∧ Apart (wOver 0x8000) 0 0 (gaddr 0x8000 0) 32 := by
  have h : (wHeld 1 []).cores.all (fun p => p.2.reqs.isEmpty) = true := by decide +kernel
  refine ⟨⟨0, oneReq, by decide +kernel, rfl, rfl⟩, fun p hp r hr => ?_, by decide +kernel, by unfold Apart; decide +kernel⟩
  rw [List.isEmpty_iff.mp (List.all_eq_true.mp h p hp)] at hr
  cases hr

theorem witness_KaleStarts : kaleW.atStart 0 = true := by decide +kernel
/-- A coalescer's record goes to a tile that is copied, or to another. -/
theorem witness_CoalescerHeld : let slot := gaddr (w1.context 0).ccb.fqBase (32 * ((w1.context 0).ccb.fqTail % 2 ^ (w1.context 0).ccb.fqLog))
    (coalW 1 [] (later w1)).inMove slot 32 = false ∧ (moved 0 (coalW 1 [] (later w1))).inMove slot 32 = true := by
  decide +kernel

/-- Powers of two at the ends of their ranges, whole numbers where EXP2 overflows and underflows, and the binades of the
bound of FRCP. -/
theorem witness_Powers : (∀ x ∈ [(0x00000001, (-149 : Int)), (0x00400000, -127), (0x00800000, -126), (0x3F800000, 0), (0x7E800000, 126),
      (0x7F000000, 127)], IsPower x.1 x.2)
    ∧ (∀ x ∈ [(0xC2FC0000, (-126 : Int)), (0x42FE0000, 127), (0x43000000, 128)],
      IsFin F32 x.1 ∧ fnum F32 x.1 = x.2 * 2 ^ 149)
    ∧ ∀ x ∈ [(0x00800000, (126 : Int)), (0x3F800000, 0), (0x3FC00000, -1), (0x7E800000, -126)],
      2 ^ (x.2 + 150).toNat * grid F32 (mag F32 x.1) ≤ 2 ^ 299
        ∧ 2 ^ 299 < 2 ^ (x.2 + 151).toNat * grid F32 (mag F32 x.1) := by
  refine ⟨?_, ?_, ?_⟩
  · unfold IsPower; decide +kernel
  · unfold IsFin; decide +kernel
  · decide +kernel

/-- The records of crews with 64 and 8 v registers and nothing pending (R320). -/
def savedOf (n : Nat) : Saved := ⟨0, { crew1 with id := { crew1.id with vallot := n } }, [], 0⟩
theorem test_record_size : (savedOf 64).size = 19272 ∧ (savedOf 8).image.length = (savedOf 8).size := by decide +kernel

/-! ## Ill-formed terms, which WellFormed refuses -/

/-- One term for each reserved-value check (R15, R20, R24, R34 RSVD). -/
def badHdr : Hdr := { h0 with gp := 3 }
def reservedForms : List Instr :=
  [.nop badHdr, .bra { h0 with gn := true } 4, .exit badHdr, .sleept h0 0x105, .loop h0 ⟨3, false, 11, 8, 0⟩,
   .loop h0 ⟨0, false, 4, 8, 0⟩, .loop h0 ⟨0, true, 11, 8, 0x105⟩, .loop h0 ⟨0, false, 11, 8, 0x105⟩,
   .iadd h0 { o3 with mod := 4 }, .imin h0 { o3 with mod := 2 }, .imul h0 { o3 with mod := 1 }, .and h0 { o3 with ext := 1 },
   .iabs h0 o3, .iset h0 { o3 with d := 64 }, .iset h0 { o3 with mod := 6 }, .iset h0 { o3 with ext := 2 },
   .iaddImm h0 { oI with ext := 1 }, .imulhImm h0 { oI with mod := 2 }, .imulImm h0 { oI with mod := 1 }, .movi h0 oI,
   .isetImm h0 { oI with mod := 7 }, .sel h0 ⟨true, false, 3, 1, 1, 2, 0⟩, .sel h0 ⟨false, false, 3, 1, 1, 2, 9⟩,
   .fadd h0 { f3 with mod := 1 }, .fmin h0 { f3 with ext := 1 }, .fneg h0 f3, .fset h0 { f3 with ext := 1 },
   .faddImm h0 { fI with mod := 1 }, .fminImm h0 { fI with ext := 1 }, .fsetImm h0 { fI with mod := 6 },
   .padd2 h0 { f3 with mod := 2 }, .cvt h0 ⟨3, 4, 10, 0, false, 0⟩, .cvt h0 ⟨3, 4, 1, 1, false, 0⟩,
   .cvt h0 ⟨3, 4, 5, 0, true, 0⟩, .cvt h0 ⟨3, 4, 5, 6, false, 1⟩, .pack h0 ⟨3, 1, 2, 0, 1⟩, .pack h0 ⟨3, 1, 2, 3, 0⟩,
   .unpk h0 ⟨3, 1, 0, true, 2⟩, .unpk h0 ⟨3, 1, 3, true, 0⟩, .qnt h0 { f3 with mod := 4 }, .shfl h0 ⟨0x101, 3, 1, 2⟩,
   .shfr h0 ⟨0x100, 3, 1, 0⟩ ⟨true, 1, 1, false, false⟩, .shfr h0 ⟨0x100, 3, 1, 0⟩ ⟨true, 0, 7, false, false⟩,
   .shfr h0 ⟨0x100, 3, 1, 0⟩ ⟨false, 1, 0, true, false⟩, .shfx h0 ⟨0x100, 3, 1, 2⟩ 1, .red h0 ⟨0x100, 3, 1, 0⟩ 11,
   .scan h0 ⟨0x100, 3, 1, 0⟩ 11 true false, .vote h0 ⟨0x100, 3, 64, 0⟩ 0, .vote h0 ⟨0x100, 3, 1, 0⟩ 3,
   .vote h0 ⟨0x100, 3, 1, 0⟩ 2, .bcast h0 ⟨0x100, 3, 1, 2⟩ 1, .matchLanes h0 ⟨0x100, 3, 1, 0⟩, .srd h0 3 0x0F, .srd h0 3 0x10,
   .swr h0 0x0F 1, .plop h0 ⟨0x80, 3, 1, 2, 1, 4, 0, false⟩, .ldt h0 ⟨1, 7, 3, 1, false, 0⟩, .ldv h0 ⟨1, 7, 3, 3, false, 0⟩,
   .stt h0 ⟨1, 7, 3, 0, true, 0⟩, .tfill h0 ⟨1, 7, 3, 0, true, 0⟩, .waitcap h0 ⟨true, 3, 5, 65, 0⟩, .waitcap h0 ⟨true, 3, 5, 4, 0x104⟩,
   .waitcap h0 ⟨false, 3, 5, 4, 0x105⟩, .rerank h0 ⟨true, 1, 5, 1, 3⟩, .rerank h0 ⟨false, 1, 5, 1, 3⟩,
   .acpy h0 { acpyO with p := 1 }, .acpy h0 { acpyO with nimm := 33 }, .asto h0 { astoO with nreg := 3 }, .twait h0 true 1,
   .tcnt h0 false false 3, .bcpy h0 { bcpyO with t := 0x121 }, .bput h0 { bputO with t := 0x121 }, .cqry h0 true 3 1,
   .migr h0 { migrO with home := 5 }, .mma h0 ⟨3, 7, false, 5, 0x120, false, 3, false, 5, 0x104, 6, 0x104⟩,
   .mzero h0 ⟨6, 0, false, 5, 0x120, 0, 0⟩, .mlda h0 ⟨4, 0, false, 5, 0x120, 4, 0x104⟩, .mdrn h0 ⟨1, 3, false, 5, 0x120, 4, 0x104⟩,
   .mdra h0 ⟨1, 1, false, 5, 0x120, 4, 0x104⟩, .bar h0 ⟨0, 6, false⟩, .atom h0 { atomO with op := 8 }, .atom h0 { atomO with ty := 3 },
   .atom h0 { atomO with op := 4, ty := 1 }, .atom h0 { atomO with b := 2 }, .atoms h0 { atomO with rel := true }, .atred h0 atomO,
   .tokq h0 true 3, .tickr h0 3 1, .cntr h0 8 4, .phint h0 4 1, .spawn h0 { spawnO false with cx := true },
   .spawn h0 { spawnO false with a := 1 }, .join h0 ⟨true, true, 0, 0⟩, .join h0 ⟨false, false, 1, 1⟩, .park h0 false 1,
   .trap h0 ⟨5, 1, false⟩, .rett h0 4, .seth h0 ⟨1, 0, 8, 0⟩, .seth h0 ⟨3, 3, 0, 0⟩, .seth h0 ⟨3, 1, 8, 1⟩, .seth h0 ⟨3, 0, 8, 1⟩,
   .tmask h0 ⟨0, false, 0, 0⟩, .tmask h0 ⟨1, false, 3, 1⟩, .ckpt h0 false 1, .symq h0 7 0 3, .symq h0 1 1 3, .symq h0 5 0 3]
theorem test_reserved_refused : reservedForms.all (fun i => !i.rsvdOk && !i.wellFormed) = true := by decide +kernel

/-- Register runs past s191 (R20, R34 SREG). -/
def sregForms : List Instr :=
  [.iadd h0 ⟨3, 0x1C0, 1, 0, 0⟩, .sleept h0 0x1C0, .alloc h0 ⟨false, 5, 20, 0x1B9⟩, .bcpy h0 { bcpyO with t := 0x1C0 },
   .tickr h0 0x1C0 0x104, .spawn h0 { spawnO true with f := 0x1BD }, .matchLanes h0 ⟨0x1C0, 4, 1, 0⟩]
theorem test_sreg_refused : sregForms.all (fun i => !i.sregOk && !i.wellFormed) = true := by decide +kernel

/-- Operands of a kind that the description does not allow (R21, R22, R34 KIND). -/
def kindForms : List Instr :=
  [.call h0 0x103 8, .callx h0 0x103 0, .sleept h0 4, .loop h0 ⟨0, true, 11, 0, 5⟩, .iadd h0 ⟨0x103, 0x101, 2, 0, 0⟩,
   .mov h0 ⟨0x103, 0, 2, 0, 0⟩, .iaddImm h0 { oI with d := 0x103 }, .sel h0 ⟨false, false, 0x103, 1, 1, 2, 0⟩,
   .fadd h0 { f3 with d := 0x103 }, .faddImm h0 { fI with d := 0x103 }, .cvt h0 ⟨0x103, 4, 1, 0, false, 0⟩,
   .unpk h0 ⟨0x103, 1, 0, true, 1⟩, .shfl h0 ⟨0, 3, 1, 2⟩, .shfl h0 ⟨0x100, 0x103, 1, 2⟩, .shfr h0 ⟨0, 3, 1, 0⟩ ⟨false, 1, 0, false, false⟩,
   .shfx h0 ⟨0, 3, 1, 0⟩ 1, .bcast h0 ⟨0, 3, 1, 0⟩ 1, .red h0 ⟨0, 3, 1, 0⟩ 0, .scan h0 ⟨0x100, 0x103, 1, 0⟩ 0 true true,
   .vote h0 ⟨0, 3, 1, 0⟩ 0, .matchLanes h0 ⟨0x100, 0x104, 1, 0⟩, .pmov h0 false true 0x103, .srd h0 0x103 1, .swr h0 0x10 1,
   .ldt h0 ⟨1, 7, 0x103, 0, false, 0⟩, .alloc h0 ⟨false, 5, 20, 8⟩, .waitcap h0 ⟨false, 3, 5, 4, 4⟩, .bcpy h0 { bcpyO with t := 4 },
   .bput h0 { bputO with t := 4 }, .cqry h0 false 0x103 1, .migr h0 { migrO with t := 4 },
   .mma h0 ⟨3, 3, false, 5, 4, false, 3, false, 5, 0x104, 6, 0x104⟩, .mmas h0 ⟨3, 3, 5, 0x120, false, 3, 5, 4, 0x104, 9, 8, 10⟩,
   .msca h0 ⟨5, 0x120, false, 0, 7, 4⟩, .mzero h0 ⟨1, 0, false, 5, 4, 0, 0⟩, .mdrn h0 ⟨1, 0, false, 5, 0x120, 4, 4⟩, .mwait h0 5 4,
   .atom h0 { atomO with d := 0x103 }, .priceq h0 0x103 1, .tickr h0 0x104 1, .spawn h0 { spawnO true with f := 0 },
   .spawn h0 { spawnO true with j := 7 }, .launch h0 ⟨false, 1, 15, 0x12B⟩]
theorem test_kind_refused : kindForms.all (fun i => !i.kindOk && !i.wellFormed) = true := by decide +kernel

/-- A run past v(VALLOT - 1) (R34 VREG); with VALLOT 24 the same instruction passes. -/
theorem test_vreg_refused : (kindCheck 8 (.iadd h0 ⟨20, 1, 2, 0, 0⟩)).isSome = true
    ∧ kindCheck 24 (.iadd h0 ⟨20, 1, 2, 0, 0⟩) = none := by decide +kernel

/-! ## Words that the spec writes out -/

def reads (gs : List Granule) (i : Instr) : Bool :=
  match decode true gs with
  | .ok j => decide (j = i)
  | .error _ => false

/-- R127, R141, R168, R194, R245 and the programs: one word or more for each family. -/
def familyWords : List (List Granule × Instr) :=
  [ ([0x01280009, 0x0020002C], .srd (hdr 2) 5 0x01),
    ([0x04180001, 0x2060200C], .cvt (hdr 0) ⟨1, 2, 3, 0, true, 0⟩),
    ([0x01A00006, 0x00001854, 0x0000604C], .red (hdr 1) ⟨0x10A, 9, 6, 0⟩ 1),
    ([0x00A00006, 0x000FE854, 0x0000201C], .shfr (hdr 1) ⟨0x10A, 3, 2, 0⟩ ⟨false, 0x7F, 0, false, false⟩),
    ([0x6028800A, 0x00410214, 0x00000004], .plop (hdr 2) ⟨0xC0, 2, 1, 2, 2, 0, 0, false⟩),
    ([0x0220029A, 0x00032854, 0x0000603C], .scan { guardBy false 1 with stall := 6 } ⟨0x10A, 7, 6, 0⟩ 2 true true),
    ([0x02A0000E, 0x00002854, 0x000028C4], .vote (hdr 3) ⟨0x10A, 0x118, 2, 0⟩ 2),
    ([0x0030001A, 0x0080380C, 0x00000004], .ldt (hdr 6) ⟨1, 7, 8, 0, false, 0⟩),
    ([0x00338001, 0x0000001C], .waitf (hdr 0) 3),
    ([0x003A0001, 0x0000061C], .revive (hdr 0) 3 3),
    ([0x013A8002, 0x00000424, 0x000008A4], .waitcap (hdr 0) ⟨false, 1, 4, 2, 0x114⟩),
    ([0x00C00283, 0x0000100C, 0x00002804, 0x00000024], .acpy (guardBy false 1) ⟨true, 0, 1, 2, 0, 0, 5, 0, 4⟩),
    ([0x00408013, 0x0060C81C, 0x0000C814, 0x00000064], .asto (hdr 4) ⟨false, 0, 3, 25, 6, 2, 25, 12, 0⟩),
    ([0x00C10001, 0x00000004], .twait (hdr 0) true 0),
    ([0x00410001, 0x00000004], .twait (hdr 0) false 0),
    ([0x00C20003, 0x0008A01C, 0x00086004, 0x00000004], .bcpy (hdr 0) ⟨true, 3, 0x114, 0, 0x10C⟩),
    ([0x00428013, 0x00B92014, 0x00098034, 0x00000004], .bput (hdr 4) ⟨2, 0x124, 11, 6, 0x130⟩),
    ([0x99C80003, 0x007A500C, 0x0008400C, 0x00085014], .mma (hdr 0) ⟨3, 3, true, 1, 0x128, false, 15, false, 1, 0x108, 2, 0x10A⟩),
    ([0x00490003, 0x00025A2C, 0x0009502C, 0x00000004], .msca (hdr 0) ⟨5, 0x12D, false, 0, 5, 0x12A⟩),
    ([0x104A8002, 0x00025C34, 0x00094034], .mdrn (hdr 0) ⟨0, 0, true, 6, 0x12E, 6, 0x128⟩),
    ([0x08500001, 0x00000004], .bar (hdr 0) ⟨0, 1, false⟩),
    ([0x10D18001, 0x00000004], .phase (hdr 0) ⟨1, 2, false⟩),
    ([0x00590001, 0x001168A4], .tickr (hdr 0) 0x114 0x116) ]
theorem test_family_words : familyWords.all (fun p => reads p.1 p.2) = true := by decide +kernel
/-- R94: SPAWN, OPC 0xC0, CF 1, P 3 at [8:3], F s8 at [17:9], J s4 at [26:18], OFF24 4 at [26:3], INA, INB and OUT none. -/
theorem test_spawn_word : encode (.spawn h0 { spawnO true with f := 0x108, off := 4, in0 := 0, in1 := 0, oute := 0 })
    = [0x00E00003, 0x0412101C, 0x00000024, 0x00000004] := by decide +kernel

/-! ## Single steps, with results from the tables and examples of the spec -/

/-- What a register of a lane settles to after an instruction. -/
def gives (s : State) (i : Instr) (lane key : Nat) : Option Word :=
  ((after i (issue i s)).crew? 0 0).bind fun k => (k.thread? lane).map fun t => t.final key
/-- Where the thread goes on. -/
def goesTo (s : State) (i : Instr) (lane : Nat) : Option Word :=
  ((after i (issue i s)).crew? 0 0).bind fun k => (k.thread? lane).map (·.pc)
def uni (s : State) (i : Instr) (key : Nat) : Option Word :=
  ((after i (issue i s)).crew? 0 0).map fun k => wget k.sregs key

/-- Lanes 0 and 1 hold 3 and 5 in v2, and 1 and -2 in v4 and v5; the mask of both is s10 : s11. -/
def crewV : Crew := crewOf [(2, 3), (4, 1), (5, 0x80000000), (6, 0x7FFFFFFF), (8, 0x40000000), (513, 1)]
  [(2, 5), (4, 0xFFFFFFFE), (5, 4), (6, 1), (8, 0x3F800000)] [(260, 7), (266, 3)]
def wI : State := world crewV id

theorem test_iadd_wraps : gives wI (.iadd h0 ⟨3, 6, 6, 0, 0⟩) 0 3 = some 0xFFFFFFFE := by decide +kernel
theorem test_iadd_saturates : gives wI (.iadd h0 ⟨3, 6, 6, 2, 0⟩) 0 3 = some 0x7FFFFFFF := by decide +kernel
theorem test_isub_order : gives wI (.isub h0 ⟨3, 2, 4, 0, 0⟩) 1 3 = some 7 := by decide +kernel
theorem test_imulh_signed : gives wI (.imulh h0 ⟨3, 4, 2, 0, 0⟩) 1 3 = some 0xFFFFFFFF := by decide +kernel
theorem test_iabs_least : gives wI (.iabs h0 ⟨3, 0, 5, 0, 0⟩) 0 3 = some 0x80000000 := by decide +kernel
theorem test_sar_sign : gives wI (.sarImm h0 ⟨3, 5, 4, 0, 0⟩) 0 3 = some 0xF8000000 := by decide +kernel
theorem test_brev : gives wI (.brev h0 ⟨3, 0, 2, 0, 0⟩) 0 3 = some 0xC0000000 := by decide +kernel
theorem test_clz : gives wI (.clz h0 ⟨3, 0, 2, 0, 0⟩) 0 3 = some 30 := by decide +kernel
theorem test_guard : gives wI (.movi hp1 ⟨3, 0, 9, 0, 0⟩) 0 3 = some 9 ∧ gives wI (.movi hp1 ⟨3, 0, 9, 0, 0⟩) 1 3 = some 0 := by
  decide +kernel
theorem test_uniform : uni wI (.iaddImm h0 ⟨0x105, 0x104, 2, 0, 0⟩) 0x105 = some 9 := by decide +kernel
/-- 2.0 + 1.0 and 1.0 x 1.0 + 1.0 (N26, R110); F32 2.0 to E4M3 (R114, R127). -/
theorem test_fadd : gives wI (.faddImm h0 ⟨3, 8, 0x3F800000, 0, 0⟩) 0 3 = some 0x40400000 := by decide +kernel
theorem test_fmul : gives wI (.fmul h0 ⟨3, 8, 8, 0, 0⟩) 0 3 = some 0x40800000 := by decide +kernel
theorem test_cvt : gives wI (.cvt h0 ⟨1, 8, 3, 0, true, 0⟩) 0 1 = some 0x40 ∧ gives wI (.cvt h0 ⟨1, 8, 3, 0, true, 0⟩) 1 1 = some 0x38 := by
  decide +kernel
/-- The table of "Worked use: runs in eight lanes": lane 0 has no lower lane and keeps its own, lane 1 gets lane 0's;
an exclusive SCAN gives 0 in the lowest lane and lane 0's value in lane 1. -/
theorem test_shfr : gives wI (.shfr h0 ⟨0x10A, 3, 2, 0⟩ ⟨false, 0x7F, 0, false, false⟩) 0 3 = some 3
    ∧ gives wI (.shfr h0 ⟨0x10A, 3, 2, 0⟩ ⟨false, 0x7F, 0, false, false⟩) 1 3 = some 3 := by decide +kernel
theorem test_scan : gives wI (.scan h0 ⟨0x10A, 3, 2, 0⟩ 0 true false) 0 3 = some 0
    ∧ gives wI (.scan h0 ⟨0x10A, 3, 2, 0⟩ 0 true false) 1 3 = some 3 := by decide +kernel
theorem test_ballot : uni wI (.vote h0 ⟨0x10A, 0x118, 1, 0⟩ 2) 0x118 = some 1 := by decide +kernel
theorem test_bra : goesTo wI (.bra h0 4) 0 = some 0x4010 ∧ goesTo wI (.bra hp1 4) 1 = some 0x4008 := by decide +kernel
theorem test_call : gives wI (.call h0 3 8) 0 3 = some 0x4008 ∧ goesTo wI (.call h0 3 8) 0 = some 0x4020 := by decide +kernel

/-- TRAP saves the PC, CODE and TRAPARG and goes to the handler of USER (R307, R326). -/
theorem test_trap : (let s := after trapI (issue trapI (worldOf (handled crew1 0)))
    (s.crew? 0 0).map fun k => (k.trap.handling, k.trap.hact, k.trap.frame.pc, k.trap.frame.cls))
    = some (true, 3, 0x4000, 7) ∧ goesTo (worldOf (handled crew1 0)) trapI 0 = some 0x4010 := by decide +kernel
/-- RETT.RETRY goes back to TRAPPC, RETT.SKIP behind it (R312). -/
theorem test_rett : goesTo (worldOf (crewR 7 1)) (rettI 0) 0 = some 0x4008 ∧ goesTo (worldOf (crewR 7 1)) (rettI 1) 0 = some 0x4010 := by
  decide +kernel
/-- Every thread retires, and the crew is HELD (R78). -/
theorem test_exit : ((after (.exit h0) (issue (.exit h0) w1)).crew? 0 0).map (fun k => (k.live, k.st)) = some (0, .held) := by
  decide +kernel
/-- STT writes element v7 = 0 of lane 0 and 8 of lane 1; LDT reads it back (R141, R142). -/
def storedW : State :=
  let i : Instr := .stt h0 ⟨1, 7, 1, 0, false, 0⟩
  { (later (after i (issue i w1))).drainLate 0 with cur := none }
/-- The crew stands at the next instruction, which issues, and its elements come. -/
def reloadW : State := storedW.modCore 0 fun c => { c with slots := [(0, crew1)] }
def loadI : Instr := .ldt h0 ⟨1, 7, 3, 0, false, 0⟩
def loadedW : State :=
  let s := after loadI (issue loadI reloadW)
  { s with cycle := 2 ^ 31 }.drainLate 0
theorem test_store_load : ((loadedW.crew? 0 0).bind fun k => (k.thread? 1).map fun t => t.final 3) = some 6 := by
  decide +kernel
/-- BAR with both members opens nothing itself: both wait for generation 1 (R260, R263). -/
theorem test_bar : ((arrivedW false).barOf key0).map (fun b => (b.opened, b.arrivals 1)) = some (0, 2) := by decide +kernel
/-- MZERO's tile is 0 once the operation completes (R239). -/
theorem test_mzero : (let s := after (.matrixOpComplete 0 false) (grantedW zeroI)
    ((s.tilesOf 0 0).tile 1).vals) = [] := by decide +kernel
/-- A generation that is full opens (R263). -/
theorem test_generation : ((after (.generationOpen key0) (arrivedW false)).barOf key0).map (·.opened) = some 1 := by
  decide +kernel
/-- NOP, placed for the next step, is followed by zeros, which are padding up to the end of the code (R17). -/
theorem test_placed_word : (match step (State.reset.withFetchWord 64 0x0000000400008001) with
    | .next s => (s.crew? 0 0).bind fun k => (k.thread? 63).map fun (t : Thread) => t.pc
    | _ => none) = some 0x5000 := by decide +kernel

end Sys2Proof.Tests
end

/-! Register results (R19, R22, R29, R30, R108): what the writes of an instruction do to the crew that issues it, the
values that the integer group, the moves and the cross-lane instructions write, and the statement IntegerAndMoves. -/

namespace Sys2Proof.Machine

/-! ## Lane sets -/

theorem lowLane_mem {m : Mask} (h : m ≠ 0) : m.getLsbD (lowLane m) = true := by
  obtain ⟨l, ls, hl⟩ := List.exists_cons_of_ne_nil (lanesOf_ne_nil h)
  exact lowest_mem (by simp [lowLane, hl])

theorem maskFilter_congr {m : Mask} {p q : Nat → Bool} (h : ∀ l, m.getLsbD l = true → p l = q l) :
    maskFilter m p = maskFilter m q := by
  apply mask_ext
  intro l
  rw [getLsbD_maskFilter, getLsbD_maskFilter]
  cases hl : m.getLsbD l with
  | false => rfl
  | true => rw [h l hl]

theorem holding_eq_false {k : Crew} {h : Hdr} {m : Mask} {l : Nat} (hl : m.getLsbD l = false) :
    (k.holding h m).getLsbD l = false :=
  Bool.eq_false_iff.mpr fun hc => absurd (holding_sub hc) (Bool.eq_false_iff.mp hl)

/-! ## Operand codes -/

theorem rsvdOk_of_wellFormed {i : Instr} (hwf : i.wellFormed = true) : i.rsvdOk = true :=
  (Bool.and_eq_true_iff.mp (Bool.and_eq_true_iff.mp hwf).1).1

/-- A pair of registers keeps to its file. -/
theorem pair_of_isEven {d : RegCode} (hd : d.isEven = true) : (d + 1).toNat = d.toNat + 1 ∧ (d + 1).isS = d.isS := by
  have hlt := d.isLt
  simp only [RegCode.isEven, decide_eq_true_eq] at hd
  have hnext : (d + 1).toNat = d.toNat + 1 := by
    rw [BitVec.toNat_add, Nat.mod_eq_of_lt]
    · rfl
    · change d.toNat + 1 < 2 ^ 9
      omega
  refine ⟨hnext, ?_⟩
  rw [RegCode.isS, RegCode.isS, hnext, decide_eq_decide]
  omega

/-! ## Outstanding writes and what a thread reads -/

/-- What a thread shows to the instruction that it executes: its state and the registers as they read (R30). -/
def Thread.reads (t : Thread) : TState × (Nat → Word) := (t.st, t.read)

theorem newestReady_append (k : Nat) (ps : List Pend) (p : Pend) (h : 0 < p.left) :
    newestReady k (ps ++ [p]) = newestReady k ps := by
  induction ps with
  | nil => simp [newestReady, h.ne']
  | cons q ps ih => simp only [List.cons_append, newestReady, ih]

/-- A write at a latency changes nothing that is read before the latency has passed. -/
theorem Thread.reads_write (t : Thread) (key : Nat) (v : Word) {lat : Nat} (h : 0 < lat) :
    (t.write key v lat).reads = t.reads := by
  have hread : (t.write key v lat).read = t.read := by
    funext j
    rw [Thread.read, Thread.write, newestReady_append _ _ _ h]
    rfl
  rw [Thread.reads, hread]
  rfl

theorem Thread.final_write (t : Thread) (key : Nat) (v : Word) (lat j : Nat) :
    (t.write key v lat).final j = (if j = key then some v else none).getD (t.final j) := by
  by_cases hj : j = key
  · rw [if_pos hj, hj, t.final_write_same]; rfl
  · rw [if_neg hj, t.final_write_ne v lat hj]; rfl

/-- The threads of another crew show the same. -/
def Crew.ReadsAs (k k1 : Crew) : Prop := ∀ l, (k1.thread? l).map Thread.reads = (k.thread? l).map Thread.reads

theorem Crew.ReadsAs.map {α : Type} {k k1 : Crew} (h : k.ReadsAs k1) (f : TState × (Nat → Word) → α) (l : Nat) :
    (k1.thread? l).map (fun t => f t.reads) = (k.thread? l).map fun t => f t.reads := by
  have := congrArg (Option.map f) (h l)
  rwa [Option.map_map, Option.map_map] at this

theorem Crew.ReadsAs.thread {k k1 : Crew} (h : k.ReadsAs k1) {l : Nat} {t : Thread} (ht : k.thread? l = some t) :
    ∃ t1, k1.thread? l = some t1 ∧ t1.reads = t.reads := by
  have := h l
  rwa [ht, Option.map_some, Option.map_eq_some_iff] at this

theorem Crew.ReadsAs.allReady {k k1 : Crew} (h : k.ReadsAs k1) {m : Mask} (hm : k.AllReady m) : k1.AllReady m := by
  intro l hl
  obtain ⟨t, ht, hst⟩ := hm l hl
  obtain ⟨t1, ht1, hr⟩ := h.thread ht
  exact ⟨t1, ht1, (congrArg Prod.fst hr).trans hst⟩

theorem Thread.guard_of_reads {t t1 : Thread} (h : t1.reads = t.reads) (hd : Hdr) : t1.guard hd = t.guard hd := by
  have hread : t1.read = t.read := congrArg Prod.snd h
  simp only [Thread.guard, Thread.pred, hread]

/-- Which guards hold depends on what the threads show. -/
theorem Crew.ReadsAs.holding {k k1 : Crew} (h : k.ReadsAs k1) {m : Mask} (hm : k.AllReady m) (hd : Hdr) :
    k1.holding hd m = k.holding hd m := by
  apply mask_ext
  intro l
  cases hl : m.getLsbD l with
  | true =>
    obtain ⟨t, ht, hst⟩ := hm l hl
    obtain ⟨t1, ht1, hr⟩ := h.thread ht
    rw [getLsbD_holding hl ht hst, getLsbD_holding hl ht1 ((congrArg Prod.fst hr).trans hst), t.guard_of_reads hr]
  | false =>
    rw [holding_eq_false hl, holding_eq_false hl]

/-- A change of lanes that shows in none of them. -/
theorem Crew.readsAs_modLanes (k : Crew) (m : Mask) {f : Nat → Thread → Thread}
    (hf : ∀ l t, (f l t).reads = t.reads) : k.ReadsAs (k.modLanes m f) := by
  intro l
  rw [thread?_modLanes, Option.map_map]
  congr 1
  funext t
  simp only [Function.comp_apply]
  split
  · exact hf l t
  · rfl

theorem Crew.laneReg_of_thread {k : Crew} {l : Nat} {t : Thread} (a : RegCode) (ht : k.thread? l = some t) :
    k.laneReg a l = t.reg a := by
  rw [Crew.laneReg, ht]

theorem Crew.laneReg_eq (k : Crew) (a : RegCode) (l : Nat) :
    k.laneReg a l = ((k.thread? l).map (·.reg a)).getD 0 := by
  unfold Crew.laneReg
  cases k.thread? l <;> rfl

theorem Crew.ReadsAs.map_reg {k k1 : Crew} (h : k.ReadsAs k1) (a : RegCode) (l : Nat) :
    (k1.thread? l).map (·.reg a) = (k.thread? l).map (·.reg a) := h.map (fun p => p.2 a.toNat) l

theorem Crew.ReadsAs.laneReg {k k1 : Crew} (h : k.ReadsAs k1) (a : RegCode) (l : Nat) :
    k1.laneReg a l = k.laneReg a l := by
  rw [Crew.laneReg_eq, Crew.laneReg_eq, h.map_reg]

theorem Crew.ballot_eq (k : Crew) (on : Mask) (q : PIdx) :
    k.ballot on q = maskFilter on fun l => ((k.thread? l).map (·.pred q)).getD false := by
  unfold Crew.ballot
  congr 1
  funext l
  cases k.thread? l <;> rfl

theorem Crew.ReadsAs.ballot {k k1 : Crew} (h : k.ReadsAs k1) (on : Mask) (q : PIdx) :
    k1.ballot on q = k.ballot on q := by
  have hlane : ∀ l, (k1.thread? l).map (·.pred q) = (k.thread? l).map (·.pred q) :=
    h.map fun p => decide (p.2 (pKey q) ≠ 0)
  simp only [Crew.ballot_eq, hlane]

/-! ## Groups of one crew -/

/-- A group of one crew, whose threads are READY. -/
structure OneCrew (X : State) (g : Group) (k : Crew) : Prop where
  parts : g.parts = [(g.slot, g.mask)]
  crew : X.crew? g.core g.slot = some k
  ready : k.AllReady g.mask

theorem Passes.oneCrew {s : State} {i : Instr} {h : Hdr} {g : Group} {k : Crew} {price : Nat}
    (hr : Passes s i h g k price) : OneCrew (s.begun i g) g (s.begunCrew i g k) :=
  ⟨hr.parts, hr.begun_crew, hr.allReady_begun⟩

theorem begunCrew_finalCtl (s : State) (i : Instr) (g : Group) (k : Crew) :
    (s.begunCrew i g k).finalCtl = k.finalCtl := by
  unfold State.begunCrew; simp only; split <;> rfl

/-- A predicate result in a crew. -/
def Crew.writePred (k : Crew) (h : Hdr) (m : Mask) (p : PIdx) (lat : Nat) (f : Nat → Crew → Thread → Bool) : Crew :=
  k.modLanes (k.holding h m) fun l t => t.write (pKey p) (BitVec.ofNat 32 (f l k t).toNat) lat

theorem writeP_one (s : State) {g : Group} (hp : g.parts = [(g.slot, g.mask)]) (h : Hdr) (p : PIdx) (lat : Nat)
    (f : Nat → Crew → Thread → Bool) :
    s.writeP g h p lat f = s.modCrew g.core g.slot fun k => k.writePred h g.mask p lat f := by
  unfold State.writeP
  rw [hp]
  rfl

end Sys2Proof.Machine

namespace Sys2Proof.Claims

open Sys2Proof.Machine

/-! ## Words by their bits (R107, R115) -/

/-- The sum of the powers of two at which `f` holds has the bits that `f` gives. -/
theorem testBit_sum_bits (f : Nat → Bool) (n : Nat) :
    (List.range n).foldl (fun v i => v + 2 ^ i * (f i).toNat) 0 < 2 ^ n
      ∧ ∀ i, ((List.range n).foldl (fun v i => v + 2 ^ i * (f i).toNat) 0).testBit i = (decide (i < n) && f i) := by
  induction n with
  | zero => simp
  | succ n ih =>
    obtain ⟨hlt, hbit⟩ := ih
    rw [List.range_succ, List.foldl_append, List.foldl_cons, List.foldl_nil, Nat.add_comm]
    have hb : (f n).toNat ≤ 1 := Bool.toNat_le (f n)
    refine ⟨by rw [pow_succ]; nlinarith, fun i => ?_⟩
    rw [Nat.testBit_two_pow_mul_add _ hlt, hbit]
    rcases lt_trichotomy i n with h | rfl | h
    · simp [h, h.trans (Nat.lt_succ_self n)]
    · cases f i <;> simp
    · have hz : (f n).toNat.testBit (i - n) = false :=
        Nat.testBit_lt_two_pow (lt_of_le_of_lt hb (Nat.one_lt_two_pow (by omega)))
      simp [h.not_gt, hz, show ¬ i < n + 1 by omega]

theorem getLsbD_ofBits (f : Nat → Bool) (i : Nat) (hi : i < 32) : (ofBits f).getLsbD i = f i := by
  rw [ofBits, BitVec.getLsbD_ofNat, (testBit_sum_bits f 32).2]
  simp [hi]

/-- A word is the word of its bits. -/
theorem eq_ofBits {x : Word} {f : Nat → Bool} (h : ∀ i, i < 32 → x.getLsbD i = f i) : x = ofBits f :=
  BitVec.eq_of_getLsbD_eq fun i hi => by rw [h i hi, getLsbD_ofBits f i hi]

/-- Bits of a number of which a field has been replaced. -/
theorem testBit_setBits (v lo len x i : Nat) :
    (setBits v lo len x).testBit i = if lo ≤ i ∧ i < lo + len then x.testBit (i - lo) else v.testBit i := by
  have hlo : v % 2 ^ lo < 2 ^ lo := Nat.mod_lt _ (Nat.two_pow_pos lo)
  have hx : x % 2 ^ len < 2 ^ len := Nat.mod_lt _ (Nat.two_pow_pos len)
  have hcat : setBits v lo len x = 2 ^ lo * (2 ^ len * (v / 2 ^ (lo + len)) + x % 2 ^ len) + v % 2 ^ lo := by
    unfold setBits; rw [pow_add]; ring
  rw [hcat, Nat.testBit_two_pow_mul_add _ hlo, Nat.testBit_two_pow_mul_add _ hx, Nat.testBit_mod_two_pow,
    Nat.testBit_mod_two_pow, Nat.testBit_div_two_pow]
  rcases lt_or_ge i lo with h | h
  · simp [h]
  · rcases lt_or_ge i (lo + len) with h' | h'
    · simp [h, h', show i - lo < len by omega]
    · simp [h.not_gt, h'.not_gt, show ¬ i - lo < len by omega, show i - lo - len + (lo + len) = i by omega]

/-- A field of `w` bits, read with the sign that its highest bit gives or without. -/
theorem ofInt_field (sx : Bool) {w e : Nat} (hw : 0 < w) (he : e < 2 ^ w) :
    (if sx && bitOf e (w - 1) then BitVec.ofInt 32 ((e : Int) - (2 ^ w : Nat)) else BitVec.ofNat 32 e)
      = (BitVec.ofInt 32 (if sx = true ∧ 2 ^ (w - 1) ≤ e then (e : Int) - 2 ^ w else e) : Word) := by
  have hbit : bitOf e (w - 1) = decide (2 ^ (w - 1) ≤ e) := by
    rw [bitOf, ← Nat.testBit_eq_decide_div_mod_eq]
    by_cases h : 2 ^ (w - 1) ≤ e
    · simp [h, Nat.testBit_of_two_pow_le_and_two_pow_add_one_gt h (by rwa [Nat.sub_add_cancel hw])]
    · simp [h, Nat.testBit_lt_two_pow (not_le.mp h)]
  simp only [hbit, Bool.and_eq_true, decide_eq_true_eq]
  split
  · norm_cast
  · exact (BitVec.ofInt_natCast 32 e).symm

/-! ## The functions of R107 -/

theorem num_injective {u : Bool} {a b : Word} (h : num u a = num u b) : a = b := by
  cases u
  · exact BitVec.eq_of_toInt_eq h
  · exact BitVec.eq_of_toNat_eq (Int.ofNat_inj.mp h)

/-- The model's order of two patterns is the order of the numbers that they stand for. -/
theorem icmp_eq (u : Bool) (a b : Word) :
    icmp u a b = if num u a < num u b then -1 else if num u b < num u a then 1 else 0 := rfl

theorem icmp_lt_zero (u : Bool) (a b : Word) : icmp u a b < 0 ↔ num u a < num u b := by
  rw [icmp_eq]; split_ifs <;> simp_all

theorem icmp_pos (u : Bool) (a b : Word) : 0 < icmp u a b ↔ num u b < num u a := by
  rw [icmp_eq]; split_ifs <;> simp_all [le_of_lt]

theorem icmp_zero (u : Bool) (a b : Word) : icmp u a b = 0 ↔ num u a = num u b := by
  rw [icmp_eq]; split_ifs <;> simp_all [ne_of_gt, ne_of_lt, le_antisymm_iff]

/-- The conditions of ISET (R106, R107). -/
theorem condHolds_icmp (c : Nat) (u : Bool) (a b : Word) : condHolds c (icmp u a b) = compares c u a b := by
  unfold condHolds compares
  split <;> simp only [ne_eq, icmp_zero, icmp_lt_zero, icmp_pos, ← not_lt]

theorem clampInt_eq {lo hi : Int} (h : lo ≤ hi) (x : Int) : clampInt lo hi x = max lo (min hi x) := by
  unfold clampInt; omega

theorem clamp_signed (x : Int) : clamp false x = clampS x := by
  rw [clampS, clampInt_eq (by decide)]; rfl

theorem clamp_unsigned (x : Int) : clamp true x = clampZ x := by
  rw [clampZ, clampInt_eq (by decide)]; rfl

section
variable (m : BitVec 3) (u sat : Bool) (a b d : Word)

theorem fnAdd_eq : fnAdd m a b = r107 0x00 (m.getLsbD 0) (m.getLsbD 1) a b d := by
  unfold fnAdd modSat modU r107
  cases m.getLsbD 0
  · simp [clamp_signed, num]
  · simp [clamp_unsigned, num]

theorem fnSub_eq : fnSub m a b = r107 0x01 (m.getLsbD 0) (m.getLsbD 1) a b d := by
  unfold fnSub modSat modU r107
  cases m.getLsbD 0
  · simp [clamp_signed, num]
  · simp [clamp_unsigned, num]

theorem fnMulh_eq : fnMulh m a b = r107 0x03 (m.getLsbD 0) (m.getLsbD 1) a b d := by
  unfold fnMulh modU r107
  cases m.getLsbD 0
  · rfl
  · exact (BitVec.ofInt_natCast 32 (a.toNat * b.toNat / 2 ^ 32)).symm

theorem fnMin_eq : fnMin m a b = r107 0x05 (m.getLsbD 0) (m.getLsbD 1) a b d := by
  change _ = if num (modU m) a ≤ num (modU m) b then a else b
  simp only [fnMin, icmp_lt_zero]
  by_cases h : num (modU m) b < num (modU m) a
  · rw [if_pos h, if_neg h.not_ge]
  · rw [if_neg h, if_pos (not_lt.mp h)]

/-- The model takes b where a is smaller, the table also for equal numbers: those are one pattern. -/
theorem fnMax_eq : fnMax m a b = r107 0x06 (m.getLsbD 0) (m.getLsbD 1) a b d := by
  change _ = if num (modU m) a ≤ num (modU m) b then b else a
  simp only [fnMax, icmp_lt_zero]
  rcases lt_trichotomy (num (modU m) a) (num (modU m) b) with h | h | h
  · rw [if_pos h, if_pos h.le]
  · rw [num_injective h, ite_self, ite_self]
  · rw [if_neg h.not_gt, if_neg h.not_ge]

theorem fnAbs_eq : fnAbs b = r107 0x07 u sat a b d := by
  change _ = BitVec.ofInt 32 (b.toInt.natAbs : Int)
  unfold fnAbs
  split
  · rename_i h
    rw [Int.ofNat_natAbs_of_nonpos h.le, BitVec.ofInt_neg, BitVec.ofInt_toInt]
    exact BitVec.zero_sub b
  · rename_i h
    rw [Int.natAbs_of_nonneg (not_lt.mp h), BitVec.ofInt_toInt]

theorem fnShl_eq : fnShl a b = r107 0x0C u sat a b d := by
  change _ = if b.toNat < 32 then BitVec.ofNat 32 (a.toNat * 2 ^ b.toNat) else 0
  rw [fnShl, ← Nat.shiftLeft_eq]
  rfl

theorem fnShr_eq : fnShr a b = r107 0x0D u sat a b d := by
  change _ = if b.toNat < 32 then BitVec.ofNat 32 (a.toNat / 2 ^ b.toNat) else 0
  rw [fnShr, ← Nat.shiftRight_eq_div_pow, ← BitVec.toNat_ushiftRight, BitVec.ofNat_toNat, BitVec.setWidth_eq]

theorem sshiftRight_eq_ofInt (n : Nat) : a.sshiftRight n = BitVec.ofInt 32 (a.toInt / 2 ^ n) := by
  rw [BitVec.sshiftRight, Int.shiftRight_eq_div_pow]; rfl

/-- A shift by 31 leaves the sign alone, as the table says for every distance from 32 on. -/
theorem fnSar_eq : fnSar a b = r107 0x0E u sat a b d := by
  change _ = if b.toNat < 32 then BitVec.ofInt 32 (a.toInt / 2 ^ b.toNat)
    else if a.toInt < 0 then 0xFFFFFFFF else 0
  have hlo := BitVec.le_toInt a
  have hhi := BitVec.toInt_lt (x := a)
  rw [fnSar, sshiftRight_eq_ofInt]
  by_cases h : b.toNat < 32
  · rw [if_pos h, min_eq_left (by omega)]
  · rw [if_neg h, min_eq_right (by omega)]
    split
    · rw [show a.toInt / 2 ^ 31 = -1 by omega]; rfl
    · rw [show a.toInt / 2 ^ 31 = 0 by omega]; rfl

theorem fnBfx_eq : fnBfx m a b = r107 0x0F (m.getLsbD 0) (m.getLsbD 1) a b d := by
  change (if len b = 0 then 0 else if (!modU m && bitOf (a.toNat / 2 ^ pos b % 2 ^ len b) (len b - 1)) = true then _
    else _) = if len b = 0 then (0 : Word) else _
  by_cases h : len b = 0
  · rw [if_pos h, if_pos h]
  · rw [if_neg h, if_neg h]
    have := ofInt_field (!modU m) (Nat.pos_of_ne_zero h) (Nat.mod_lt (a.toNat / 2 ^ pos b) (Nat.two_pow_pos (len b)))
    simp only [Bool.not_eq_true'] at this
    exact this

theorem fnBfi_eq : fnBfi a b d = r107 0x10 u sat a b d := by
  refine eq_ofBits fun i hi => ?_
  simp only [fnBfi, BitVec.getLsbD_ofNat, testBit_setBits, hi, decide_true, Bool.true_and]
  rfl

theorem fnPopc_eq : fnPopc b = r107 0x11 u sat a b d := by
  change _ = BitVec.ofNat 32 ((List.range 32).countP fun i => b.getLsbD i)
  rw [fnPopc, List.countP_eq_length_filter]

/-- How far a property holds from 0 on: up to the first index where it does not. -/
theorem length_takeWhile_range {p : Nat → Bool} {m n : Nat} (hp : ∀ i, i < m → p i = true)
    (hm : m = n ∨ m < n ∧ p m = false) : ((List.range n).takeWhile p).length = m := by
  have hlt : ∀ i ∈ List.range m, p i = true := fun i hi => hp i (List.mem_range.mp hi)
  rcases hm with rfl | ⟨h, hpm⟩
  · rw [List.takeWhile_eq_self_iff.mpr hlt, List.length_range]
  · obtain ⟨r, rfl⟩ := Nat.exists_eq_add_of_lt h
    rw [Nat.add_assoc, List.range_add, List.takeWhile_append_of_pos hlt, List.range_succ_eq_map]
    simp [hpm]

theorem fnClz_eq : fnClz b = r107 0x12 u sat a b d := by
  change _ = BitVec.ofNat 32 ((List.range 32).takeWhile fun i => !b.getLsbD (31 - i)).length
  unfold fnClz
  split
  · rename_i h
    rw [length_takeWhile_range (m := 32) (by simp [h]) (.inl rfl)]
  · rename_i h
    have hb : b.toNat ≠ 0 := fun hz => h (BitVec.eq_of_toNat_eq hz)
    have hlog : b.toNat.log2 < 32 := (Nat.log2_lt hb).mpr b.isLt
    rw [length_takeWhile_range (m := 31 - b.toNat.log2)]
    · intro i hi
      have hlow : b.toNat < 2 ^ (31 - i) := (Nat.log2_lt hb).mp (by omega)
      rw [BitVec.getLsbD, Nat.testBit_lt_two_pow hlow]; rfl
    · right
      refine ⟨by omega, ?_⟩
      rw [show 31 - (31 - b.toNat.log2) = b.toNat.log2 by omega, BitVec.getLsbD, Nat.testBit_log2 hb]; rfl

/-- Bits shifted in from below come out in the opposite order. -/
theorem testBit_shiftIn (f : Nat → Bool) (n i : Nat) :
    ((List.range n).foldl (fun acc i => 2 * acc + (f i).toNat) 0).testBit i = (decide (i < n) && f (n - 1 - i)) := by
  induction n generalizing i with
  | zero => simp
  | succ n ih =>
    rw [List.range_succ, List.foldl_append, List.foldl_cons, List.foldl_nil]
    have := Nat.testBit_two_pow_mul_add ((List.range n).foldl (fun acc i => 2 * acc + (f i).toNat) 0) (i := 1)
      (Bool.toNat_lt (f n)) i
    rw [pow_one] at this
    rw [this, ih]
    cases i with
    | zero => cases hf : f n <;> simp [hf]
    | succ i => simp [show n - 1 - i = n - (i + 1) by omega]

theorem fnBrev_eq : fnBrev b = r107 0x13 u sat a b d := by
  refine eq_ofBits fun i hi => ?_
  rw [fnBrev, BitVec.getLsbD_ofNat, testBit_shiftIn (fun i => b.getLsbD i)]
  simp [hi]

end

/-! ## Register results in a crew -/

/-- One key, of which a lane gets what `f` makes of the crew, of the lanes whose guard holds, and of the lane. -/
def Result.single (h : Hdr) (key : Nat) (uni : Bool) (f : Machine.Crew → Mask → Nat → Thread → Word) : Result :=
  { h := h, uni := uni, regs := fun k on l t j => if j = key then some (f k on l t) else Option.none }

/-- Register results alone: sequential flow, and nothing else changes. -/
def Result.Plain (r : Result) : Prop := r = { h := r.h, uni := r.uni, regs := r.regs }

/-- The values depend on what the threads show. -/
def Result.ByReads (r : Result) : Prop :=
  ∀ (k k1 : Machine.Crew) on l (t t1 : Thread) key, k.ReadsAs k1 → t1.read = t.read →
    r.regs k1 on l t1 key = r.regs k on l t key

/-- `k1` is the crew `k` with the register results of threads `m` outstanding. -/
structure Result.Wrote (r : Result) (m : Mask) (k k1 : Machine.Crew) : Prop where
  frame : ∃ ts rs, k1 = { k with threads := ts, sregs := rs }
  reads : k.ReadsAs k1
  out : ∀ l, m.getLsbD l = false → k1.thread? l = k.thread? l
  sregs : ∀ l t, m.getLsbD l = true → k.thread? l = some t → ∀ key,
    wget k1.sregs key = (if r.uni then r.common k m l t key else Option.none).getD (wget k.sregs key)
  lanes : ∀ l t t1, m.getLsbD l = true → k.thread? l = some t → k1.thread? l = some t1 → ∀ key,
    t1.final key = (r.common k m l t key).getD (t.final key)

section
variable {r : Result} {m : Mask} {k k1 : Machine.Crew} {h : Hdr} {lat : Nat}

/-- What a key gets depends on what the threads show. -/
theorem Result.ByReads.common (hb : r.ByReads) (hk : k.ReadsAs k1) (hm : k.AllReady m) {l : Nat} {t t1 : Thread}
    (ht : t1.reads = t.reads) (key : Nat) : r.common k1 m l t1 key = r.common k m l t key := by
  unfold Result.common
  simp only [hk.holding hm, t.guard_of_reads ht, hb k k1 _ l t t1 key hk (congrArg Prod.snd ht)]
  split
  · split
    · rfl
    · rename_i hon
      obtain ⟨u, hu, -⟩ := hm _ (holding_sub (lowLane_mem hon))
      obtain ⟨u1, hu1, hr⟩ := hk.thread hu
      rw [hu, hu1]
      exact hb k k1 _ _ u u1 key hk (congrArg Prod.snd hr)
  · rfl

/-- Where no key gets anything, the crew stays as it is. -/
theorem Result.wrote_self
    (hn : ∀ l t key, m.getLsbD l = true → k.thread? l = some t → r.common k m l t key = Option.none) :
    r.Wrote m k k where
  frame := ⟨k.threads, k.sregs, rfl⟩
  reads _ := rfl
  out _ _ := rfl
  sregs l t hl ht key := by rw [hn l t key hl ht, ite_self]; rfl
  lanes l t t1 hl ht ht1 key := by
    obtain rfl : t = t1 := Option.some.inj (ht.symm.trans ht1)
    rw [hn l t key hl ht]; rfl

/-- A write of one key in the threads whose guard holds. -/
theorem Result.wrote_lanes (hm : k.AllReady m) (hlat : 0 < lat) (key : Nat)
    (f : Machine.Crew → Mask → Nat → Thread → Word) :
    (Result.single h key false f).Wrote m k
      (k.modLanes (k.holding h m) fun l t => t.write key (f k (k.holding h m) l t) lat) where
  frame := ⟨_, k.sregs, rfl⟩
  reads := k.readsAs_modLanes _ fun l t => t.reads_write _ _ hlat
  out l hl := by simp [thread?_modLanes, holding_eq_false hl]
  sregs l t hl ht key := rfl
  lanes l t t1 hl ht ht1 j := by
    obtain ⟨u, hu, hst⟩ := hm l hl
    obtain rfl : t = u := Option.some.inj (ht.symm.trans hu)
    rw [thread?_modLanes, ht, Option.map_some, getLsbD_holding hl ht hst, Option.some.injEq] at ht1
    subst ht1
    by_cases hg : t.guard h = true
    · simp [Result.common, Result.single, hg, Thread.final_write]
    · simp [Result.common, Result.single, hg]

/-- A write of an s register: every thread of the group will see it, also one whose guard does not hold (log 69). -/
theorem Result.wrote_writeS (hlat : 0 < lat) (key : Nat) (v : Word)
    (hv : ∀ l t j, r.common k m l t j = if j = key then some v else Option.none) (hu : r.uni = true) :
    r.Wrote m k (k.writeS m key v lat) where
  frame := ⟨_, _, rfl⟩
  reads := Machine.Crew.readsAs_modLanes { k with sregs := tset k.sregs key v } m fun _ t => t.reads_write _ _ hlat
  out l hl := by
    rw [Machine.Crew.writeS, thread?_modLanes]
    simp only [hl, Bool.false_eq_true, if_false, Option.map_id']
    rfl
  sregs l t hl ht j := by
    rw [hu, if_pos rfl, hv]
    change wget (tset k.sregs key v) j = _
    by_cases hj : j = key
    · subst hj
      simp [wget_tset_same]
    · simp [hj, wget_tset_ne _ v hj]
  lanes l t t1 hl ht ht1 j := by
    have ht' : ({ k with sregs := tset k.sregs key v } : Machine.Crew).thread? l = some t := ht
    rw [Machine.Crew.writeS, thread?_modLanes, ht', Option.map_some, if_pos hl, Option.some.injEq] at ht1
    subst ht1
    rw [hv, Thread.final_write]

theorem Result.wrote_writeRes (hm : k.AllReady m) (hlat : 0 < lat) (d : RegCode)
    (f : Machine.Crew → Mask → Nat → Thread → Word) :
    (Result.single h d.toNat d.isS f).Wrote m k (k.writeRes h m d lat fun l k t => f k (k.holding h m) l t) := by
  unfold Machine.Crew.writeRes
  cases hd : d.isS with
  | false => exact Result.wrote_lanes hm hlat _ f
  | true =>
    simp only [if_true]
    by_cases hon : k.holding h m = 0
    · have hself : (Result.single h d.toNat true f).Wrote m k k :=
        Result.wrote_self fun l t key _ _ => by simp [Result.common, Result.single, hon]
      split
      · rwa [if_pos hon]
      · exact hself
    · obtain ⟨u, hu, -⟩ := hm _ (holding_sub (lowLane_mem hon))
      rw [hu]
      simp only [if_neg hon]
      refine Result.wrote_writeS hlat _ _ (fun l t j => ?_) rfl
      simp only [Result.common, Result.single, if_true, if_neg hon, hu, Option.bind_some]

/-! ### Results one after another -/

/-- What `R` gives is what `r` gives, overridden by what `r'` gives. -/
structure Result.Joins (R r r' : Result) : Prop where
  hdr : r.h = R.h ∧ r'.h = R.h
  uni : r.uni = R.uni ∧ r'.uni = R.uni
  regs : ∀ (k : Machine.Crew) on l t key, R.regs k on l t key = (r'.regs k on l t key).or (r.regs k on l t key)

theorem Result.Joins.common {R r r' : Result} (hj : R.Joins r r') (k : Machine.Crew) (m : Mask) (l : Nat) (t : Thread)
    (key : Nat) : R.common k m l t key = (r'.common k m l t key).or (r.common k m l t key) := by
  unfold Result.common
  rw [hj.hdr.1, hj.hdr.2, hj.uni.1, hj.uni.2]
  simp only
  split
  · split
    · rfl
    · cases k.thread? (lowLane (k.holding R.h m)) with
      | none => rfl
      | some u => exact hj.regs ..
  · split
    · exact hj.regs ..
    · rfl

/-- Writes of one instruction after another: the later prevails. -/
theorem Result.Wrote.join {R r' : Result} {k2 : Machine.Crew} (hw : r.Wrote m k k1) (hw' : r'.Wrote m k1 k2)
    (hj : R.Joins r r') (hb : r'.ByReads) (hm : k.AllReady m) : R.Wrote m k k2 where
  frame := by
    obtain ⟨ts, rs, rfl⟩ := hw.frame
    obtain ⟨ts', rs', rfl⟩ := hw'.frame
    exact ⟨ts', rs', rfl⟩
  reads l := (hw'.reads l).trans (hw.reads l)
  out l hl := (hw'.out l hl).trans (hw.out l hl)
  sregs l t hl ht key := by
    obtain ⟨t1, ht1, hr⟩ := hw.reads.thread ht
    rw [hw'.sregs l t1 hl ht1, hw.sregs l t hl ht, hb.common hw.reads hm hr, hj.common, hj.uni.1, hj.uni.2]
    split
    · cases r'.common k m l t key <;> rfl
    · rfl
  lanes l t t2 hl ht ht2 key := by
    obtain ⟨t1, ht1, hr⟩ := hw.reads.thread ht
    rw [hw'.lanes l t1 t2 hl ht1 ht2, hw.lanes l t t1 hl ht ht1, hb.common hw.reads hm hr, hj.common]
    cases r'.common k m l t key <;> rfl

/-! ### What an instruction with register results does -/

theorem Result.Plain.dest (hp : r.Plain) (g : Group) (k : Machine.Crew) : r.dest g k = fun _ => g.next := by
  funext l
  unfold Result.dest
  rw [hp]
  split
  · rw [ite_self]; rfl
  · rfl

/-- The crew that issues, with its results outstanding and after going on, is the crew that a plain result describes. -/
theorem Result.Wrote.crew {s : State} {i : Instr} {x : Context} {g : Group}
    (hw : r.Wrote g.mask (s.begunCrew i g k) k1) (hp : r.Plain) (hb : r.ByReads) (hm : k.AllReady g.mask)
    (hne : g.mask ≠ 0) (now : Nat) : r.Crew x g k (k1.after x g r.h now (fun _ => g.next) false) := by
  have hgoto : r.goto = fun _ => Option.none := by rw [hp]
  have hctl : r.ctl = fun _ _ => [] := by rw [hp]
  have hown : r.own = fun _ _ => Option.none := by rw [hp]
  have hsame := begunCrew_thread? s i g k
  have hreads : k.ReadsAs (s.begunCrew i g k) := fun l => by rw [hsame]
  have hready : k1.AllReady g.mask := hw.reads.allReady (hreads.allReady hm)
  refine ⟨?_, fun key => ?_, fun l hl => ?_, fun l t hl ht => ?_⟩
  · obtain ⟨ts, rs, rfl⟩ := hw.frame
    rw [Machine.Crew.after, finalCtl_wentOn, hctl, ite_self]
    exact begunCrew_finalCtl s i g k
  · obtain ⟨t, ht, -⟩ := hm _ (lowLane_mem hne)
    rw [Machine.Crew.after, sregs_wentOn, hw.sregs _ t (lowLane_mem hne) ((hsame _).trans ht), ht,
      hb.common hreads hm rfl, begunCrew_sregs]
    rfl
  · rw [Machine.Crew.after, thread?_wentOn hready, ← hsame, ← hw.out l hl]
    simp [hl]
  · have ht' := (hsame l).trans ht
    obtain ⟨t1, ht1, -⟩ := hw.reads.thread ht'
    have hlane := thread?_wentOn hready (fun _ => x.start g.next) r.h.stall.toNat now
      (nextIssue now r.h.stall.toNat g.clsA).1 (nextIssue now r.h.stall.toNat g.clsA).2 false l
    rw [ht1, Option.map_some, if_pos hl] at hlane
    refine ⟨_, hlane, rfl, ?_, fun key => ?_⟩
    · rw [hgoto, ite_self]; rfl
    · rw [Thread.final_goFrom, if_neg (by simp), Thread.final_age, hw.lanes l t t1 hl ht' ht1,
        hb.common hreads hm rfl, Result.valueAt, hown, ite_self]

end

/-- The state `X1` is `X` with the register results of the group's crew `k` outstanding. -/
def Result.GivenIn (r : Result) (g : Group) (X : State) (k : Machine.Crew) (X1 : State) : Prop :=
  ∃ k1, X1 = X.modCrew g.core g.slot (fun _ => k1) ∧ r.Wrote g.mask k k1

section
variable {r : Result} {g : Group} {X X1 : State} {k : Machine.Crew} {h : Hdr} {lat : Nat}

theorem given_write (ho : OneCrew X g k) (hlat : 0 < lat) (d : RegCode)
    (f : Machine.Crew → Mask → Nat → Thread → Word) :
    (Result.single h d.toNat d.isS f).GivenIn g X k (X.write g h d lat fun l k t => f k (k.holding h g.mask) l t) :=
  ⟨_, by rw [write_one X ho.parts]; exact modCrew_congr ho.crew _ _ rfl, Result.wrote_writeRes ho.ready hlat d f⟩

theorem given_writeP (ho : OneCrew X g k) (hlat : 0 < lat) (p : PIdx)
    (f : Machine.Crew → Mask → Nat → Thread → Bool) :
    (Result.single h (pKey p) false fun k on l t => BitVec.ofNat 32 (f k on l t).toNat).GivenIn g X k
      (X.writeP g h p lat fun l k t => f k (k.holding h g.mask) l t) :=
  ⟨_, by rw [writeP_one X ho.parts]; exact modCrew_congr ho.crew _ _ rfl,
    Result.wrote_lanes ho.ready hlat (pKey p) fun k on l t => BitVec.ofNat 32 (f k on l t).toNat⟩

theorem Result.GivenIn.join {R r' : Result} {X2 : State} (hg : r.GivenIn g X k X1) (ho : OneCrew X g k)
    (hg' : ∀ k1, OneCrew X1 g k1 → r'.GivenIn g X1 k1 X2) (hj : R.Joins r r') (hb : r'.ByReads) :
    R.GivenIn g X k X2 := by
  obtain ⟨k1, rfl, hw⟩ := hg
  obtain ⟨k2, rfl, hw'⟩ := hg' k1 ⟨ho.parts, by rw [crew?_modCrew, ho.crew]; rfl, hw.reads.allReady ho.ready⟩
  exact ⟨k2, modCrew_modCrew .., hw.join hw' hj hb ho.ready⟩

/-- An instruction that writes its register results and goes on at the next instruction does what they say. -/
theorem effect_of_given {s : State} {i : Instr} {body : State → Group → State} (hr : Ready s i r.h g k)
    (hl : r.Lands s g k) (hp : r.Plain) (hb : r.ByReads)
    (hx : exec i s = s.run i r.h fun X g => (body X g).finish g r.h)
    (hw : r.GivenIn g (s.begun i g) (s.begunCrew i g k) (body (s.begun i g) g)) : r.Effect s i g k := by
  obtain ⟨k1, hX, hw⟩ := hw
  have ho := hr.2.oneCrew
  have hid : k1.id = k.id := by
    obtain ⟨ts, rs, rfl⟩ := hw.frame
    exact begunCrew_id s i g k
  have hlands : k.Clear (s.context k.id.ctx) g.mask fun _ => g.next := hp.dest g k ▸ hl
  have hclear : k1.Clear (s.context k.id.ctx) g.mask fun _ => g.next := by
    obtain ⟨ts, rs, rfl⟩ := hw.frame
    exact clear_begun hlands
  refine ⟨(s.begun i g).serial, k1.after (s.context k.id.ctx) g r.h ((s.begun i g).coreCycle g.core) (fun _ => g.next)
    false, ?_, ?_, ?_⟩
  · rw [hx, hr.run, hX, State.finish, finishTo_clear hr.2.parts (by rw [crew?_modCrew, ho.crew]; rfl)
      (hw.reads.allReady ho.ready)]
    · rw [modCrew_modCrew, hid, context_modCrew, begun_context hr.2, coreCycle_modCrew]
      rfl
    · rw [hid, context_modCrew, begun_context hr.2]
      exact hclear
  · rw [hp]
    obtain ⟨ts, rs, rfl⟩ := hw.frame
    exact { same_wentOn { s.begunCrew i g k with threads := ts, sregs := rs } g.mask _ _ _ _ _ _ with }
  · exact hw.crew hp hb hr.2.allReady hr.2.nonempty _

end

/-! ## Instructions of one destination -/

section
variable {s : State} {i : Instr} {g : Group} {k : Machine.Crew} {h : Hdr} {r : Result}

theorem Result.single_byReads {key : Nat} {uni : Bool} {f : Machine.Crew → Mask → Nat → Thread → Word}
    (hf : ∀ (k k1 : Machine.Crew) on l (t t1 : Thread), k.ReadsAs k1 → t1.read = t.read → f k1 on l t1 = f k on l t) :
    (Result.single h key uni f).ByReads := by
  intro k k1 on l t t1 j hk ht
  simp only [Result.single, hf k k1 on l t t1 hk ht]

/-- A value of each thread's own, which the model computes as `F` (R107 to R109, R115). -/
theorem runInt_effect {d : RegCode} {lat : Nat} {F f : Thread → Word} (hr : Ready s i h g k)
    (hl : (Result.one h d.toNat d.isS f).Lands s g k) (hF : ∀ t, F t = f t)
    (hb : ∀ t t1 : Thread, t1.read = t.read → f t1 = f t) (hlat : 0 < lat)
    (hx : ∀ s, exec i s = Machine.runInt i h d lat F s) : (Result.one h d.toNat d.isS f).Effect s i g k := by
  obtain rfl : F = f := funext hF
  exact effect_of_given (body := fun X g => X.write g h d lat fun _ _ t => F t) hr hl rfl
    (Result.single_byReads fun _ _ _ _ t t1 _ ht => hb t t1 ht) (hx s)
    (given_write hr.2.oneCrew hlat d fun _ _ _ t => F t)

/-- A predicate of each thread's own. -/
theorem writeP_effect {p : PIdx} {lat : Nat} {F f : Thread → Bool} (hr : Ready s i h g k)
    (hl : (Result.one h (pKey p) false fun t => BitVec.ofNat 32 (f t).toNat).Lands s g k) (hF : ∀ t, F t = f t)
    (hb : ∀ t t1 : Thread, t1.read = t.read → f t1 = f t) (hlat : 0 < lat)
    (hx : exec i s = s.run i h fun X g => (X.writeP g h p lat fun _ _ t => F t).finish g h) :
    (Result.one h (pKey p) false fun t => BitVec.ofNat 32 (f t).toNat).Effect s i g k := by
  obtain rfl : F = f := funext hF
  exact effect_of_given (body := fun X g => X.writeP g h p lat fun _ _ t => F t) hr hl rfl
    (Result.single_byReads fun _ _ _ _ t t1 _ ht => by rw [hb t t1 ht]) hx
    (given_writeP hr.2.oneCrew hlat p fun _ _ _ t => F t)

theorem intReg_effect {fn : Nat} {o : Op3} {F : Word → Word → Word → Word} (hi : intReg fn h o = some r)
    (hr : Ready s i r.h g k) (hl : r.Lands s g k)
    (hF : ∀ a b d, F a b d = r107 fn (o.mod.getLsbD 0) (o.mod.getLsbD 1) a b d)
    (hx : ∀ s, exec i s = runInt i h o.d 2 (fun t => F (t.reg o.a) (t.reg o.b) (t.reg o.d)) s) : r.Effect s i g k := by
  obtain rfl := Option.some.inj hi
  exact runInt_effect hr hl (fun t => hF ..) (fun t t1 ht => by simp only [Thread.reg, ht]) (by decide) hx

theorem intImm_effect {fn : Nat} {o : OpI} {F : Word → Word → Word → Word} (hi : intImm fn h o = some r)
    (hr : Ready s i r.h g k) (hl : r.Lands s g k)
    (hF : ∀ a b d, F a b d = r107 fn (o.mod.getLsbD 0) (o.mod.getLsbD 1) a b d)
    (hx : ∀ s, exec i s = runInt i h o.d 2 (fun t => F (t.reg o.a) o.imm (t.reg o.d)) s) : r.Effect s i g k := by
  obtain rfl := Option.some.inj hi
  exact runInt_effect hr hl (fun t => hF ..) (fun t t1 ht => by simp only [Thread.reg, ht]) (by decide) hx

/-- The integer group, in the order of R107. -/
theorem intResult_effect (hi : intResult i = some r) (hr : Ready s i r.h g k) (hl : r.Lands s g k) :
    r.Effect s i g k := by
  cases i with
  | iadd h o => exact intReg_effect hi hr hl (fnAdd_eq _) fun _ => rfl
  | isub h o => exact intReg_effect hi hr hl (fnSub_eq _) fun _ => rfl
  | imul h o => exact intReg_effect hi hr hl (F := fun a b _ => a * b) (fun _ _ _ => rfl) fun _ => rfl
  | imulh h o => exact intReg_effect hi hr hl (fnMulh_eq _) fun _ => rfl
  | imad h o => exact intReg_effect hi hr hl (F := fun a b d => a * b + d) (fun _ _ _ => rfl) fun _ => rfl
  | imin h o => exact intReg_effect hi hr hl (fnMin_eq _) fun _ => rfl
  | imax h o => exact intReg_effect hi hr hl (fnMax_eq _) fun _ => rfl
  | iabs h o => exact intReg_effect hi hr hl (fnAbs_eq _ _) fun _ => rfl
  | and h o => exact intReg_effect hi hr hl (F := fun a b _ => a &&& b) (fun _ _ _ => rfl) fun _ => rfl
  | or h o => exact intReg_effect hi hr hl (F := fun a b _ => a ||| b) (fun _ _ _ => rfl) fun _ => rfl
  | xor h o => exact intReg_effect hi hr hl (F := fun a b _ => a ^^^ b) (fun _ _ _ => rfl) fun _ => rfl
  | andn h o => exact intReg_effect hi hr hl (F := fun a b _ => a &&& ~~~b) (fun _ _ _ => rfl) fun _ => rfl
  | shl h o => exact intReg_effect hi hr hl (fnShl_eq _ _) fun _ => rfl
  | shr h o => exact intReg_effect hi hr hl (fnShr_eq _ _) fun _ => rfl
  | sar h o => exact intReg_effect hi hr hl (fnSar_eq _ _) fun _ => rfl
  | bfx h o => exact intReg_effect hi hr hl (fnBfx_eq _) fun _ => rfl
  | bfi h o => exact intReg_effect hi hr hl (fnBfi_eq _ _) fun _ => rfl
  | popc h o => exact intReg_effect hi hr hl (fnPopc_eq _ _) fun _ => rfl
  | clz h o => exact intReg_effect hi hr hl (fnClz_eq _ _) fun _ => rfl
  | brev h o => exact intReg_effect hi hr hl (fnBrev_eq _ _) fun _ => rfl
  | mov h o => exact intReg_effect hi hr hl (F := fun _ b _ => b) (fun _ _ _ => rfl) fun _ => rfl
  | iset h o =>
    obtain rfl := Option.some.inj hi
    exact writeP_effect hr hl (fun t => condHolds_icmp ..) (fun t t1 ht => by simp only [Thread.reg, ht]) (by decide) rfl
  | iaddImm h o => exact intImm_effect hi hr hl (fnAdd_eq _) fun _ => rfl
  | isubImm h o => exact intImm_effect hi hr hl (fnSub_eq _) fun _ => rfl
  | imulImm h o => exact intImm_effect hi hr hl (F := fun a b _ => a * b) (fun _ _ _ => rfl) fun _ => rfl
  | imulhImm h o => exact intImm_effect hi hr hl (fnMulh_eq _) fun _ => rfl
  | imadImm h o => exact intImm_effect hi hr hl (F := fun a b d => a * b + d) (fun _ _ _ => rfl) fun _ => rfl
  | iminImm h o => exact intImm_effect hi hr hl (fnMin_eq _) fun _ => rfl
  | imaxImm h o => exact intImm_effect hi hr hl (fnMax_eq _) fun _ => rfl
  | iabsImm h o => exact intImm_effect hi hr hl (fnAbs_eq _ _) fun _ => rfl
  | andImm h o => exact intImm_effect hi hr hl (F := fun a b _ => a &&& b) (fun _ _ _ => rfl) fun _ => rfl
  | orImm h o => exact intImm_effect hi hr hl (F := fun a b _ => a ||| b) (fun _ _ _ => rfl) fun _ => rfl
  | xorImm h o => exact intImm_effect hi hr hl (F := fun a b _ => a ^^^ b) (fun _ _ _ => rfl) fun _ => rfl
  | andnImm h o => exact intImm_effect hi hr hl (F := fun a b _ => a &&& ~~~b) (fun _ _ _ => rfl) fun _ => rfl
  | shlImm h o => exact intImm_effect hi hr hl (fnShl_eq _ _) fun _ => rfl
  | shrImm h o => exact intImm_effect hi hr hl (fnShr_eq _ _) fun _ => rfl
  | sarImm h o => exact intImm_effect hi hr hl (fnSar_eq _ _) fun _ => rfl
  | movi h o => exact intImm_effect hi hr hl (F := fun _ b _ => b) (fun _ _ _ => rfl) fun _ => rfl
  | isetImm h o =>
    obtain rfl := Option.some.inj hi
    exact writeP_effect hr hl (fun t => condHolds_icmp ..) (fun t t1 ht => by simp only [Thread.reg, ht]) (by decide) rfl
  | _ => exact absurd hi nofun

/-! ## Selection and packing -/

/-- PACK: two elements of `w` bits in place of the pair `e` of a word. -/
theorem pack_eq_ofBits (d a b : Word) (w e : Nat) :
    (BitVec.ofNat 32 (setBits d.toNat (2 * w * e) (2 * w) (bitsOf a.toNat 0 w + 2 ^ w * bitsOf b.toNat 0 w)) : Word)
      = ofBits fun i => if i < 2 * w * e ∨ 2 * w * (e + 1) ≤ i then d.getLsbD i
          else if i < 2 * w * e + w then a.getLsbD (i - 2 * w * e)
          else b.getLsbD (i - 2 * w * e - w) := by
  refine eq_ofBits fun i hi => ?_
  have ha : bitsOf a.toNat 0 w < 2 ^ w := Nat.mod_lt _ (Nat.two_pow_pos w)
  rw [BitVec.getLsbD_ofNat, testBit_setBits, Nat.mul_add, Nat.mul_one, Nat.add_comm (bitsOf a.toNat 0 w),
    Nat.testBit_two_pow_mul_add _ ha]
  simp only [bitsOf, Nat.pow_zero, Nat.div_one, Nat.testBit_mod_two_pow, hi, decide_true, Bool.true_and]
  by_cases hin : 2 * w * e ≤ i ∧ i < 2 * w * e + 2 * w
  · rw [if_pos hin, if_neg (show ¬ (i < 2 * w * e ∨ 2 * w * e + 2 * w ≤ i) by omega)]
    by_cases hlow : i < 2 * w * e + w
    · rw [if_pos (show i - 2 * w * e < w by omega), if_pos hlow, decide_eq_true (by omega), Bool.true_and]
      rfl
    · rw [if_neg (show ¬ i - 2 * w * e < w by omega), if_neg hlow, decide_eq_true (by omega), Bool.true_and]
      rfl
  · rw [if_neg hin, if_pos (by omega)]
    rfl

theorem moveResult_effect (hi : moveResult i = some r) (hr : Ready s i r.h g k)
    (hl : r.Lands s g k) : r.Effect s i g k := by
  cases i with
  | sel h o =>
    obtain rfl := Option.some.inj hi
    exact runInt_effect hr hl (fun _ => rfl) (fun t t1 ht => by unfold Thread.reg Thread.pred; rw [ht]) (by decide)
      fun _ => rfl
  | pack h o =>
    obtain rfl := Option.some.inj hi
    exact runInt_effect hr hl (fun _ => pack_eq_ofBits ..) (fun t t1 ht => by simp only [Thread.reg, ht]) (by decide)
      fun _ => rfl
  | unpk h o =>
    obtain rfl := Option.some.inj hi
    have hw : 0 < 16 / 2 ^ o.width.toNat :=
      Nat.div_pos (Nat.pow_le_pow_right (n := 2) (j := 4) (by decide) (by omega)) (Nat.two_pow_pos _)
    exact runInt_effect hr hl (fun t => ofInt_field o.sx hw (Nat.mod_lt _ (Nat.two_pow_pos _)))
      (fun t t1 ht => by unfold Thread.reg; rw [ht]) (by decide) fun _ => rfl
  | _ => exact absurd hi nofun

/-! ## Predicates -/

/-- The writes of PLOP: E after D. -/
def plopWrites (h : Hdr) (o : PlopOp) (X : State) (g : Group) : State :=
  let idx := fun (t : Thread) => 4 * (t.pred o.a).toNat + 2 * (t.pred o.b).toNat + (t.pred o.c).toNat
  let s := X.writeP g h o.d 2 fun _ _ t => o.lut.getLsbD (idx t)
  if o.ev then s.writeP g h o.e 2 fun _ _ t => o.lut2.getLsbD (idx t) else s

theorem given_plop {X : State} (ho : OneCrew X g k) (o : PlopOp) :
    Result.GivenIn { Result.none h with
      regs := fun _ _ _ t key =>
        if o.ev = true ∧ key = pKey o.e then some (lookup o.lut2 (t.pred o.a) (t.pred o.b) (t.pred o.c))
        else if key = pKey o.d then some (lookup o.lut (t.pred o.a) (t.pred o.b) (t.pred o.c))
        else Option.none } g X k
      (plopWrites h o X g) := by
  unfold plopWrites
  have hd := given_writeP ho (h := h) (lat := 2) (by decide) o.d fun _ _ _ t =>
    o.lut.getLsbD (4 * (t.pred o.a).toNat + 2 * (t.pred o.b).toNat + (t.pred o.c).toNat)
  cases hev : o.ev with
  | false =>
    simp only [Bool.false_eq_true, false_and, if_false]
    exact hd
  | true =>
    simp only [true_and, if_true]
    refine hd.join ho (fun k1 ho1 => given_writeP ho1 (h := h) (by decide) o.e fun _ _ _ t =>
      o.lut2.getLsbD (4 * (t.pred o.a).toNat + 2 * (t.pred o.b).toNat + (t.pred o.c).toNat))
      ⟨⟨rfl, rfl⟩, ⟨rfl, rfl⟩, fun k on l t key => ?_⟩
      (Result.single_byReads fun _ _ _ _ t t1 _ ht => by simp only [Thread.pred, ht])
    by_cases he : key = pKey o.e
    · simp only [Result.single, he, if_true]
      rfl
    · simp only [Result.single, he, if_false]
      rfl

theorem pKey_half (half : Bool) {n : Nat} (hn : n < 32) :
    pKey (BitVec.ofNat 6 (32 * half.toNat + n)) = 512 + 32 * half.toNat + n := by
  have := Bool.toNat_lt half
  rw [pKey, BitVec.toNat_ofNat, Nat.mod_eq_of_lt (by omega), Nat.add_assoc]

/-- The writes of PMOV to predicates: the first `n` of the half. -/
def pmovWrites (h : Hdr) (half : Bool) (a : RegCode) (n : Nat) (X : State) (g : Group) : State :=
  (List.range n).foldl (fun s i => s.writeP g h (BitVec.ofNat 6 (32 * half.toNat + i)) 2 fun _ _ t =>
    (t.reg a).getLsbD i) X

theorem given_pmov {X : State} (ho : OneCrew X g k) (half : Bool) (a : RegCode) (n : Nat) (hn : n ≤ 32) :
    Result.GivenIn { Result.none h with
      regs := fun _ _ _ t key =>
        if 512 + 32 * half.toNat ≤ key ∧ key < 512 + 32 * half.toNat + n then
          some (BitVec.ofNat 32 ((t.reg a).getLsbD (key - (512 + 32 * half.toNat))).toNat)
        else Option.none } g X k
      (pmovWrites h half a n X g) := by
  induction n with
  | zero =>
    refine ⟨k, (modCrew_id ho.crew _ rfl).symm, Result.wrote_self fun l t key _ _ => ?_⟩
    simp [Result.common, Result.none]
  | succ n ih =>
    rw [pmovWrites, List.range_succ, List.foldl_append]
    refine (ih (by omega)).join ho (fun k1 ho1 => given_writeP ho1 (h := h) (by decide) _ fun _ _ _ t =>
      (t.reg a).getLsbD n) ⟨⟨rfl, rfl⟩, ⟨rfl, rfl⟩, fun k on l t key => ?_⟩
      (Result.single_byReads fun _ _ _ _ t t1 _ ht => by simp only [Thread.reg, ht])
    simp only [Result.single, pKey_half half (Nat.lt_of_succ_le hn)]
    by_cases hk : key = 512 + 32 * half.toNat + n
    · rw [if_pos hk, if_pos (by omega), hk, Nat.add_sub_cancel_left]
      rfl
    · rw [if_neg hk, Option.none_or]
      congr 1
      simp only [eq_iff_iff]
      omega

theorem predResult_effect (hi : predResult i = some r) (hr : Ready s i r.h g k) (hl : r.Lands s g k) :
    r.Effect s i g k := by
  cases i with
  | plop h o =>
    obtain rfl := Option.some.inj hi
    exact effect_of_given (body := plopWrites h o) hr hl rfl
      (fun _ _ _ _ t t1 _ _ ht => by simp only [Thread.pred, ht]) rfl (given_plop hr.2.oneCrew o)
  | pmov h dir half a =>
    cases dir with
    | true =>
      obtain rfl := Option.some.inj hi
      exact effect_of_given (body := pmovWrites h half a 32) hr hl rfl
        (fun _ _ _ _ t t1 _ _ ht => by simp only [Thread.reg, ht]) rfl (given_pmov hr.2.oneCrew half a 32 le_rfl)
    | false =>
      obtain rfl := Option.some.inj hi
      exact effect_of_given (body := fun X g => X.write g h a 2 fun _ _ t => ofBits fun i =>
          t.pred (BitVec.ofNat 6 (32 * half.toNat + i))) hr hl rfl
        (Result.single_byReads fun _ _ _ _ t t1 _ ht => by simp only [Thread.pred, ht]) rfl
        (given_write hr.2.oneCrew (by decide) a fun _ _ _ t => ofBits fun i =>
          t.pred (BitVec.ofNat 6 (32 * half.toNat + i)))
  | _ => exact absurd hi nofun

/-! ## Lanes -/

/-- Results that agree wherever a guard holds are given by the same writes. -/
theorem Result.GivenIn.congr {R : Result} {X X1 : State} (hg : r.GivenIn g X k X1) (hm : k.AllReady g.mask)
    (hh : R.h = r.h) (hu : R.uni = r.uni)
    (hregs : ∀ l t key, (k.holding r.h g.mask).getLsbD l = true → k.thread? l = some t →
      R.regs k (k.holding r.h g.mask) l t key = r.regs k (k.holding r.h g.mask) l t key) : R.GivenIn g X k X1 := by
  have hcommon : ∀ l t key, g.mask.getLsbD l = true → k.thread? l = some t →
      R.common k g.mask l t key = r.common k g.mask l t key := by
    intro l t key hl ht
    unfold Result.common
    rw [hh, hu]
    simp only
    split
    · split
      · rfl
      · rename_i hon
        obtain ⟨v, hv, -⟩ := hm _ (holding_sub (lowLane_mem hon))
        rw [hv, Option.bind_some, Option.bind_some]
        exact hregs _ v key (lowLane_mem hon) hv
    · split
      · rename_i hgd
        obtain ⟨v, hv, hst⟩ := hm l hl
        obtain rfl : t = v := Option.some.inj (ht.symm.trans hv)
        exact hregs l t key ((getLsbD_holding hl ht hst).trans hgd) ht
      · rfl
  obtain ⟨k1, hX, hw⟩ := hg
  refine ⟨k1, hX, hw.frame, hw.reads, hw.out, fun l t hl ht key => ?_, fun l t t1 hl ht ht1 key => ?_⟩
  · rw [hw.sregs l t hl ht, hcommon l t key hl ht, hu]
  · rw [hw.lanes l t t1 hl ht ht1, hcommon l t key hl ht]

/-- The threads that a cross-lane instruction names are its group (R120). -/
theorem member_eq_of_ready {mr : RegCode} (hr : Ready s i h g k) (hm : i.maskPair = some mr) {l : Nat} {t : Thread}
    (hl : g.mask.getLsbD l = true) (ht : k.thread? l = some t) : t.member mr = g.mask := by
  have hg := hr.2.gathered
  unfold Gathered at hg
  rw [hm] at hg
  exact hg l t hl ht

theorem source_of_read {t t1 : Thread} (ht : t1.read = t.read) (l : Nat) (i : Instr) : source t1 l i = source t l i := by
  unfold source
  split
  · simp only [Thread.reg, ht]
  · rfl
  · rfl
  · rfl
  · rfl

theorem shuffled_byReads (o : LaneOp) (hi : shuffled i h o = some r) : r.ByReads := by
  obtain rfl := Option.some.inj hi
  intro k k1 on l t t1 key hk ht
  have hmem : t1.member o.m = t.member o.m := by simp only [Thread.member, Thread.pair, ht]
  have hreg : t1.reg o.a = t.reg o.a := by simp only [Thread.reg, ht]
  simp only [source_of_read ht, hmem, hreg, hk.map_reg]

/-- A lane picks A of a source lane in the group, and else its own. -/
theorem pick_some_eq {named : Mask} (hm : k.AllReady named) {l : Nat} {t : Thread} (ht : k.thread? l = some t)
    (a : RegCode) (x : Nat) :
    (if x < 64 ∧ named.getLsbD x = true then (k.thread? x).map (·.reg a) else some (t.reg a))
      = some (k.pick named a l (some x)) := by
  simp only [Machine.Crew.pick, Machine.Crew.laneReg_of_thread a ht, Bool.and_eq_true, decide_eq_true_eq]
  split
  · rename_i hx
    obtain ⟨u, hu, -⟩ := hm x hx.2
    rw [Machine.Crew.laneReg_of_thread a hu, hu]
    rfl
  · rfl

theorem shuffle_effect {o : LaneOp} {src : Thread → Nat → Option Nat} (hi : shuffled i h o = some r)
    (hr : Ready s i r.h g k) (hl : r.Lands s g k) (hm : i.maskPair = some o.m)
    (hsrc : ∀ t l, source t l i = src t l) (hx : exec i s = runShuffle i h o src s) : r.Effect s i g k := by
  have hb := shuffled_byReads o hi
  obtain rfl := Option.some.inj hi
  refine effect_of_given (body := fun X g => X.write g h o.d 3 fun l k t => k.pick g.mask o.a l (src t l)) hr hl rfl hb
    hx ((given_write hr.2.oneCrew (h := h) (lat := 3) (by decide) o.d fun k _ l t => k.pick g.mask o.a l (src t l)).congr
      hr.2.oneCrew.ready rfl rfl fun l t key hon ht => ?_)
  have hmem := member_eq_of_ready hr hm (holding_sub hon) (by rw [← begunCrew_thread? s i g k, ht])
  simp only [Result.single, hsrc]
  by_cases hk : key = o.d.toNat
  · rw [if_neg (not_not.mpr hk), if_pos hk, hmem]
    cases src t l with
    | none => exact congrArg some (Machine.Crew.laneReg_of_thread o.a ht).symm
    | some x => exact pick_some_eq hr.2.oneCrew.ready ht o.a x
  · rw [if_pos hk, if_neg hk]

/-- OFF of SHFR in its two forms (R122). -/
theorem off_eq {c : ShfrCtl} (hc : c.ok = true) :
    (if c.rel then (if c.neg then -(2 : Int) ^ (6 - c.j.toNat) else 2 ^ (6 - c.j.toNat)) else c.k.toInt)
      = ShfrCtl.off c := by
  unfold ShfrCtl.off
  cases hrel : c.rel with
  | false => rfl
  | true =>
    simp only [ShfrCtl.ok, hrel, if_true, Bool.and_eq_true, decide_eq_true_eq] at hc
    have hpow : 64 / 2 ^ c.j.toNat = 2 ^ (6 - c.j.toNat) := Nat.pow_div (x := 2) (m := 6) hc.2.2 (by decide)
    rw [if_pos rfl, if_pos rfl, hpow]
    push_cast
    rfl

/-- A 64-bit result in a pair (R100). -/
theorem given_writePair {X : State} {d : RegCode} {lat : Nat} (ho : OneCrew X g k) (hlat : 0 < lat)
    (hd : d.isEven = true) (V : Machine.Crew → Mask → Nat → Thread → Mask)
    (hV : ∀ (k k1 : Machine.Crew) on l (t t1 : Thread), k.ReadsAs k1 → t1.read = t.read → V k1 on l t1 = V k on l t) :
    Result.GivenIn { h := h, uni := d.isS, regs := fun k on l t key => pairOf d (V k on l t) key } g X k
      (X.writePair g h d lat fun l k t => (V k (k.holding h g.mask) l t).toNat) := by
  obtain ⟨-, hS⟩ := pair_of_isEven hd
  refine (given_write ho (h := h) hlat d fun k on l t => BitVec.ofNat 32 (V k on l t).toNat).join ho
    (fun k1 ho1 => given_write ho1 (h := h) hlat (d + 1) fun k on l t => BitVec.ofNat 32 ((V k on l t).toNat / 2 ^ 32))
    ⟨⟨rfl, rfl⟩, ⟨rfl, hS⟩, fun k on l t key => ?_⟩
    (Result.single_byReads fun k k1 on l t t1 hk ht => by rw [hV k k1 on l t t1 hk ht])
  simp only [pairOf, Result.single]
  by_cases hk : key = (d + 1).toNat
  · rw [if_pos hk, if_pos hk]
    rfl
  · rw [if_neg hk, if_neg hk]
    rfl

/-- Whether a vote holds (R125): in some lane, in every lane. -/
def voteHolds (mode : BitVec 2) (k : Machine.Crew) (on : Mask) (q : PIdx) : Bool :=
  if mode = 0 then decide (k.ballot on q ≠ 0) else decide (k.ballot on q = on)

theorem laneResult_vote_pred {o : LaneOp} {mode : BitVec 2} (hmode : mode.toNat ≤ 1) :
    laneResult (.vote h o mode) = some (Result.single h (pKey (predOf o.d)) false fun k on _ _ =>
      BitVec.ofNat 32 (voteHolds mode k on (predOf o.a)).toNat) := by
  have hbit : ∀ (p : Prop) [Decidable p], (if p then 1 else 0 : Word) = BitVec.ofNat 32 (decide p).toNat := by
    intro p _
    by_cases hp : p
    · rw [decide_eq_true hp, if_pos hp]; rfl
    · rw [decide_eq_false hp, if_neg hp]; rfl
  unfold laneResult
  simp only [if_pos hmode, Result.single, Result.none, voteHolds, ← Machine.Crew.ballot_eq]
  congr 2
  funext k on l t key
  congr 2
  split
  · exact hbit _
  · exact hbit _

theorem laneResult_vote_pair {o : LaneOp} {mode : BitVec 2} (hmode : ¬ mode.toNat ≤ 1) :
    laneResult (.vote h o mode) = some {
      h := h, uni := o.d.isS, regs := fun k on _ _ key => pairOf o.d (k.ballot on (predOf o.a)) key } := by
  unfold laneResult
  simp only [if_neg hmode, Machine.Crew.ballot_eq]

theorem vote_effect {o : LaneOp} {mode : BitVec 2} (hi : laneResult (.vote h o mode) = some r)
    (hwf : (Instr.vote h o mode).wellFormed = true) (hr : Ready s (.vote h o mode) r.h g k) (hl : r.Lands s g k) :
    r.Effect s (.vote h o mode) g k := by
  by_cases hmode : mode.toNat ≤ 1
  · obtain rfl := Option.some.inj ((laneResult_vote_pred hmode).symm.trans hi)
    refine effect_of_given (body := fun X g => X.writeP g h (predOf o.d) 3 fun _ k _ =>
        voteHolds mode k (k.holding h g.mask) (predOf o.a)) hr hl rfl
      (Result.single_byReads fun k k1 on l t t1 hk _ => by simp only [voteHolds, hk.ballot]) ?_
      (given_writeP hr.2.oneCrew (by decide) (predOf o.d) fun k on _ _ => voteHolds mode k on (predOf o.a))
    obtain rfl | rfl : mode = 0 ∨ mode = 1 := by
      rcases Nat.le_one_iff_eq_zero_or_eq_one.mp hmode with h0 | h1
      · exact .inl (BitVec.eq_of_toNat_eq h0)
      · exact .inr (BitVec.eq_of_toNat_eq h1)
    · rfl
    · rfl
  · obtain rfl := Option.some.inj ((laneResult_vote_pair hmode).symm.trans hi)
    have hV : ∀ (k k1 : Machine.Crew) on (l : Nat) (t t1 : Thread), k.ReadsAs k1 → t1.read = t.read →
        k1.ballot on (predOf o.a) = k.ballot on (predOf o.a) := fun k k1 on l t t1 hk _ => hk.ballot on _
    have htwo : mode = 2 ∧ o.d.isEven = true := by
      have hok : (h.ok && o.m.isEven && decide (o.b = 0) && o.a.isPred && decide (mode.toNat ≤ 2)
        && (if mode.toNat = 2 then o.d.isEven else o.d.isPred)) = true := rsvdOk_of_wellFormed hwf
      simp only [Bool.and_eq_true, decide_eq_true_eq] at hok
      obtain ⟨⟨-, hle⟩, heven⟩ := hok
      have h2 : mode.toNat = 2 := by omega
      rw [if_pos h2] at heven
      exact ⟨BitVec.eq_of_toNat_eq h2, heven⟩
    obtain ⟨rfl, heven⟩ := htwo
    exact effect_of_given (body := fun X g => X.writePair g h o.d 3 fun _ k _ =>
        (k.ballot (k.holding h g.mask) (predOf o.a)).toNat) hr hl rfl
      (fun k k1 on l t t1 key hk ht => by simp only [hk.ballot]) rfl
      (given_writePair hr.2.oneCrew (by decide) heven (fun k on _ _ => k.ballot on (predOf o.a)) hV)

/-- MATCH: the lanes that hold the same value (R126). -/
theorem match_effect {o : LaneOp} (hi : laneResult (.matchLanes h o) = some r)
    (hwf : (Instr.matchLanes h o).wellFormed = true) (hr : Ready s (.matchLanes h o) r.h g k) (hl : r.Lands s g k) :
    r.Effect s (.matchLanes h o) g k := by
  obtain rfl := Option.some.inj hi
  have hok : (h.ok && o.m.isEven && decide (o.b = 0) && o.d.isEven) = true := rsvdOk_of_wellFormed hwf
  have heven : o.d.isEven = true := (Bool.and_eq_true_iff.mp hok).2
  refine effect_of_given (body := fun X g => X.writePair g h o.d 3 fun l k _ =>
      (maskFilter (k.holding h g.mask) fun x => decide (k.laneReg o.a x = k.laneReg o.a l)).toNat) hr hl rfl ?_ rfl
    ((given_writePair (h := h) (lat := 3) hr.2.oneCrew (by decide) heven
        (fun k on l _ => maskFilter on fun x => decide (k.laneReg o.a x = k.laneReg o.a l)) ?_).congr
      hr.2.oneCrew.ready rfl rfl ?_)
  · intro k k1 on l t t1 key hk ht
    have hreg : t1.reg o.a = t.reg o.a := by simp only [Thread.reg, ht]
    simp only [hreg, hk.map_reg]
  · intro k k1 on l t t1 hk _
    simp only [hk.laneReg]
  · intro l t key _ ht
    simp only
    rw [maskFilter_congr fun x hx => ?_]
    obtain ⟨u, hu, -⟩ := hr.2.oneCrew.ready x (holding_sub hx)
    rw [Machine.Crew.laneReg_of_thread o.a ht, Machine.Crew.laneReg_of_thread o.a hu, hu, Option.map_some]
    exact decide_eq_decide.mpr Option.some_inj

theorem laneResult_effect (hi : laneResult i = some r) (hwf : i.wellFormed = true) (hr : Ready s i r.h g k)
    (hl : r.Lands s g k) : r.Effect s i g k := by
  cases i with
  | shfl h o => exact shuffle_effect hi hr hl rfl (fun _ _ => rfl) rfl
  | shfr h o c =>
    have hok : (h.ok && o.m.isEven && decide (o.b = 0) && c.ok) = true := rsvdOk_of_wellFormed hwf
    have hc : c.ok = true := (Bool.and_eq_true_iff.mp hok).2
    refine shuffle_effect hi hr hl rfl (fun t l => ?_) rfl
    unfold source
    simp only [off_eq hc]
    rfl
  | shfx h o x => exact shuffle_effect hi hr hl rfl (fun _ _ => rfl) rfl
  | bcast h o x => exact shuffle_effect hi hr hl rfl (fun _ _ => rfl) rfl
  | vote h o mode => exact vote_effect hi hwf hr hl
  | matchLanes h o => exact match_effect hi hwf hr hl
  | _ => exact absurd hi nofun

end

/-- Settles O1: each instruction issues through `effect_of_given`, its writes are what the table of the spec lists, and
the threads of a cross-lane group are those that it names. -/
theorem integerAndMoves : Obligations.IntegerAndMoves := by
  refine ⟨fun i r hi _ s g k hr hl => intResult_effect hi hr hl, fun i r hi _ s g k hr hl => ?_,
    fun i r hi hwf s g k hr hl => laneResult_effect hi hwf hr hl⟩
  rcases hi with hi | hi
  · exact moveResult_effect hi hr hl
  · exact predResult_effect hi hr hl

end Sys2Proof.Claims

/-! Atomic updates of a word (R269, R270): what each lane finds and what the word holds at the end are the word after
each initial segment of the lanes, shortest first; and the statement AtomicUpdate. -/

namespace Sys2Proof.Claims

open Sys2Proof.Machine

/-! ## One update (R269) -/

theorem ite_icmp_lt_zero (u : Bool) (a b x y : Word) :
    (if icmp u a b < 0 then x else y) = if num u b ≤ num u a then y else x := by
  simp only [icmp_lt_zero, ← not_lt, ite_not]

/-- The model's APPLY is the table of R269. -/
theorem atomApply_eq_applied (op ty : Nat) (cur a b : Word) : atomApply op ty cur a b = applied op ty cur a b := by
  match op with
  | 1 => simp only [atomApply, applied, ite_icmp_lt_zero, minF32]
  | 2 => simp only [atomApply, applied, ite_icmp_lt_zero, maxF32]
  | 0 | 3 | 4 | 5 | 6 | _ + 7 => rfl

/-! ## The lanes of a word in ascending order (R270) -/

/-- Before each lane and after the last, a word has taken the updates of the lanes below. -/
theorem atomChain_eq_map_inits (op ty : Nat) (cur : Word) (xs : List (Word × Word)) :
    (atomChain op ty cur xs).1 ++ [(atomChain op ty cur xs).2]
      = xs.inits.map fun ys => ys.foldl (fun v y => applied op ty v y.1 y.2) cur := by
  induction xs generalizing cur with
  | nil => rfl
  | cons x xs ih =>
    rw [List.inits_cons, List.map_cons, List.map_map]
    exact congrArg (cur :: ·) ((ih _).trans (by rw [atomApply_eq_applied]; rfl))

/-- The sum of the F32 operands of some lanes with that of one lane more (R270). -/
def extendSum (pre : Option Word) (y : Word × Word) : Option Word :=
  some (match pre with | some v => sumF32 v y.1 | none => y.1)

/-- A word with the sum of some lanes added, where there are any (R270). -/
def addSum (old : Word) (pre : Option Word) : Word :=
  match pre with
  | some v => sumF32 old v
  | none => old

theorem preSums_eq_map_inits (pre : Option Word) (xs : List (Word × Word)) :
    (preSums pre xs).1 ++ [(preSums pre xs).2] = xs.inits.map (List.foldl extendSum pre) := by
  induction xs generalizing pre with
  | nil => rfl
  | cons x xs ih =>
    rw [List.inits_cons, List.map_cons, List.map_map]
    exact congrArg (pre :: ·) (ih (extendSum pre x))

theorem foldl_extendSum_some (p : Word) (xs : List (Word × Word)) :
    xs.foldl extendSum (some p) = some (xs.foldl (fun p y => applied 0 2 p y.1 0) p) := by
  induction xs generalizing p with
  | nil => rfl
  | cons x xs ih => exact ih _

/-- The operands are summed first, and the sum is added to the word at once (R270). -/
theorem addSum_foldl_extendSum (old : Word) (xs : List (Word × Word)) :
    addSum old (xs.foldl extendSum none) = after 0 2 old xs := by
  cases xs with
  | nil => rfl
  | cons x xs => exact congrArg (addSum old) (foldl_extendSum_some x.1 xs)

theorem atomWord_sum (old : Word) (xs : List (Word × Word)) :
    atomWord 0 2 old xs = ((preSums none xs).1.map (addSum old), addSum old (preSums none xs).2) := by
  rw [atomWord, if_pos ⟨rfl, rfl⟩]
  rfl

theorem atomWord_of_not_sum {op ty : Nat} (h : ¬ (op = 0 ∧ ty = 2)) (old : Word) (xs : List (Word × Word)) :
    atomWord op ty old xs = atomChain op ty old xs := if_neg h

/-- The results of the lanes, and the new value after them, are the word after each initial segment of the lanes. -/
theorem atomWord_eq_map_inits (op ty : Nat) (old : Word) (xs : List (Word × Word)) :
    (atomWord op ty old xs).1 ++ [(atomWord op ty old xs).2] = xs.inits.map (after op ty old) := by
  by_cases h : op = 0 ∧ ty = 2
  · obtain ⟨rfl, rfl⟩ := h
    calc (atomWord 0 2 old xs).1 ++ [(atomWord 0 2 old xs).2]
        = ((preSums none xs).1 ++ [(preSums none xs).2]).map (addSum old) := by rw [atomWord_sum, List.map_append]; rfl
      _ = xs.inits.map fun ys => addSum old (ys.foldl extendSum none) := by
        rw [preSums_eq_map_inits, List.map_map]; rfl
      _ = xs.inits.map (after 0 2 old) := by simp only [addSum_foldl_extendSum]
  · rw [atomWord_of_not_sum h, atomChain_eq_map_inits]
    exact List.map_congr_left fun ys _ => (if_neg h).symm

/-- Settles O18: what the lanes find, followed by the new value, is the word after each initial segment of the lanes. -/
theorem atomicUpdate : Obligations.AtomicUpdate := by
  intro op ty old xs
  have hall := atomWord_eq_map_inits op ty old xs
  have hlen : (atomWord op ty old xs).1.length = xs.length := by
    simpa using congrArg List.length hall
  have hget : ∀ i, i ≤ xs.length →
      ((atomWord op ty old xs).1 ++ [(atomWord op ty old xs).2])[i]? = some (after op ty old (xs.take i)) := by
    intro i hi
    rw [hall, List.getElem?_map, List.getElem?_eq_getElem (by simpa using Nat.lt_succ_of_le hi), List.getElem_inits,
      Option.map_some]
  refine ⟨?_, hlen, fun i hi => ?_⟩
  · simpa [hlen] using hget xs.length le_rfl
  · rw [← hget i hi.le, List.getElem?_append_left (hlen ▸ hi)]

end Sys2Proof.Claims
